-- ==== Sys2Proof/Word.lean ====
section
/-! DEFINITION. The word types of the Dvornath architecture (00 R2, R3): bytes, 32-bit words, 64-bit scalars, and the lanes of a lane mask. -/

namespace Sys2Proof

/-- A byte, 8 bits (00 R4). -/
abbrev Byte := BitVec 8

/-- A 32-bit word: an instruction word (05 R84), a lane of a vector register (03 R57), a lane mask. -/
abbrev W32 := BitVec 32

/-- A 64-bit value: a scalar register (01 R15), a generic address (11 R183), a record dword. -/
abbrev W64 := BitVec 64

/-- The lanes a mask holds, in ascending order; lane `l` is bit `l`. -/
def lanesOf (m : W32) : List Nat := (List.range 32).filter (fun l => m.getLsbD l)

/-- The mask of one lane. -/
def laneBit (l : Nat) : W32 := BitVec.ofNat 32 (2 ^ l)

/-- The mask of the lanes of a list. -/
def maskOf (ls : List Nat) : W32 := ls.foldl (fun m l => m ||| laneBit l) 0

/-- The four lanes of slice `j` (01 R14). -/
def sliceMask (j : Nat) : W32 := BitVec.ofNat 32 (15 * 2 ^ (4 * j))

/-- Bits [lo + n - 1 : lo] of a natural number. -/
def bitsAt (x lo n : Nat) : Nat := x / 2 ^ lo % 2 ^ n

end Sys2Proof
end

