-- ==== Sys2Proof/Inputs.lean ====
section
/-! DEFINITION. What the agents beside the cores, and the world outside the device, choose: the operands of the rows of the opcode table that have no word. -/

namespace Sys2Proof

/-- Table entries that the resident driver sets while it serves a fault: page number (64 KiB) and leaf (11 R189, R192). -/
abbrev Leaves := List (Nat × W64)

/-- How the driver serves TRANSLATION or PROTECTION of a gang (11 R192). -/
inductive FaultAct where
  /-- it maps pages, or brings interim entries to their final state, and resumes the gang -/
  | resume (leaves : Leaves)
  /-- it delivers the trap to the kernel's handler -/
  | deliver
  | terminate
  deriving DecidableEq, Repr

/-- How the driver serves a stopped engine command (17 R269, 19 R280). -/
inductive CmdAct where
  | replay (leaves : Leaves)
  | terminate
  deriving DecidableEq, Repr

/-- Who has a command or a write that waits for the driver: an engine of a core, or the fabric, whose remote writes wait for backing (15 R249). -/
inductive Engine where
  | matrix
  | copy
  | fabric
  deriving DecidableEq, Repr

/-- How the driver serves BACKING_EXHAUSTED (15 R248): frames are physical addresses. -/
inductive BackAct where
  | toPool (frames : List Nat)
  | toReserve (frames : List Nat)
  | deliver
  | terminate
  deriving DecidableEq, Repr

/-- How the driver resolves an engine write that waits for backing (15 R249). -/
inductive EngBackAct where
  | add (frame : Nat)
  | decline
  | terminate
  deriving DecidableEq, Repr

/-- A soft error (11 R216): corrected, or uncorrectable at a place. -/
inductive SoftErr where
  | corrected
  /-- in DRAM, whose code covers the 32-byte sector, and in L2, whose code covers 8 bytes (11 R215) -/
  | memory (pa : Nat)
  | cached (pa : Nat)
  | scratchpad (core off : Nat)
  /-- an element of the accumulator store: 16384 × tile + 128 × row + column -/
  | accumulator (core key : Nat)
  /-- parity of a register's lane -/
  | register (core gang reg lane : Nat)
  /-- parity of a lane of latch x`i` of a plane -/
  | latch (core gang plane i lane : Nat)
  /-- the differs bits or COUNT of a backed page (15 R246) -/
  | differs (region page : Nat)
  deriving DecidableEq, Repr

/-- What the driver chooses in a LOAD (21 R313, log 8): leaves for the pages of code and data, the address of each variant's plane set, the index of each region. -/
structure Placement where
  leaves : Leaves
  bases : List W64
  regions : List Nat
  deriving DecidableEq, Repr

/-- What a packet that arrives through a Borenmin port asks for (25 R377); `bad` are the offsets of payload bytes that come poisoned (11 R216). -/
inductive FabOp where
  /-- a write of bytes at a virtual address of an address space (15 R249) -/
  | write (asid : Nat) (va : W64) (bytes : List Byte) (bad : List Nat)
  /-- a read of `n` bytes, answered to the sender -/
  | read (asid : Nat) (va : W64) (n : Nat)
  /-- an arrival at barrier `bar` of a core, with the remote agent's blame (19 R306) -/
  | arrive (core bar : Nat) (blame : W64)
  /-- the data of a read, or a message of another kind, for the driver -/
  | message (bytes : List Byte) (bad : List Nat)
  /-- a timestamped message between neighbours (25 R379) -/
  | time (t : W64)
  deriving DecidableEq, Repr

/-- A packet on the Borenmin fabric: addressed by 20-bit device identifiers, charged to a domain (25 R377). -/
structure FabPacket where
  dest : BitVec 20
  sender : BitVec 20
  domain : BitVec 8
  op : FabOp
  deriving DecidableEq, Repr

/-- A host access through BAR2, with its AtomicOps, or a read of BAR0 (25 R375). -/
inductive Bar2 where
  /-- a read of `n` bytes of BAR0 -/
  | bar0 (off n : Nat)
  | read (pa n : Nat)
  | write (pa : Nat) (bytes : List Byte) (bad : List Nat)
  /-- AtomicOps of 4 or 8 bytes -/
  | fetchAdd (pa : Nat) (wide : Bool) (x : W64)
  | swap (pa : Nat) (wide : Bool) (x : W64)
  | cas (pa : Nat) (wide : Bool) (cmp x : W64)
  deriving DecidableEq, Repr

/-- A boot stage: its SHAKE256 digest of 64 bytes and its signature (25 R380). -/
structure Stage where
  digest : BitVec 512
  sig : Nat
  deriving DecidableEq, Repr

/-- The transports that carry SPDM (25 R381). -/
inductive Transport where
  | doe
  | management
  deriving DecidableEq, Repr

/-- What happens at a RoCEv2 port (25 R378): the RDMA transport, scale-out messages, and NVMe over Fabrics with the device as host, for a launch or for the driver's own purposes. -/
inductive RoceOp where
  /-- an RDMA write places bytes in device memory, `bad` the offsets of poisoned ones -/
  | place (pa : Nat) (bytes : List Byte) (bad : List Nat)
  /-- an RDMA read of device memory, answered on the port -/
  | read (pa n : Nat)
  | message (bytes : List Byte)
  /-- the driver sends a message, or an NVMe command that begins a storage transfer -/
  | send (bytes : List Byte)
  | command (launch : Option Nat) (capsule : List Byte)
  /-- the response to an NVMe command ends its transfer -/
  | response (launch : Option Nat) (capsule : List Byte)
  deriving DecidableEq, Repr

end Sys2Proof
end

