-- ==== Sys2Proof/Syntax.lean ====
section
/-! DEFINITION. The instructions of the Dvornath architecture and the steps of the machine beside them: one constructor for each row of spec/opcode_table.json. A row with a word carries the fields of that word as they are encoded (05 R86 to R94); a row without a word carries what its agent, or the world outside, chooses. -/

namespace Sys2Proof

/-- One constructor per row of the opcode table. Each docstring gives the rule of spec/ that states the row. -/
inductive Instr where
  /-- R127: Does nothing except invalidate latches as R38 states and advance the offset. -/
  | nop
  /-- R128: Branches each slice whose active lanes satisfy the predicate to k + off20; the other slices fall through. -/
  | bra (p : BitVec 3) (q : BitVec 1) (f : BitVec 20)
  /-- R129: Branch that may divide a slice into two paths, pushing a dual-path entry with the join offset from the preceding HINT.JOIN. -/
  | brc (p : BitVec 3) (q : BitVec 1) (f : BitVec 20)
  /-- R130: Disables the predicated lanes for the next n words without creating a divergence entry. -/
  | skip (p : BitVec 3) (q : BitVec 1) (n : BitVec 3)
  /-- R131: Branches as BRA and writes s63 := k + 1 when any slice takes the transfer. -/
  | call (p : BitVec 3) (q : BitVec 1) (f : BitVec 20)
  /-- R132: Transfers to the offset held in a scalar register, s63 by default, under the per-slice rule. -/
  | ret (p : BitVec 3) (q : BitVec 1) (l : BitVec 6)
  /-- R133: Jumps to k + base14 + s[N], checked against the plane length. -/
  | jmpi (p : BitVec 3) (q : BitVec 1) (b : BitVec 14) (n : BitVec 6)
  /-- R135: Ends the predicated lanes; when the gang has no live lane it waits for its counters and frees its slot. -/
  | exit (p : BitVec 3) (q : BitVec 1)
  /-- R136: Counts as the gang's latest issue, and no split of the gang issues in the following clock. -/
  | yield
  /-- R137: Waits until every live named slice waits at a REGANG, then joins them as one slice group or raises ILLEGAL_OPERAND. -/
  | regang (m : BitVec 8)
  /-- R134: Decrements s[C] once per issue and branches each slice while the count is nonzero and the predicate holds. -/
  | loop (p : BitVec 3) (q : BitVec 1) (c : BitVec 6) (f : BitVec 14)
  /-- R138: Sets the plane of each predicated lane from source A, checking every lane first. -/
  | plsw (p : BitVec 3) (a : BitVec 8)
  /-- R138: Sets the plane of every lane of E to source A. -/
  | plset (a : BitVec 8)
  /-- R138: Writes a predicate that is true in the lanes whose plane equals source A. -/
  | plmsk (d : BitVec 3) (a : BitVec 8)
  /-- R138: Writes the plane occupancy mask of the split into a scalar register. -/
  | plocc (d : BitVec 6)
  /-- R140: Requests an extended register block as v64–v127 and waits in the quadrant queue if none is free. -/
  | racq
  /-- R141: Returns the gang's extended block once no write into v64–v127 is outstanding. -/
  | rrel
  /-- R142: Pushes a region id on the gang's region stack, raising REGION_STACK at depth 16. -/
  | rent (i : BitVec 16)
  /-- R142: Pops the region stack when its top equals the named id, or raises REGION_STACK. -/
  | rlev (i : BitVec 16)
  /-- R144: Writes the AND of two predicates in the lanes of E. -/
  | pand (d : BitVec 7) (a : BitVec 8) (b : BitVec 8)
  /-- R144: Writes the OR of two predicates in the lanes of E. -/
  | por (d : BitVec 7) (a : BitVec 8) (b : BitVec 8)
  /-- R144: Writes the XOR of two predicates in the lanes of E. -/
  | pxor (d : BitVec 7) (a : BitVec 8) (b : BitVec 8)
  /-- R144: Writes the negation of a predicate in the lanes of E. -/
  | pnot (d : BitVec 7) (a : BitVec 8)
  /-- R144: Copies a predicate into the lane bits of a scalar register, keeping the other bits. -/
  | ptos (d : BitVec 7) (a : BitVec 8)
  /-- R145: Sets a predicate per lane from a vector, an inline, a scalar or an immediate. -/
  | pset (d : BitVec 7) (b : BitVec 8)
  /-- R144: Writes in every lane of E the OR of a predicate over the lanes of the issue. -/
  | pany (d : BitVec 7) (a : BitVec 8)
  /-- R144: Writes in every lane of E the AND of a predicate over the lanes of the issue. -/
  | pall (d : BitVec 7) (a : BitVec 8)
  /-- R146: Scalar 64-bit addition modulo 2^64. -/
  | sadd (d : BitVec 6) (a : BitVec 8) (b : BitVec 8)
  /-- R146: Scalar 64-bit subtraction modulo 2^64. -/
  | ssub (d : BitVec 6) (a : BitVec 8) (b : BitVec 8)
  /-- R146: Writes the low 64 bits of a scalar product. -/
  | smul (d : BitVec 6) (a : BitVec 8) (b : BitVec 8)
  /-- R146: Writes the high 64 bits of the signed or natural 128-bit scalar product. -/
  | smulh (m : BitVec 1) (d : BitVec 6) (a : BitVec 8) (b : BitVec 8)
  /-- R147: Writes the signed or natural truncating quotient, with fixed results for the special cases. -/
  | sdiv (m : BitVec 1) (d : BitVec 6) (a : BitVec 8) (b : BitVec 8)
  /-- R147: Writes the signed or natural remainder, with fixed results for the special cases. -/
  | srem (m : BitVec 1) (d : BitVec 6) (a : BitVec 8) (b : BitVec 8)
  /-- R146: Scalar bitwise AND. -/
  | sand (d : BitVec 6) (a : BitVec 8) (b : BitVec 8)
  /-- R146: Scalar bitwise OR. -/
  | sor (d : BitVec 6) (a : BitVec 8) (b : BitVec 8)
  /-- R146: Scalar bitwise XOR. -/
  | sxor (d : BitVec 6) (a : BitVec 8) (b : BitVec 8)
  /-- R146: Scalar shift left by B[5:0]. -/
  | sshl (d : BitVec 6) (a : BitVec 8) (b : BitVec 8)
  /-- R146: Scalar logical shift right by B[5:0]. -/
  | sshr (d : BitVec 6) (a : BitVec 8) (b : BitVec 8)
  /-- R146: Scalar arithmetic shift right by B[5:0]. -/
  | ssra (d : BitVec 6) (a : BitVec 8) (b : BitVec 8)
  /-- R146: Writes the signed or natural smaller of two scalars. -/
  | smin (m : BitVec 1) (d : BitVec 6) (a : BitVec 8) (b : BitVec 8)
  /-- R146: Writes the signed or natural larger of two scalars. -/
  | smax (m : BitVec 1) (d : BitVec 6) (a : BitVec 8) (b : BitVec 8)
  /-- R146: Writes −1, 0 or +1 from a signed or natural scalar comparison. -/
  | scmp (m : BitVec 1) (d : BitVec 6) (a : BitVec 8) (b : BitVec 8)
  /-- R146: Selects A when the old destination is nonzero, otherwise B. -/
  | ssel (d : BitVec 6) (a : BitVec 8) (b : BitVec 8)
  /-- R146: Moves source B, a register or an immediate, into a scalar register. -/
  | smov (d : BitVec 6) (b : BitVec 8)
  /-- R149: Replaces halfword H of a scalar register with a 16-bit immediate. -/
  | smovi (d : BitVec 6) (h : BitVec 2) (i : BitVec 16)
  /-- R146: Writes A plus B shifted left by the minor scale 0 to 3. -/
  | slea (m : BitVec 2) (d : BitVec 6) (a : BitVec 8) (b : BitVec 8)
  /-- R146: Counts the leading zero bits of a scalar. -/
  | sclz (d : BitVec 6) (a : BitVec 8)
  /-- R146: Counts the one bits of a scalar. -/
  | spop (d : BitVec 6) (a : BitVec 8)
  /-- R148: Extracts a bit field of a scalar, zero- or sign-extended. -/
  | sbfe (m : BitVec 1) (d : BitVec 6) (a : BitVec 8) (b : BitVec 8)
  /-- R156: Vector integer addition per element in the common format, wrapping or saturating. -/
  | vadd (n : BitVec 1) (d : BitVec 7) (a : BitVec 8) (b : BitVec 8)
  /-- R156: Vector integer subtraction per element. -/
  | vsub (n : BitVec 1) (d : BitVec 7) (a : BitVec 8) (b : BitVec 8)
  /-- R156: Low w bits of the vector integer product per element. -/
  | vmul (n : BitVec 1) (d : BitVec 7) (a : BitVec 8) (b : BitVec 8)
  /-- R156: High w bits of the exact vector integer product per element. -/
  | vmulh (n : BitVec 1) (d : BitVec 7) (a : BitVec 8) (b : BitVec 8)
  /-- R156: Vector integer multiply-add using the old destination as third source. -/
  | vmad (n : BitVec 1) (d : BitVec 7) (a : BitVec 8) (b : BitVec 8)
  /-- R156: Vector bitwise AND with the result tag of R62. -/
  | vand (n : BitVec 1) (d : BitVec 7) (a : BitVec 8) (b : BitVec 8)
  /-- R156: Vector bitwise OR with the result tag of R62. -/
  | vor (n : BitVec 1) (d : BitVec 7) (a : BitVec 8) (b : BitVec 8)
  /-- R156: Vector bitwise XOR with the result tag of R62. -/
  | vxor (n : BitVec 1) (d : BitVec 7) (a : BitVec 8) (b : BitVec 8)
  /-- R157: Vector shift left by b mod w per element. -/
  | vshl (n : BitVec 1) (d : BitVec 7) (a : BitVec 8) (b : BitVec 8)
  /-- R157: Vector logical shift right by b mod w per element. -/
  | vshr (n : BitVec 1) (d : BitVec 7) (a : BitVec 8) (b : BitVec 8)
  /-- R157: Vector arithmetic shift right by b mod w per element. -/
  | vsra (n : BitVec 1) (d : BitVec 7) (a : BitVec 8) (b : BitVec 8)
  /-- R157: Vector element-wise minimum, signed or natural. -/
  | vmin (n : BitVec 1) (d : BitVec 7) (a : BitVec 8) (b : BitVec 8)
  /-- R157: Vector element-wise maximum, signed or natural. -/
  | vmax (n : BitVec 1) (d : BitVec 7) (a : BitVec 8) (b : BitVec 8)
  /-- R157: Exact absolute difference per element, tagged natural. -/
  | vabsd (n : BitVec 1) (d : BitVec 7) (a : BitVec 8) (b : BitVec 8)
  /-- R156: Counts leading zero bits per element, tagged natural. -/
  | vclz (n : BitVec 1) (d : BitVec 7) (a : BitVec 8)
  /-- R156: Counts one bits per element, tagged natural. -/
  | vpop (n : BitVec 1) (d : BitVec 7) (a : BitVec 8)
  /-- R158: Extracts a bit field per lane, zero- or sign-extended by format. -/
  | vbfe (n : BitVec 1) (d : BitVec 7) (a : BitVec 8) (b : BitVec 8)
  /-- R158: Inserts a bit field of A into the destination per lane. -/
  | vbfi (n : BitVec 1) (d : BitVec 7) (a : BitVec 8) (b : BitVec 8)
  /-- R159: Selects A or B per lane by the old destination as condition. -/
  | vsel (n : BitVec 1) (d : BitVec 7) (a : BitVec 8) (b : BitVec 8)
  /-- R159: Copies the bits and tag of a source into a vector register. -/
  | vmov (n : BitVec 1) (d : BitVec 7) (a : BitVec 8)
  /-- R160: Compares integer elements and writes a predicate and a 0 or 1 into x0. -/
  | vcmp (y : BitVec 1) (r : BitVec 3) (p : BitVec 3) (a : BitVec 8) (b : BitVec 8)
  /-- R161: Floating-point addition per element with one rounding and IEEE flags. -/
  | fadd (n : BitVec 1) (d : BitVec 7) (a : BitVec 8) (b : BitVec 8)
  /-- R161: Floating-point subtraction per element. -/
  | fsub (n : BitVec 1) (d : BitVec 7) (a : BitVec 8) (b : BitVec 8)
  /-- R161: Floating-point multiplication per element. -/
  | fmul (n : BitVec 1) (d : BitVec 7) (a : BitVec 8) (b : BitVec 8)
  /-- R161: Fused multiply-add with the old destination as addend and one rounding. -/
  | ffma (n : BitVec 1) (d : BitVec 7) (a : BitVec 8) (b : BitVec 8)
  /-- R68: Floating-point minimum with −0 below +0 and canonical NaN. -/
  | fmin (n : BitVec 1) (d : BitVec 7) (a : BitVec 8) (b : BitVec 8)
  /-- R68: Floating-point maximum with −0 below +0 and canonical NaN. -/
  | fmax (n : BitVec 1) (d : BitVec 7) (a : BitVec 8) (b : BitVec 8)
  /-- R162: Compares floating-point elements, with unordered relations, into a predicate and x0. -/
  | fcmp (y : BitVec 1) (r : BitVec 3) (p : BitVec 3) (a : BitVec 8) (b : BitVec 8)
  /-- R163: Approximate reciprocal within 1 ulp. -/
  | frcp (n : BitVec 1) (d : BitVec 7) (a : BitVec 8)
  /-- R163: Approximate reciprocal square root within 1 ulp. -/
  | frsq (n : BitVec 1) (d : BitVec 7) (a : BitVec 8)
  /-- R163: Approximate base-2 exponential within 2 ulp. -/
  | fexp2 (n : BitVec 1) (d : BitVec 7) (a : BitVec 8)
  /-- R163: Approximate base-2 logarithm within its bound. -/
  | flog2 (n : BitVec 1) (d : BitVec 7) (a : BitVec 8)
  /-- R164: Writes a one-hot class mask per floating-point element. -/
  | fclass (n : BitVec 1) (d : BitVec 7) (a : BitVec 8)
  /-- R165: Two-term dot product of F16 or BF16 halves added to an F32 destination with one rounding. -/
  | fdot2 (n : BitVec 1) (d : BitVec 7) (a : BitVec 8) (b : BitVec 8)
  /-- R167: Converts each element to another format of the same group by R70. -/
  | cvt (n : BitVec 1) (d : BitVec 7) (a : BitVec 8) (b : BitVec 8)
  /-- R168: Converts four F32 registers per lane into L6 codes with a block scale. -/
  | cvtl6 (n : BitVec 1) (d : BitVec 7) (a : BitVec 8) (b : BitVec 8)
  /-- R169: Computes the E8 block scale of each 8-lane group from four F32 registers. -/
  | l6scl (n : BitVec 1) (d : BitVec 7) (a : BitVec 8)
  /-- R171: Copies bits and sets a named format tag in every lane of E. -/
  | tagset (n : BitVec 1) (d : BitVec 7) (a : BitVec 8) (b : BitVec 8)
  /-- R171: Writes the format tag of a source as an N32 value. -/
  | tagget (n : BitVec 1) (d : BitVec 7) (a : BitVec 8)
  /-- R170: Converts two registers into one of half the element width. -/
  | pack (n : BitVec 1) (d : BitVec 7) (a : BitVec 8) (b : BitVec 8)
  /-- R170: Converts one register into two of twice the width, or L6X4 into four F32 registers. -/
  | unpk (n : BitVec 1) (d : BitVec 7) (a : BitVec 8) (b : BitVec 8)
  /-- R172: Each lane reads a register from a per-lane chosen source lane. -/
  | vshfl (d : BitVec 7) (a : BitVec 8) (b : BitVec 8)
  /-- R172: Rotates a register across the gang's lanes by a uniform amount. -/
  | vrot (d : BitVec 7) (a : BitVec 8) (b : BitVec 8)
  /-- R172: Broadcasts one lane's register to every lane of E. -/
  | vbcst (d : BitVec 7) (a : BitVec 8) (b : BitVec 8)
  /-- R173: Reduces a register over the lanes of E in ascending order and writes the result to every lane. -/
  | vred (d : BitVec 7) (a : BitVec 8) (o : BitVec 4)
  /-- R173: Inclusive or exclusive prefix scan over the lanes of E. -/
  | vscan (d : BitVec 7) (a : BitVec 8) (e : BitVec 1) (o : BitVec 4)
  /-- R174: Compacts the values of predicated lanes into the lowest lanes of E. -/
  | vcmpt (d : BitVec 7) (a : BitVec 8) (p : BitVec 3)
  /-- R174: Writes each lane's rank or the total count of predicated lanes. -/
  | vbal (d : BitVec 7) (p : BitVec 3) (m : BitVec 1)
  /-- R177: Loads a canonical code table into the transform pipe from a scratchpad image. -/
  | xtab (t : BitVec 2) (r : BitVec 1) (a : BitVec 6)
  /-- R179: Decodes one chunk of a coded stream per lane into symbol bytes and a count. -/
  | xdec (f : BitVec 6) (a : BitVec 6) (b : BitVec 6) (c : BitVec 6)
  /-- R180: Computes CRC-32C over a scratchpad range, chained through s[D]. -/
  | xcrc (d : BitVec 6) (b : BitVec 6) (c : BitVec 6)
  /-- R181: Stably sorts keys and payloads across all lanes of the gang. -/
  | xsrt (f : BitVec 6) (a : BitVec 6)
  /-- R223: Loads one byte per lane, extended as the F tag says. -/
  | ldb (v : BitVec 7) (s : BitVec 6) (x : BitVec 7) (f : BitVec 4)
  /-- R223: Loads two bytes per lane, extended as the F tag says. -/
  | ldh (v : BitVec 7) (s : BitVec 6) (x : BitVec 7) (f : BitVec 4)
  /-- R223: Loads four bytes per lane, or a packed L6X4 expansion under F = 0xA. -/
  | ldw (v : BitVec 7) (s : BitVec 6) (x : BitVec 7) (f : BitVec 4)
  /-- R223: Loads eight bytes per lane into an even register pair. -/
  | ldd (v : BitVec 7) (s : BitVec 6) (x : BitVec 7) (f : BitVec 4)
  /-- R223: Loads sixteen bytes per lane into four registers. -/
  | ldq (v : BitVec 7) (s : BitVec 6) (x : BitVec 7) (f : BitVec 4)
  /-- R225: Stores one byte per lane. -/
  | stb (v : BitVec 7) (s : BitVec 6) (x : BitVec 7) (f : BitVec 4)
  /-- R225: Stores two bytes per lane. -/
  | sth (v : BitVec 7) (s : BitVec 6) (x : BitVec 7) (f : BitVec 4)
  /-- R225: Stores four bytes per lane, or three packed L6 bytes under F = 0xA. -/
  | stw (v : BitVec 7) (s : BitVec 6) (x : BitVec 7) (f : BitVec 4)
  /-- R225: Stores eight bytes per lane from a register pair. -/
  | std (v : BitVec 7) (s : BitVec 6) (x : BitVec 7) (f : BitVec 4)
  /-- R225: Stores sixteen bytes per lane from four registers. -/
  | stq (v : BitVec 7) (s : BitVec 6) (x : BitVec 7) (f : BitVec 4)
  /-- R227: Loads one scalar value of the selected width from s[S] + imm. -/
  | sld (d : BitVec 6) (s : BitVec 6) (f : BitVec 4)
  /-- R227: Stores one scalar value of the selected width to s[S] + imm. -/
  | sst (d : BitVec 6) (s : BitVec 6) (f : BitVec 4)
  /-- R229: Per-lane read-modify-write at the address's executing unit, returning the old value. -/
  | atom (v : BitVec 7) (s : BitVec 6) (x : BitVec 7) (f : BitVec 4)
  /-- R231: Bounded increment that writes only while the old value is below the bound. -/
  | abnd (v : BitVec 7) (s : BitVec 6) (x : BitVec 7)
  /-- R232: Bitwise compare-and-swap per lane, returning the old value. -/
  | acas (v : BitVec 7) (s : BitVec 6) (x : BitVec 7)
  /-- R233: Orders the gang's memory events by kind at a scope. -/
  | fence (s : BitVec 3) (k : BitVec 2)
  /-- R234: Waits for the gang's stores at scope V and then discards every fetched instruction of the core. -/
  | ifence
  /-- R235: Prefetches a line or a translation, with no architectural effect. -/
  | prf (s : BitVec 6) (x : BitVec 7) (f : BitVec 4)
  /-- R253: Writes a bit mask of the backed pages among 64 pages of a default region. -/
  | pgenum (d : BitVec 6) (a : BitVec 6)
  /-- R254: Writes the region, backing and count state of one page. -/
  | pgstat (d : BitVec 6) (a : BitVec 6)
  /-- R255: Writes one 64-bit word of a default region descriptor. -/
  | rginfo (f : BitVec 6) (d : BitVec 6) (a : BitVec 6)
  /-- R271: Loads a 32-byte operand map record into an om register. -/
  | opmap (n : BitVec 3) (a : BitVec 6)
  /-- R272: Queues a dense matrix product command into an accumulator tile. -/
  | mma (c : BitVec 1) (a : BitVec 2) (b : BitVec 2) (z : BitVec 1) (o : BitVec 6) (k : BitVec 6)
  /-- R272: Queues a bitmap-sparse matrix product command. -/
  | mmas (c : BitVec 1) (a : BitVec 2) (b : BitVec 2) (z : BitVec 1) (o : BitVec 6) (k : BitVec 6)
  /-- R273: Queues one rank's quadrant of a cluster-wide 256 × 256 product. -/
  | mmac (c : BitVec 1) (a : BitVec 2) (b : BitVec 2) (z : BitVec 1) (o : BitVec 6) (k : BitVec 6)
  /-- R274: Queues a command that zeroes a tile and tags it F32 or S32. -/
  | accz (c : BitVec 1) (s : BitVec 1)
  /-- R275: Queues a command that loads a tile from memory through a map. -/
  | accld (c : BitVec 1) (n : BitVec 3)
  /-- R275: Queues a command that converts and stores a tile to memory. -/
  | accst (c : BitVec 1) (n : BitVec 3)
  /-- R276: After the queue drains, reads 2L tile elements into two vector registers. -/
  | accrd (f : BitVec 6) (p : BitVec 6)
  /-- R276: After the queue drains, writes 2L tile elements from two vector registers. -/
  | accwr (f : BitVec 6) (p : BitVec 6)
  /-- R277: Reads one word of the progress record of the gang's last matrix product. -/
  | mstep (w : BitVec 6) (d : BitVec 6)
  /-- R288: Collective copy request that forms one copy command once every COPY gang has issued its slice. -/
  | cpy (k : BitVec 2) (i : BitVec 4) (r : BitVec 6) (l : BitVec 6) (q : BitVec 6)
  /-- R290: Queues a gather of indexed table rows into the scratchpad. -/
  | gath (k : BitVec 2) (i : BitVec 4) (d : BitVec 6) (b : BitVec 6)
  /-- R290: Queues a scatter of scratchpad rows to indexed table rows. -/
  | scat (k : BitVec 2) (i : BitVec 4) (d : BitVec 6) (b : BitVec 6)
  /-- R292: Initialises a barrier's membership and mode, or a ring's slot count. -/
  | binit (k : BitVec 2) (i : BitVec 4) (m : BitVec 6) (e : BitVec 6)
  /-- R293: Records the gang's arrival at a barrier and returns the phase. -/
  | barv (i : BitVec 4) (d : BitVec 6)
  /-- R294: Adds an expectation to a barrier's pending count. -/
  | bexp (i : BitVec 4) (a : BitVec 6)
  /-- R296: Waits until a barrier phase completes, or raises its error, or BARRIER_ORPHAN. -/
  | bwait (i : BitVec 4) (a : BitVec 6)
  /-- R299: Reads the status word of a barrier or ring without waiting. -/
  | btest (k : BitVec 2) (i : BitVec 4) (d : BitVec 6)
  /-- R303: Waits until a command counter falls to a bound, acquiring the retired commands. -/
  | cwait (n : BitVec 2) (a : BitVec 6)
  /-- R301: Acquires the producer's next ring slot for filling, waiting while it is full or draining. -/
  | stga (i : BitVec 4) (d : BitVec 6)
  /-- R301: Commits the producer's filling slot as full and advances the producer index. -/
  | stgc (i : BitVec 4)
  /-- R301: Waits for the consumer's next slot to be full and takes it for draining. -/
  | stgw (i : BitVec 4) (d : BitVec 6)
  /-- R301: Frees the draining slot, inverts its phase and advances the consumer index. -/
  | stgf (i : BitVec 4)
  /-- R304: Arrives at the cluster barrier and waits for every live gang of the node. -/
  | cbar
  /-- R305: Appends a record to a record-driven successor's queue, waiting while it is full. -/
  | emit (s : BitVec 6) (r : BitVec 6)
  /-- R310: Reads the gang's BLAME or a field of an object's last-arriver record. -/
  | edgrd (k : BitVec 2) (d : BitVec 6) (b : BitVec 6)
  /-- R337: Raises SOFTWARE_TRAP with a number and a value. -/
  | trap (n : BitVec 6) (a : BitVec 6)
  /-- R338: Returns from the kernel handler to TRAPPC and restarts the other splits. -/
  | tret
  /-- R339: Reads a numbered special register into a scalar or vector register. -/
  | srd (n : BitVec 6) (d : BitVec 6)
  /-- R339: Writes a writable special register from a scalar register. -/
  | swr (n : BitVec 6) (a : BitVec 6)
  /-- R340: Ends the issuing workgroup and its launch with STATUS 0x30 and a detail value. -/
  | halt (a : BitVec 6)
  /-- R367: Raises BREAKPOINT for a debugger or the kernel handler. -/
  | bkpt (n : BitVec 6)
  /-- R369: Sets the gang's trace enables, masked by the permit, and returns the old value. -/
  | trcm (d : BitVec 6) (a : BitVec 6)
  /-- R370: Requests a SYNC packet or flushes the die's trace and edge output. -/
  | trcc (k : BitVec 2)
  /-- R371: Privileged read of a device-wide accounting counter of a domain. -/
  | acct (d : BitVec 6) (a : BitVec 6)
  /-- R341: Privileged invalidation of TLB entries by page, address space or all. -/
  | tlbi (k : BitVec 2) (a : BitVec 6) (b : BitVec 6)
  /-- R373: Sets or disables one of the workgroup's four watched ranges for DV packets. -/
  | watch (w : BitVec 2) (a : BitVec 6) (b : BitVec 6)
  /-- R100: Prefix that supplies bits [23:0] of an immediate to the following word. -/
  | imm (i : BitVec 24)
  /-- R100: Prefix that supplies bits [47:24] of an immediate after IMM. -/
  | imm2 (i : BitVec 24)
  /-- R101: Prefix that applies sign, scaling, rounding, clamp and saturation to the next ALU instruction. -/
  | mod (s : BitVec 1) (c : BitVec 1) (a : BitVec 1) (b : BitVec 1) (x : BitVec 1) (y : BitVec 1) (n : BitVec 1) (e : BitVec 6) (m : BitVec 2)
  /-- R102: Prefix giving the join offset required by the following BRC. -/
  | hintJoin (j : BitVec 20)
  /-- R102: Prefix that delays the split's next word by n clocks. -/
  | hintStall (n : BitVec 8)
  /-- R102: Prefix that keeps named sources in the operand cache. -/
  | hintReuse (a : BitVec 1) (b : BitVec 1)
  /-- R102: Prefix that attaches a tag to the following word's trace packets. -/
  | hintTrace (t : BitVec 16)
  /-- R102: Prefix giving the memory ordering and scope of the following atomic. -/
  | hintOrd (o : BitVec 3) (s : BitVec 3)
  /-- R312: A host write of a call record address to a mailbox doorbell, queued for the driver or ignored when unbound. -/
  | doorbell (m : BitVec 6) (addr : W64) (host : Bool)
  /-- R313: Call that places a .dvo object's code, data and default regions in the lowest free slot. -/
  | load (m : BitVec 6) (choice : Placement)
  /-- R314: Call that validates a step graph and makes its nodes ready for dispatch. -/
  | launch (m : BitVec 6)
  /-- R313: Call that releases a loaded slot and its default regions once no launch uses it. -/
  | free (m : BitVec 6)
  /-- R318: Request that extends measurement register M4 to M7 with a digest. -/
  | extend (m : BitVec 6)
  /-- R318: Request that sets an ageing time AGE[n] on every die. -/
  | setage (m : BitVec 6)
  /-- R318: Request that adds backing frames to a die's pool. -/
  | pooladd (m : BitVec 6)
  /-- R318: Request that changes a region's per-die reserve. -/
  | reserve (m : BitVec 6)
  /-- R318: Request that binds a mailbox to a tenant, address space and default domain. -/
  | bind (m : BitVec 6)
  /-- R318: Request that removes a mailbox binding. -/
  | unbind (m : BitVec 6)
  /-- R350: Request that installs, re-holds or disables a die's trace or edge buffer. -/
  | buffer (m : BitVec 6)
  /-- R318: Debugger request that holds every workgroup of a launch and sets its event ring. -/
  | attach (m : BitVec 6)
  /-- R318: Debugger request for a stop of every gang of a held launch in mode ANY or EDGE. -/
  | stop (m : BitVec 6)
  /-- R318: Debugger request that resumes every stopped gang of a launch. -/
  | resume (m : BitVec 6)
  /-- R348: Debugger request that replaces the armed region ids of a launch's workgroups. -/
  | arm (m : BitVec 6)
  /-- R318: Debugger request that ends every workgroup of a launch with STATUS 0x22. -/
  | terminate (m : BitVec 6)
  /-- R318: Debugger request that ends the hold and resumes stopped gangs. -/
  | detach (m : BitVec 6)
  /-- R135: A gang with no live lane, once its counters reach zero, releases its block and frees its quadrant slot. -/
  | gangExitComplete (core : Nat) (gang : Nat)
  /-- R328: The scheduler dispatches or restores the head of the highest ready level onto a free admitted core. -/
  | dispatch (die : Nat)
  /-- R327: A ready entry that has waited AGE[n] at level n rises one level. -/
  | ageing (entry : Nat)
  /-- R331: Once splits stand at latch-free points and running commands have finished, the context is saved and the core freed. -/
  | contextSave (core : Nat)
  /-- R325: The oldest queued record has waited longer than TIMEOUT and a record-driven workgroup launch fires. -/
  | coalesceTimeout (launch : Nat) (node : Nat)
  /-- R27: A freed extended block is granted to the head of the quadrant queue with every register INVALID. -/
  | racqGrant (core : Nat) (quad : Nat)
  /-- R29: A RACQ that has waited 2^20 clocks raises REG_STARVATION and leaves the queue. -/
  | regStarvation (core : Nat) (gang : Nat)
  /-- R141: After outstanding writes into v64–v127 finish, RREL returns the block to the queue. -/
  | blockReturn (core : Nat) (gang : Nat) (split : Nat)
  /-- R43: In the clock after both paths reach the join, the entry pops and the lanes merge. -/
  | dualPathPop (core : Nat) (gang : Nat) (slice : Nat)
  /-- R219: A load's or atomic's data returns and the scoreboard releases its destination. -/
  | loadReturn (core : Nat) (gang : Nat) (index : Nat)
  /-- R257: The matrix engine starts the command at the head of its queue. -/
  | matrixCommandStart (core : Nat)
  /-- R272: A matrix command finishes, ORs its flags into FLAGS and decrements c2. -/
  | matrixCommandRetire (core : Nat)
  /-- R269: An operand, scale or bitmap fetch faults and the panel stops at the start of its unit. -/
  | matrixFetchFault (core : Nat)
  /-- R276: A synchronous matrix instruction acts once every earlier command has retired. -/
  | synchronousReply (core : Nat) (gang : Nat)
  /-- R280: The copy engine starts the next queued copy, gather or scatter command. -/
  | copyCommandStart (core : Nat)
  /-- R281: A unit of a copy engine command lands and counts at its barrier target. -/
  | unitLand (core : Nat) (unit : Nat)
  /-- R280: A read or write of a copy engine command faults and the command stops for service. -/
  | copyFault (core : Nat) (unit : Nat)
  /-- R175: The transform pipe starts the oldest arrived command. -/
  | transformStart (core : Nat)
  /-- R175: A transform command replies and the issuing split's destinations are released. -/
  | transformReply (core : Nat)
  /-- R192: The resident driver serves a gang's TRANSLATION or PROTECTION by resuming, delivering to the handler or terminating. -/
  | faultService (core : Nat) (gang : Nat) (act : FaultAct)
  /-- R269: The driver serves a stopped engine command's faults and replays or terminates. -/
  | commandFaultService (core : Nat) (engine : Engine) (act : CmdAct)
  /-- R248: The driver handles BACKING_EXHAUSTED by adding pages, delivering to the handler or terminating. -/
  | backingService (core : Nat) (gang : Nat) (act : BackAct)
  /-- R249: The driver resolves an engine write waiting for backing by adding a page, declining or terminating. -/
  | engineBackingWait (core : Nat) (engine : Engine) (act : EngBackAct)
  /-- R216: The Puone cores receive INTEGRITY and terminate the workgroup with cause 0x15. -/
  | integrityService (core : Nat) (gang : Option Nat)
  /-- R216: A correctable soft error is corrected, written back and counted. -/
  | errorCorrection (e : SoftErr)
  /-- R307: A split blocked at BWAIT, STGA, STGW, CWAIT, CBAR or EMIT is released and its BLAME advances. -/
  | blockedWaitRelease (core : Nat) (gang : Nat) (split : Nat)
  /-- R361: When an edge buffer unit frees after drops, Umber writes pending pair and LOSS records. -/
  | edgeLossWrite (die : Nat)
  /-- R347: A requested stop reaches a gang at its stop point and is delivered as STOP_REQUEST. -/
  | stopDelivery (core : Nat) (gang : Nat)
  /-- R234: After its wait, IFENCE discards fetched words and the core refetches. -/
  | ifenceDiscard (core : Nat) (gang : Nat) (split : Nat)
  /-- R341: After its wait, TLBI removes the named translations and drains refilling walks. -/
  | tlbiRemove (core : Nat) (gang : Nat) (split : Nat)
  /-- R252: Every millisecond the backed page-seconds counters gain backed and free reserve pages. -/
  | pageSecondsTick
  /-- R356: Every 2^SMPLOG clocks a core takes an SMP sample from a gang at its next latch-free point. -/
  | traceSample (core : Nat)
  /-- R358: Ochre writes the next queued packet into the current frame when the buffer has room. -/
  | collectorWrite (die : Nat)
  /-- R385: Every millisecond FSTEP is set from the cap, modelled power and temperature. -/
  | freqUpdate (power : Nat) (allowed : Nat) (hot : Bool)
  /-- R379: Once per millisecond the device exchanges timestamps with neighbours and slews TIME. -/
  | timeSync (slew : Int)
  /-- R377: A packet arrives on a Borenmin port and is routed or performed. -/
  | fabricPacket (port : BitVec 4) (p : FabPacket)
  /-- R377: A Borenmin port fails, is reported and routed around. -/
  | portFailure (port : BitVec 4) (routes : List (Nat × Nat))
  /-- R384: A PREQ write of IDLE lets dies gate clocks while empty. -/
  | preqIdle
  /-- R384: A PREQ write of DEEP writes back L2 and puts DRAM into self-refresh. -/
  | preqDeep
  /-- R384: A PREQ write of ACTIVE leaves DEEP with on-chip state zeroed. -/
  | preqActive
  /-- R384: A PREQ write of OFF powers the module down. -/
  | preqOff
  /-- R384: A requested power state transition completes and PSTATE changes. -/
  | pstateChange
  /-- R376: A write to a register field with no behaviour of its own, such as CAPW or CAPSTEP. -/
  | registerWrite (w : W64)
  /-- R375: A host access through BAR2 to device memory by physical address. -/
  | bar2Access (b : Bar2)
  /-- R382: A device reset puts the device in LOCKED, clears measurements and starts boot. -/
  | reset (strap : Bool) (stages : List Stage)
  /-- R382: A tenant-signed token enters TENANT_DEBUG for a binding and extends M2. -/
  | tenantDebugToken (m : BitVec 6) (tenant : Nat) (nonce : Nat) (expiry : W64) (sig : Nat)
  /-- R382: A Lamud-signed token arms VENDOR_DEBUG for the next zeroing reset. -/
  | vendorDebugToken (sig : Nat)
  /-- R382: A TENANT_DEBUG token reaches its expiry TIME and the binding leaves the state. -/
  | tokenExpiry (m : BitVec 6)
  /-- R382: The tenant withdraws TENANT_DEBUG for its binding. -/
  | tokenWithdrawal (m : BitVec 6)
  /-- R381: SPDM request for the supported versions. -/
  | getVersion (t : Transport)
  /-- R381: SPDM request for the device capabilities. -/
  | getCapabilities (t : Transport)
  /-- R381: SPDM request that negotiates SLH-DSA-SHAKE-256s and SHAKE256. -/
  | negotiateAlgorithms (t : Transport)
  /-- R381: SPDM request for certificate chain digests. -/
  | getDigests (t : Transport)
  /-- R381: SPDM request for the device certificate chain. -/
  | getCertificate (t : Transport) (offset : Nat) (length : Nat)
  /-- R381: SPDM challenge signed with the device identity key. -/
  | challenge (t : Transport) (nonce : Nat)
  /-- R381: SPDM request for measurement blocks M0–M15 and the security state. -/
  | getMeasurements (t : Transport) (nonce : Nat)
  /-- R387: A management-port request returns a signed snapshot of a domain's nine counters. -/
  | accountingSnapshot (domain : BitVec 8) (nonce : W64)
  /-- R104: A split issues a word whose major opcode is unassigned, or reaches the offset equal to the plane length, and ILLEGAL_INSTRUCTION is raised precisely with no state changed. -/
  | unassignedOpcode (w : Option W32)
  /-- R378: A RoCEv2 packet arrives on one of the two 800 GbE ports, carrying NVMe over Fabrics storage or scale-out traffic. -/
  | rocev2Packet (port : BitVec 1) (r : RoceOp)
  deriving DecidableEq, Repr

end Sys2Proof
end

