-- ==== Sys2Proof/Decode.lean ====
section
/-! DEFINITION. The decoder of instruction words, total on any 32 bits and any bytes, and after it the encoder; both written from the encoding tables of 05 R84 to R104 and from the reference entries' fields. -/

namespace Sys2Proof

/-- Why a word is refused; each raises ILLEGAL_INSTRUCTION or ILLEGAL_OPERAND when a split issues it (05 R87, R104). -/
inductive Reject where
  /-- The bytes given are not one word of four bytes. -/
  | noWord
  /-- The major opcode is unassigned (05 R104). -/
  | unassignedOpcode
  /-- A reserved field is not zero, a minor value or an N bit is not assigned (05 R87, R89, 01 R38). -/
  | reservedField
  /-- A HINT of kind 5 to 15 (05 R102). -/
  | hintKind
  /-- VCMP or FCMP with an N bit of 1, which raises ILLEGAL_OPERAND (09 R160). -/
  | compareN
  deriving DecidableEq, Repr

/-- Field of `n` bits from bit `lo` of a word. -/
def fld (w : W32) (lo n : Nat) : BitVec n := BitVec.ofNat n (w.toNat / 2 ^ lo)

/-- The `n` bits from bit `lo` of a word, as a number. -/
def rsv (w : W32) (lo n : Nat) : Nat := w.toNat / 2 ^ lo % 2 ^ n

/-- The instruction of a word whose reserved fields are zero. -/
def accept (ok : Bool) (i : Instr) : Except Reject Instr := if ok then .ok i else .error .reservedField

/-- Control, planes, register blocks and regions (opcodes 0x00 to 0x17). -/
def decodeControl (op : Nat) (w : W32) : Except Reject Instr :=
  match op with
  | 0x00 => accept (rsv w 0 24 == 0) (.nop)
  | 0x01 => .ok (.bra (fld w 21 3) (fld w 20 1) (fld w 0 20))
  | 0x02 => .ok (.brc (fld w 21 3) (fld w 20 1) (fld w 0 20))
  | 0x03 => accept (rsv w 3 17 == 0) (.skip (fld w 21 3) (fld w 20 1) (fld w 0 3))
  | 0x04 => .ok (.call (fld w 21 3) (fld w 20 1) (fld w 0 20))
  | 0x05 => accept (rsv w 6 14 == 0) (.ret (fld w 21 3) (fld w 20 1) (fld w 0 6))
  | 0x06 => .ok (.jmpi (fld w 21 3) (fld w 20 1) (fld w 6 14) (fld w 0 6))
  | 0x07 => accept (rsv w 0 20 == 0) (.exit (fld w 21 3) (fld w 20 1))
  | 0x08 => accept (rsv w 0 24 == 0) (.yield)
  | 0x09 => accept (rsv w 8 16 == 0) (.regang (fld w 0 8))
  | 0x0A => .ok (.loop (fld w 21 3) (fld w 20 1) (fld w 14 6) (fld w 0 14))
  | 0x10 => accept (rsv w 0 8 == 0 && rsv w 19 5 == 0) (.plsw (fld w 16 3) (fld w 8 8))
  | 0x11 => accept (rsv w 0 8 == 0 && rsv w 16 8 == 0) (.plset (fld w 8 8))
  | 0x12 => accept (rsv w 0 8 == 0 && rsv w 19 5 == 0) (.plmsk (fld w 16 3) (fld w 8 8))
  | 0x13 => accept (rsv w 0 16 == 0 && rsv w 22 2 == 0) (.plocc (fld w 16 6))
  | 0x14 => accept (rsv w 0 24 == 0) (.racq)
  | 0x15 => accept (rsv w 0 24 == 0) (.rrel)
  | 0x16 => accept (rsv w 16 8 == 0) (.rent (fld w 0 16))
  | 0x17 => accept (rsv w 16 8 == 0) (.rlev (fld w 0 16))
  | _ => .error .unassignedOpcode

/-- Predicates and scalars (0x18 to 0x35). -/
def decodePredScalar (op : Nat) (w : W32) : Except Reject Instr :=
  match op with
  | 0x18 => accept (rsv w 23 1 == 0) (.pand (fld w 16 7) (fld w 8 8) (fld w 0 8))
  | 0x19 => accept (rsv w 23 1 == 0) (.por (fld w 16 7) (fld w 8 8) (fld w 0 8))
  | 0x1A => accept (rsv w 23 1 == 0) (.pxor (fld w 16 7) (fld w 8 8) (fld w 0 8))
  | 0x1B => accept (rsv w 0 8 == 0 && rsv w 23 1 == 0) (.pnot (fld w 16 7) (fld w 8 8))
  | 0x1C => accept (rsv w 0 8 == 0 && rsv w 23 1 == 0) (.ptos (fld w 16 7) (fld w 8 8))
  | 0x1D => accept (rsv w 8 8 == 0 && rsv w 23 1 == 0) (.pset (fld w 16 7) (fld w 0 8))
  | 0x1E => accept (rsv w 0 8 == 0 && rsv w 23 1 == 0) (.pany (fld w 16 7) (fld w 8 8))
  | 0x1F => accept (rsv w 0 8 == 0 && rsv w 23 1 == 0) (.pall (fld w 16 7) (fld w 8 8))
  | 0x20 => accept (rsv w 22 2 == 0) (.sadd (fld w 16 6) (fld w 8 8) (fld w 0 8))
  | 0x21 => accept (rsv w 22 2 == 0) (.ssub (fld w 16 6) (fld w 8 8) (fld w 0 8))
  | 0x22 => accept (rsv w 22 2 == 0) (.smul (fld w 16 6) (fld w 8 8) (fld w 0 8))
  | 0x23 => accept (rsv w 23 1 == 0) (.smulh (fld w 22 1) (fld w 16 6) (fld w 8 8) (fld w 0 8))
  | 0x24 => accept (rsv w 23 1 == 0) (.sdiv (fld w 22 1) (fld w 16 6) (fld w 8 8) (fld w 0 8))
  | 0x25 => accept (rsv w 23 1 == 0) (.srem (fld w 22 1) (fld w 16 6) (fld w 8 8) (fld w 0 8))
  | 0x26 => accept (rsv w 22 2 == 0) (.sand (fld w 16 6) (fld w 8 8) (fld w 0 8))
  | 0x27 => accept (rsv w 22 2 == 0) (.sor (fld w 16 6) (fld w 8 8) (fld w 0 8))
  | 0x28 => accept (rsv w 22 2 == 0) (.sxor (fld w 16 6) (fld w 8 8) (fld w 0 8))
  | 0x29 => accept (rsv w 22 2 == 0) (.sshl (fld w 16 6) (fld w 8 8) (fld w 0 8))
  | 0x2A => accept (rsv w 22 2 == 0) (.sshr (fld w 16 6) (fld w 8 8) (fld w 0 8))
  | 0x2B => accept (rsv w 22 2 == 0) (.ssra (fld w 16 6) (fld w 8 8) (fld w 0 8))
  | 0x2C => accept (rsv w 23 1 == 0) (.smin (fld w 22 1) (fld w 16 6) (fld w 8 8) (fld w 0 8))
  | 0x2D => accept (rsv w 23 1 == 0) (.smax (fld w 22 1) (fld w 16 6) (fld w 8 8) (fld w 0 8))
  | 0x2E => accept (rsv w 23 1 == 0) (.scmp (fld w 22 1) (fld w 16 6) (fld w 8 8) (fld w 0 8))
  | 0x2F => accept (rsv w 22 2 == 0) (.ssel (fld w 16 6) (fld w 8 8) (fld w 0 8))
  | 0x30 => accept (rsv w 8 8 == 0 && rsv w 22 2 == 0) (.smov (fld w 16 6) (fld w 0 8))
  | 0x31 => .ok (.smovi (fld w 18 6) (fld w 16 2) (fld w 0 16))
  | 0x32 => .ok (.slea (fld w 22 2) (fld w 16 6) (fld w 8 8) (fld w 0 8))
  | 0x33 => accept (rsv w 0 8 == 0 && rsv w 22 2 == 0) (.sclz (fld w 16 6) (fld w 8 8))
  | 0x34 => accept (rsv w 0 8 == 0 && rsv w 22 2 == 0) (.spop (fld w 16 6) (fld w 8 8))
  | 0x35 => accept (rsv w 23 1 == 0) (.sbfe (fld w 22 1) (fld w 16 6) (fld w 8 8) (fld w 0 8))
  | _ => .error .unassignedOpcode

/-- Vector integers (0x40 to 0x54). -/
def decodeVecInt (op : Nat) (w : W32) : Except Reject Instr :=
  match op with
  | 0x40 => .ok (.vadd (fld w 23 1) (fld w 16 7) (fld w 8 8) (fld w 0 8))
  | 0x41 => .ok (.vsub (fld w 23 1) (fld w 16 7) (fld w 8 8) (fld w 0 8))
  | 0x42 => .ok (.vmul (fld w 23 1) (fld w 16 7) (fld w 8 8) (fld w 0 8))
  | 0x43 => .ok (.vmulh (fld w 23 1) (fld w 16 7) (fld w 8 8) (fld w 0 8))
  | 0x44 => .ok (.vmad (fld w 23 1) (fld w 16 7) (fld w 8 8) (fld w 0 8))
  | 0x45 => .ok (.vand (fld w 23 1) (fld w 16 7) (fld w 8 8) (fld w 0 8))
  | 0x46 => .ok (.vor (fld w 23 1) (fld w 16 7) (fld w 8 8) (fld w 0 8))
  | 0x47 => .ok (.vxor (fld w 23 1) (fld w 16 7) (fld w 8 8) (fld w 0 8))
  | 0x48 => .ok (.vshl (fld w 23 1) (fld w 16 7) (fld w 8 8) (fld w 0 8))
  | 0x49 => .ok (.vshr (fld w 23 1) (fld w 16 7) (fld w 8 8) (fld w 0 8))
  | 0x4A => .ok (.vsra (fld w 23 1) (fld w 16 7) (fld w 8 8) (fld w 0 8))
  | 0x4B => .ok (.vmin (fld w 23 1) (fld w 16 7) (fld w 8 8) (fld w 0 8))
  | 0x4C => .ok (.vmax (fld w 23 1) (fld w 16 7) (fld w 8 8) (fld w 0 8))
  | 0x4D => .ok (.vabsd (fld w 23 1) (fld w 16 7) (fld w 8 8) (fld w 0 8))
  | 0x4E => accept (rsv w 0 8 == 0) (.vclz (fld w 23 1) (fld w 16 7) (fld w 8 8))
  | 0x4F => accept (rsv w 0 8 == 0) (.vpop (fld w 23 1) (fld w 16 7) (fld w 8 8))
  | 0x50 => .ok (.vbfe (fld w 23 1) (fld w 16 7) (fld w 8 8) (fld w 0 8))
  | 0x51 => .ok (.vbfi (fld w 23 1) (fld w 16 7) (fld w 8 8) (fld w 0 8))
  | 0x52 => .ok (.vsel (fld w 23 1) (fld w 16 7) (fld w 8 8) (fld w 0 8))
  | 0x53 => accept (rsv w 0 8 == 0) (.vmov (fld w 23 1) (fld w 16 7) (fld w 8 8))
  | 0x54 => if rsv w 23 1 == 0 then .ok (.vcmp (fld w 22 1) (fld w 19 3) (fld w 16 3) (fld w 8 8) (fld w 0 8)) else .error .compareN
  | _ => .error .unassignedOpcode

/-- Vector floats and conversions (0x60 to 0x76). -/
def decodeVecFloat (op : Nat) (w : W32) : Except Reject Instr :=
  match op with
  | 0x60 => .ok (.fadd (fld w 23 1) (fld w 16 7) (fld w 8 8) (fld w 0 8))
  | 0x61 => .ok (.fsub (fld w 23 1) (fld w 16 7) (fld w 8 8) (fld w 0 8))
  | 0x62 => .ok (.fmul (fld w 23 1) (fld w 16 7) (fld w 8 8) (fld w 0 8))
  | 0x63 => .ok (.ffma (fld w 23 1) (fld w 16 7) (fld w 8 8) (fld w 0 8))
  | 0x64 => .ok (.fmin (fld w 23 1) (fld w 16 7) (fld w 8 8) (fld w 0 8))
  | 0x65 => .ok (.fmax (fld w 23 1) (fld w 16 7) (fld w 8 8) (fld w 0 8))
  | 0x66 => if rsv w 23 1 == 0 then .ok (.fcmp (fld w 22 1) (fld w 19 3) (fld w 16 3) (fld w 8 8) (fld w 0 8)) else .error .compareN
  | 0x67 => accept (rsv w 0 8 == 0) (.frcp (fld w 23 1) (fld w 16 7) (fld w 8 8))
  | 0x68 => accept (rsv w 0 8 == 0) (.frsq (fld w 23 1) (fld w 16 7) (fld w 8 8))
  | 0x69 => accept (rsv w 0 8 == 0) (.fexp2 (fld w 23 1) (fld w 16 7) (fld w 8 8))
  | 0x6A => accept (rsv w 0 8 == 0) (.flog2 (fld w 23 1) (fld w 16 7) (fld w 8 8))
  | 0x6B => accept (rsv w 0 8 == 0) (.fclass (fld w 23 1) (fld w 16 7) (fld w 8 8))
  | 0x6C => .ok (.fdot2 (fld w 23 1) (fld w 16 7) (fld w 8 8) (fld w 0 8))
  | 0x70 => .ok (.cvt (fld w 23 1) (fld w 16 7) (fld w 8 8) (fld w 0 8))
  | 0x71 => .ok (.cvtl6 (fld w 23 1) (fld w 16 7) (fld w 8 8) (fld w 0 8))
  | 0x72 => accept (rsv w 0 8 == 0) (.l6scl (fld w 23 1) (fld w 16 7) (fld w 8 8))
  | 0x73 => .ok (.tagset (fld w 23 1) (fld w 16 7) (fld w 8 8) (fld w 0 8))
  | 0x74 => accept (rsv w 0 8 == 0) (.tagget (fld w 23 1) (fld w 16 7) (fld w 8 8))
  | 0x75 => .ok (.pack (fld w 23 1) (fld w 16 7) (fld w 8 8) (fld w 0 8))
  | 0x76 => .ok (.unpk (fld w 23 1) (fld w 16 7) (fld w 8 8) (fld w 0 8))
  | _ => .error .unassignedOpcode

/-- Lane operations and the transform pipe (0x78 to 0x83). -/
def decodeLane (op : Nat) (w : W32) : Except Reject Instr :=
  match op with
  | 0x78 => accept (rsv w 23 1 == 0) (.vshfl (fld w 16 7) (fld w 8 8) (fld w 0 8))
  | 0x79 => accept (rsv w 23 1 == 0) (.vrot (fld w 16 7) (fld w 8 8) (fld w 0 8))
  | 0x7A => accept (rsv w 23 1 == 0) (.vbcst (fld w 16 7) (fld w 8 8) (fld w 0 8))
  | 0x7B => accept (rsv w 4 4 == 0 && rsv w 23 1 == 0) (.vred (fld w 16 7) (fld w 8 8) (fld w 0 4))
  | 0x7C => accept (rsv w 5 3 == 0 && rsv w 23 1 == 0) (.vscan (fld w 16 7) (fld w 8 8) (fld w 4 1) (fld w 0 4))
  | 0x7D => accept (rsv w 3 5 == 0 && rsv w 23 1 == 0) (.vcmpt (fld w 16 7) (fld w 8 8) (fld w 0 3))
  | 0x7E => accept (rsv w 1 7 == 0 && rsv w 11 5 == 0 && rsv w 23 1 == 0) (.vbal (fld w 16 7) (fld w 8 3) (fld w 0 1))
  | 0x80 => accept (rsv w 0 12 == 0 && rsv w 18 3 == 0) (.xtab (fld w 22 2) (fld w 21 1) (fld w 12 6))
  | 0x81 => .ok (.xdec (fld w 18 6) (fld w 12 6) (fld w 6 6) (fld w 0 6))
  | 0x82 => accept (rsv w 18 6 == 0) (.xcrc (fld w 12 6) (fld w 6 6) (fld w 0 6))
  | 0x83 => accept (rsv w 0 12 == 0) (.xsrt (fld w 18 6) (fld w 12 6))
  | _ => .error .unassignedOpcode

/-- Memory and default regions (0xA0 to 0xB4). -/
def decodeMem (op : Nat) (w : W32) : Except Reject Instr :=
  match op with
  | 0xA0 => .ok (.ldb (fld w 17 7) (fld w 11 6) (fld w 4 7) (fld w 0 4))
  | 0xA1 => .ok (.ldh (fld w 17 7) (fld w 11 6) (fld w 4 7) (fld w 0 4))
  | 0xA2 => .ok (.ldw (fld w 17 7) (fld w 11 6) (fld w 4 7) (fld w 0 4))
  | 0xA3 => .ok (.ldd (fld w 17 7) (fld w 11 6) (fld w 4 7) (fld w 0 4))
  | 0xA4 => .ok (.ldq (fld w 17 7) (fld w 11 6) (fld w 4 7) (fld w 0 4))
  | 0xA5 => .ok (.stb (fld w 17 7) (fld w 11 6) (fld w 4 7) (fld w 0 4))
  | 0xA6 => .ok (.sth (fld w 17 7) (fld w 11 6) (fld w 4 7) (fld w 0 4))
  | 0xA7 => .ok (.stw (fld w 17 7) (fld w 11 6) (fld w 4 7) (fld w 0 4))
  | 0xA8 => .ok (.std (fld w 17 7) (fld w 11 6) (fld w 4 7) (fld w 0 4))
  | 0xA9 => .ok (.stq (fld w 17 7) (fld w 11 6) (fld w 4 7) (fld w 0 4))
  | 0xAA => accept (rsv w 4 7 == 0 && rsv w 23 1 == 0) (.sld (fld w 17 6) (fld w 11 6) (fld w 0 4))
  | 0xAB => accept (rsv w 4 7 == 0 && rsv w 23 1 == 0) (.sst (fld w 17 6) (fld w 11 6) (fld w 0 4))
  | 0xAC => .ok (.atom (fld w 17 7) (fld w 11 6) (fld w 4 7) (fld w 0 4))
  | 0xAD => accept (rsv w 0 4 == 0) (.abnd (fld w 17 7) (fld w 11 6) (fld w 4 7))
  | 0xAE => accept (rsv w 0 4 == 0) (.acas (fld w 17 7) (fld w 11 6) (fld w 4 7))
  | 0xAF => accept (rsv w 0 19 == 0) (.fence (fld w 21 3) (fld w 19 2))
  | 0xB0 => accept (rsv w 0 24 == 0) (.ifence)
  | 0xB1 => accept (rsv w 17 7 == 0) (.prf (fld w 11 6) (fld w 4 7) (fld w 0 4))
  | 0xB2 => accept (rsv w 0 6 == 0 && rsv w 18 6 == 0) (.pgenum (fld w 12 6) (fld w 6 6))
  | 0xB3 => accept (rsv w 0 6 == 0 && rsv w 18 6 == 0) (.pgstat (fld w 12 6) (fld w 6 6))
  | 0xB4 => accept (rsv w 0 6 == 0) (.rginfo (fld w 18 6) (fld w 12 6) (fld w 6 6))
  | _ => .error .unassignedOpcode

/-- The matrix engine (0xC0 to 0xC9). -/
def decodeMatrix (op : Nat) (w : W32) : Except Reject Instr :=
  match op with
  | 0xC0 => accept (rsv w 0 12 == 0 && rsv w 18 3 == 0) (.opmap (fld w 21 3) (fld w 12 6))
  | 0xC1 => accept (rsv w 6 6 == 0) (.mma (fld w 23 1) (fld w 21 2) (fld w 19 2) (fld w 18 1) (fld w 12 6) (fld w 0 6))
  | 0xC2 => accept (rsv w 6 6 == 0) (.mmas (fld w 23 1) (fld w 21 2) (fld w 19 2) (fld w 18 1) (fld w 12 6) (fld w 0 6))
  | 0xC3 => accept (rsv w 6 6 == 0) (.mmac (fld w 23 1) (fld w 21 2) (fld w 19 2) (fld w 18 1) (fld w 12 6) (fld w 0 6))
  | 0xC4 => accept (rsv w 0 22 == 0) (.accz (fld w 23 1) (fld w 22 1))
  | 0xC5 => accept (rsv w 0 20 == 0) (.accld (fld w 23 1) (fld w 20 3))
  | 0xC6 => accept (rsv w 0 20 == 0) (.accst (fld w 23 1) (fld w 20 3))
  | 0xC7 => accept (rsv w 0 12 == 0) (.accrd (fld w 18 6) (fld w 12 6))
  | 0xC8 => accept (rsv w 0 12 == 0) (.accwr (fld w 18 6) (fld w 12 6))
  | 0xC9 => accept (rsv w 0 12 == 0) (.mstep (fld w 18 6) (fld w 12 6))
  | _ => .error .unassignedOpcode

/-- Copies, barriers, rings, waits and blame (0xD0 to 0xDF). -/
def decodeEngine (op : Nat) (w : W32) : Except Reject Instr :=
  match op with
  | 0xD0 => .ok (.cpy (fld w 22 2) (fld w 18 4) (fld w 12 6) (fld w 6 6) (fld w 0 6))
  | 0xD1 => accept (rsv w 0 6 == 0) (.gath (fld w 22 2) (fld w 18 4) (fld w 12 6) (fld w 6 6))
  | 0xD2 => accept (rsv w 0 6 == 0) (.scat (fld w 22 2) (fld w 18 4) (fld w 12 6) (fld w 6 6))
  | 0xD3 => accept (rsv w 0 6 == 0) (.binit (fld w 22 2) (fld w 18 4) (fld w 12 6) (fld w 6 6))
  | 0xD4 => accept (rsv w 0 12 == 0 && rsv w 22 2 == 0) (.barv (fld w 18 4) (fld w 12 6))
  | 0xD5 => accept (rsv w 0 12 == 0 && rsv w 22 2 == 0) (.bexp (fld w 18 4) (fld w 12 6))
  | 0xD6 => accept (rsv w 0 12 == 0 && rsv w 22 2 == 0) (.bwait (fld w 18 4) (fld w 12 6))
  | 0xD7 => accept (rsv w 0 12 == 0) (.btest (fld w 22 2) (fld w 18 4) (fld w 12 6))
  | 0xD8 => accept (rsv w 0 12 == 0 && rsv w 18 4 == 0) (.cwait (fld w 22 2) (fld w 12 6))
  | 0xD9 => accept (rsv w 0 12 == 0 && rsv w 22 2 == 0) (.stga (fld w 18 4) (fld w 12 6))
  | 0xDA => accept (rsv w 0 18 == 0 && rsv w 22 2 == 0) (.stgc (fld w 18 4))
  | 0xDB => accept (rsv w 0 12 == 0 && rsv w 22 2 == 0) (.stgw (fld w 18 4) (fld w 12 6))
  | 0xDC => accept (rsv w 0 18 == 0 && rsv w 22 2 == 0) (.stgf (fld w 18 4))
  | 0xDD => accept (rsv w 0 24 == 0) (.cbar)
  | 0xDE => accept (rsv w 0 6 == 0 && rsv w 18 6 == 0) (.emit (fld w 12 6) (fld w 6 6))
  | 0xDF => accept (rsv w 0 6 == 0 && rsv w 18 4 == 0) (.edgrd (fld w 22 2) (fld w 12 6) (fld w 6 6))
  | _ => .error .unassignedOpcode

/-- System and observation (0xE0 to 0xEA). -/
def decodeSystem (op : Nat) (w : W32) : Except Reject Instr :=
  match op with
  | 0xE0 => accept (rsv w 0 12 == 0) (.trap (fld w 18 6) (fld w 12 6))
  | 0xE1 => accept (rsv w 0 24 == 0) (.tret)
  | 0xE2 => accept (rsv w 0 12 == 0) (.srd (fld w 18 6) (fld w 12 6))
  | 0xE3 => accept (rsv w 0 12 == 0) (.swr (fld w 18 6) (fld w 12 6))
  | 0xE4 => accept (rsv w 0 12 == 0 && rsv w 18 6 == 0) (.halt (fld w 12 6))
  | 0xE5 => accept (rsv w 0 18 == 0) (.bkpt (fld w 18 6))
  | 0xE6 => accept (rsv w 0 6 == 0 && rsv w 18 6 == 0) (.trcm (fld w 12 6) (fld w 6 6))
  | 0xE7 => accept (rsv w 0 22 == 0) (.trcc (fld w 22 2))
  | 0xE8 => accept (rsv w 0 6 == 0 && rsv w 18 6 == 0) (.acct (fld w 12 6) (fld w 6 6))
  | 0xE9 => accept (rsv w 0 6 == 0 && rsv w 18 4 == 0) (.tlbi (fld w 22 2) (fld w 12 6) (fld w 6 6))
  | 0xEA => accept (rsv w 0 6 == 0 && rsv w 20 4 == 0) (.watch (fld w 18 2) (fld w 12 6) (fld w 6 6))
  | _ => .error .unassignedOpcode

/-- Prefixes (0xF0 to 0xF3). -/
def decodePrefix (op : Nat) (w : W32) : Except Reject Instr :=
  match op with
  | 0xF0 => .ok (.imm (fld w 0 24))
  | 0xF1 => .ok (.imm2 (fld w 0 24))
  | 0xF2 => accept (rsv w 0 9 == 0) (.mod (fld w 23 1) (fld w 22 1) (fld w 21 1) (fld w 20 1) (fld w 19 1) (fld w 18 1) (fld w 17 1) (fld w 11 6) (fld w 9 2))
  | 0xF3 =>
    match rsv w 20 4 with
    | 0 => .ok (.hintJoin (fld w 0 20))
    | 1 => accept (rsv w 0 12 == 0) (.hintStall (fld w 12 8))
    | 2 => accept (rsv w 0 18 == 0) (.hintReuse (fld w 19 1) (fld w 18 1))
    | 3 => accept (rsv w 16 4 == 0) (.hintTrace (fld w 0 16))
    | 4 => accept (rsv w 0 14 == 0) (.hintOrd (fld w 17 3) (fld w 14 3))
    | _ => .error .hintKind
  | _ => .error .unassignedOpcode

/-- The major opcode of a word (05 R84). -/
def opcodeOf (w : W32) : Nat := w.toNat / 2 ^ 24

/-- The instruction of a word, or why it has none (05 R84 to R104). -/
def decode (w : W32) : Except Reject Instr :=
  let op := opcodeOf w
  if op ≤ 0x17 then decodeControl op w else
  if op ≤ 0x35 then decodePredScalar op w else
  if op ≤ 0x54 then decodeVecInt op w else
  if op ≤ 0x76 then decodeVecFloat op w else
  if op ≤ 0x83 then decodeLane op w else
  if op ≤ 0xB4 then decodeMem op w else
  if op ≤ 0xC9 then decodeMatrix op w else
  if op ≤ 0xDF then decodeEngine op w else
  if op ≤ 0xEA then decodeSystem op w else
  decodePrefix op w

/-- The word of four bytes, lowest address first (00 R3). -/
def wordOfBytes (b0 b1 b2 b3 : Byte) : W32 :=
  BitVec.ofNat 32 (b0.toNat + b1.toNat * 2 ^ 8 + b2.toNat * 2 ^ 16 + b3.toNat * 2 ^ 24)

/-- The bytes of a word, lowest address first (00 R3). -/
def bytesOfWord (w : W32) : List Byte :=
  [BitVec.ofNat 8 w.toNat, BitVec.ofNat 8 (w.toNat / 2 ^ 8), BitVec.ofNat 8 (w.toNat / 2 ^ 16), BitVec.ofNat 8 (w.toNat / 2 ^ 24)]

/-- Decode the instruction at the head of a list of bytes; answers it with the bytes that follow it. -/
def decodeBytes : List Byte → Except Reject (Instr × List Byte)
  | b0 :: b1 :: b2 :: b3 :: r => (decode (wordOfBytes b0 b1 b2 b3)).map (fun i => (i, r))
  | _ => .error .noWord

/-- The instruction the decoder reads from the bits `w`, numbered as the opcode table numbers them; every instruction is one word of 32 bits. -/
def decodeTableWord (nbits w : Nat) : Option Instr :=
  if nbits = 32 then
    match decodeBytes (bytesOfWord (BitVec.ofNat 32 w)) with
    | .ok (i, _) => some i
    | .error _ => none
  else none

/-- A word: the fixed bits with each field at its place. -/
def wordOf (fixed : Nat) (fields : List (Nat × Nat)) : W32 :=
  BitVec.ofNat 32 (fields.foldl (fun a f => a + f.1 * 2 ^ f.2) fixed)

/-- The word of an instruction (05 R84 to R102); the rows without a word have none. -/
def encode (i : Instr) : Option W32 :=
  match i with
  | .nop => some (wordOf 0x00000000 [])
  | .bra p q f => some (wordOf 0x01000000 [(p.toNat, 21), (q.toNat, 20), (f.toNat, 0)])
  | .brc p q f => some (wordOf 0x02000000 [(p.toNat, 21), (q.toNat, 20), (f.toNat, 0)])
  | .skip p q n => some (wordOf 0x03000000 [(p.toNat, 21), (q.toNat, 20), (n.toNat, 0)])
  | .call p q f => some (wordOf 0x04000000 [(p.toNat, 21), (q.toNat, 20), (f.toNat, 0)])
  | .ret p q l => some (wordOf 0x05000000 [(p.toNat, 21), (q.toNat, 20), (l.toNat, 0)])
  | .jmpi p q b n => some (wordOf 0x06000000 [(p.toNat, 21), (q.toNat, 20), (b.toNat, 6), (n.toNat, 0)])
  | .exit p q => some (wordOf 0x07000000 [(p.toNat, 21), (q.toNat, 20)])
  | .yield => some (wordOf 0x08000000 [])
  | .regang m => some (wordOf 0x09000000 [(m.toNat, 0)])
  | .loop p q c f => some (wordOf 0x0A000000 [(p.toNat, 21), (q.toNat, 20), (c.toNat, 14), (f.toNat, 0)])
  | .plsw p a => some (wordOf 0x10000000 [(p.toNat, 16), (a.toNat, 8)])
  | .plset a => some (wordOf 0x11000000 [(a.toNat, 8)])
  | .plmsk d a => some (wordOf 0x12000000 [(d.toNat, 16), (a.toNat, 8)])
  | .plocc d => some (wordOf 0x13000000 [(d.toNat, 16)])
  | .racq => some (wordOf 0x14000000 [])
  | .rrel => some (wordOf 0x15000000 [])
  | .rent i => some (wordOf 0x16000000 [(i.toNat, 0)])
  | .rlev i => some (wordOf 0x17000000 [(i.toNat, 0)])
  | .pand d a b => some (wordOf 0x18000000 [(d.toNat, 16), (a.toNat, 8), (b.toNat, 0)])
  | .por d a b => some (wordOf 0x19000000 [(d.toNat, 16), (a.toNat, 8), (b.toNat, 0)])
  | .pxor d a b => some (wordOf 0x1A000000 [(d.toNat, 16), (a.toNat, 8), (b.toNat, 0)])
  | .pnot d a => some (wordOf 0x1B000000 [(d.toNat, 16), (a.toNat, 8)])
  | .ptos d a => some (wordOf 0x1C000000 [(d.toNat, 16), (a.toNat, 8)])
  | .pset d b => some (wordOf 0x1D000000 [(d.toNat, 16), (b.toNat, 0)])
  | .pany d a => some (wordOf 0x1E000000 [(d.toNat, 16), (a.toNat, 8)])
  | .pall d a => some (wordOf 0x1F000000 [(d.toNat, 16), (a.toNat, 8)])
  | .sadd d a b => some (wordOf 0x20000000 [(d.toNat, 16), (a.toNat, 8), (b.toNat, 0)])
  | .ssub d a b => some (wordOf 0x21000000 [(d.toNat, 16), (a.toNat, 8), (b.toNat, 0)])
  | .smul d a b => some (wordOf 0x22000000 [(d.toNat, 16), (a.toNat, 8), (b.toNat, 0)])
  | .smulh m d a b => some (wordOf 0x23000000 [(m.toNat, 22), (d.toNat, 16), (a.toNat, 8), (b.toNat, 0)])
  | .sdiv m d a b => some (wordOf 0x24000000 [(m.toNat, 22), (d.toNat, 16), (a.toNat, 8), (b.toNat, 0)])
  | .srem m d a b => some (wordOf 0x25000000 [(m.toNat, 22), (d.toNat, 16), (a.toNat, 8), (b.toNat, 0)])
  | .sand d a b => some (wordOf 0x26000000 [(d.toNat, 16), (a.toNat, 8), (b.toNat, 0)])
  | .sor d a b => some (wordOf 0x27000000 [(d.toNat, 16), (a.toNat, 8), (b.toNat, 0)])
  | .sxor d a b => some (wordOf 0x28000000 [(d.toNat, 16), (a.toNat, 8), (b.toNat, 0)])
  | .sshl d a b => some (wordOf 0x29000000 [(d.toNat, 16), (a.toNat, 8), (b.toNat, 0)])
  | .sshr d a b => some (wordOf 0x2A000000 [(d.toNat, 16), (a.toNat, 8), (b.toNat, 0)])
  | .ssra d a b => some (wordOf 0x2B000000 [(d.toNat, 16), (a.toNat, 8), (b.toNat, 0)])
  | .smin m d a b => some (wordOf 0x2C000000 [(m.toNat, 22), (d.toNat, 16), (a.toNat, 8), (b.toNat, 0)])
  | .smax m d a b => some (wordOf 0x2D000000 [(m.toNat, 22), (d.toNat, 16), (a.toNat, 8), (b.toNat, 0)])
  | .scmp m d a b => some (wordOf 0x2E000000 [(m.toNat, 22), (d.toNat, 16), (a.toNat, 8), (b.toNat, 0)])
  | .ssel d a b => some (wordOf 0x2F000000 [(d.toNat, 16), (a.toNat, 8), (b.toNat, 0)])
  | .smov d b => some (wordOf 0x30000000 [(d.toNat, 16), (b.toNat, 0)])
  | .smovi d h i => some (wordOf 0x31000000 [(d.toNat, 18), (h.toNat, 16), (i.toNat, 0)])
  | .slea m d a b => some (wordOf 0x32000000 [(m.toNat, 22), (d.toNat, 16), (a.toNat, 8), (b.toNat, 0)])
  | .sclz d a => some (wordOf 0x33000000 [(d.toNat, 16), (a.toNat, 8)])
  | .spop d a => some (wordOf 0x34000000 [(d.toNat, 16), (a.toNat, 8)])
  | .sbfe m d a b => some (wordOf 0x35000000 [(m.toNat, 22), (d.toNat, 16), (a.toNat, 8), (b.toNat, 0)])
  | .vadd n d a b => some (wordOf 0x40000000 [(n.toNat, 23), (d.toNat, 16), (a.toNat, 8), (b.toNat, 0)])
  | .vsub n d a b => some (wordOf 0x41000000 [(n.toNat, 23), (d.toNat, 16), (a.toNat, 8), (b.toNat, 0)])
  | .vmul n d a b => some (wordOf 0x42000000 [(n.toNat, 23), (d.toNat, 16), (a.toNat, 8), (b.toNat, 0)])
  | .vmulh n d a b => some (wordOf 0x43000000 [(n.toNat, 23), (d.toNat, 16), (a.toNat, 8), (b.toNat, 0)])
  | .vmad n d a b => some (wordOf 0x44000000 [(n.toNat, 23), (d.toNat, 16), (a.toNat, 8), (b.toNat, 0)])
  | .vand n d a b => some (wordOf 0x45000000 [(n.toNat, 23), (d.toNat, 16), (a.toNat, 8), (b.toNat, 0)])
  | .vor n d a b => some (wordOf 0x46000000 [(n.toNat, 23), (d.toNat, 16), (a.toNat, 8), (b.toNat, 0)])
  | .vxor n d a b => some (wordOf 0x47000000 [(n.toNat, 23), (d.toNat, 16), (a.toNat, 8), (b.toNat, 0)])
  | .vshl n d a b => some (wordOf 0x48000000 [(n.toNat, 23), (d.toNat, 16), (a.toNat, 8), (b.toNat, 0)])
  | .vshr n d a b => some (wordOf 0x49000000 [(n.toNat, 23), (d.toNat, 16), (a.toNat, 8), (b.toNat, 0)])
  | .vsra n d a b => some (wordOf 0x4A000000 [(n.toNat, 23), (d.toNat, 16), (a.toNat, 8), (b.toNat, 0)])
  | .vmin n d a b => some (wordOf 0x4B000000 [(n.toNat, 23), (d.toNat, 16), (a.toNat, 8), (b.toNat, 0)])
  | .vmax n d a b => some (wordOf 0x4C000000 [(n.toNat, 23), (d.toNat, 16), (a.toNat, 8), (b.toNat, 0)])
  | .vabsd n d a b => some (wordOf 0x4D000000 [(n.toNat, 23), (d.toNat, 16), (a.toNat, 8), (b.toNat, 0)])
  | .vclz n d a => some (wordOf 0x4E000000 [(n.toNat, 23), (d.toNat, 16), (a.toNat, 8)])
  | .vpop n d a => some (wordOf 0x4F000000 [(n.toNat, 23), (d.toNat, 16), (a.toNat, 8)])
  | .vbfe n d a b => some (wordOf 0x50000000 [(n.toNat, 23), (d.toNat, 16), (a.toNat, 8), (b.toNat, 0)])
  | .vbfi n d a b => some (wordOf 0x51000000 [(n.toNat, 23), (d.toNat, 16), (a.toNat, 8), (b.toNat, 0)])
  | .vsel n d a b => some (wordOf 0x52000000 [(n.toNat, 23), (d.toNat, 16), (a.toNat, 8), (b.toNat, 0)])
  | .vmov n d a => some (wordOf 0x53000000 [(n.toNat, 23), (d.toNat, 16), (a.toNat, 8)])
  | .vcmp y r p a b => some (wordOf 0x54000000 [(y.toNat, 22), (r.toNat, 19), (p.toNat, 16), (a.toNat, 8), (b.toNat, 0)])
  | .fadd n d a b => some (wordOf 0x60000000 [(n.toNat, 23), (d.toNat, 16), (a.toNat, 8), (b.toNat, 0)])
  | .fsub n d a b => some (wordOf 0x61000000 [(n.toNat, 23), (d.toNat, 16), (a.toNat, 8), (b.toNat, 0)])
  | .fmul n d a b => some (wordOf 0x62000000 [(n.toNat, 23), (d.toNat, 16), (a.toNat, 8), (b.toNat, 0)])
  | .ffma n d a b => some (wordOf 0x63000000 [(n.toNat, 23), (d.toNat, 16), (a.toNat, 8), (b.toNat, 0)])
  | .fmin n d a b => some (wordOf 0x64000000 [(n.toNat, 23), (d.toNat, 16), (a.toNat, 8), (b.toNat, 0)])
  | .fmax n d a b => some (wordOf 0x65000000 [(n.toNat, 23), (d.toNat, 16), (a.toNat, 8), (b.toNat, 0)])
  | .fcmp y r p a b => some (wordOf 0x66000000 [(y.toNat, 22), (r.toNat, 19), (p.toNat, 16), (a.toNat, 8), (b.toNat, 0)])
  | .frcp n d a => some (wordOf 0x67000000 [(n.toNat, 23), (d.toNat, 16), (a.toNat, 8)])
  | .frsq n d a => some (wordOf 0x68000000 [(n.toNat, 23), (d.toNat, 16), (a.toNat, 8)])
  | .fexp2 n d a => some (wordOf 0x69000000 [(n.toNat, 23), (d.toNat, 16), (a.toNat, 8)])
  | .flog2 n d a => some (wordOf 0x6A000000 [(n.toNat, 23), (d.toNat, 16), (a.toNat, 8)])
  | .fclass n d a => some (wordOf 0x6B000000 [(n.toNat, 23), (d.toNat, 16), (a.toNat, 8)])
  | .fdot2 n d a b => some (wordOf 0x6C000000 [(n.toNat, 23), (d.toNat, 16), (a.toNat, 8), (b.toNat, 0)])
  | .cvt n d a b => some (wordOf 0x70000000 [(n.toNat, 23), (d.toNat, 16), (a.toNat, 8), (b.toNat, 0)])
  | .cvtl6 n d a b => some (wordOf 0x71000000 [(n.toNat, 23), (d.toNat, 16), (a.toNat, 8), (b.toNat, 0)])
  | .l6scl n d a => some (wordOf 0x72000000 [(n.toNat, 23), (d.toNat, 16), (a.toNat, 8)])
  | .tagset n d a b => some (wordOf 0x73000000 [(n.toNat, 23), (d.toNat, 16), (a.toNat, 8), (b.toNat, 0)])
  | .tagget n d a => some (wordOf 0x74000000 [(n.toNat, 23), (d.toNat, 16), (a.toNat, 8)])
  | .pack n d a b => some (wordOf 0x75000000 [(n.toNat, 23), (d.toNat, 16), (a.toNat, 8), (b.toNat, 0)])
  | .unpk n d a b => some (wordOf 0x76000000 [(n.toNat, 23), (d.toNat, 16), (a.toNat, 8), (b.toNat, 0)])
  | .vshfl d a b => some (wordOf 0x78000000 [(d.toNat, 16), (a.toNat, 8), (b.toNat, 0)])
  | .vrot d a b => some (wordOf 0x79000000 [(d.toNat, 16), (a.toNat, 8), (b.toNat, 0)])
  | .vbcst d a b => some (wordOf 0x7A000000 [(d.toNat, 16), (a.toNat, 8), (b.toNat, 0)])
  | .vred d a o => some (wordOf 0x7B000000 [(d.toNat, 16), (a.toNat, 8), (o.toNat, 0)])
  | .vscan d a e o => some (wordOf 0x7C000000 [(d.toNat, 16), (a.toNat, 8), (e.toNat, 4), (o.toNat, 0)])
  | .vcmpt d a p => some (wordOf 0x7D000000 [(d.toNat, 16), (a.toNat, 8), (p.toNat, 0)])
  | .vbal d p m => some (wordOf 0x7E000000 [(d.toNat, 16), (p.toNat, 8), (m.toNat, 0)])
  | .xtab t r a => some (wordOf 0x80000000 [(t.toNat, 22), (r.toNat, 21), (a.toNat, 12)])
  | .xdec f a b c => some (wordOf 0x81000000 [(f.toNat, 18), (a.toNat, 12), (b.toNat, 6), (c.toNat, 0)])
  | .xcrc d b c => some (wordOf 0x82000000 [(d.toNat, 12), (b.toNat, 6), (c.toNat, 0)])
  | .xsrt f a => some (wordOf 0x83000000 [(f.toNat, 18), (a.toNat, 12)])
  | .ldb v s x f => some (wordOf 0xA0000000 [(v.toNat, 17), (s.toNat, 11), (x.toNat, 4), (f.toNat, 0)])
  | .ldh v s x f => some (wordOf 0xA1000000 [(v.toNat, 17), (s.toNat, 11), (x.toNat, 4), (f.toNat, 0)])
  | .ldw v s x f => some (wordOf 0xA2000000 [(v.toNat, 17), (s.toNat, 11), (x.toNat, 4), (f.toNat, 0)])
  | .ldd v s x f => some (wordOf 0xA3000000 [(v.toNat, 17), (s.toNat, 11), (x.toNat, 4), (f.toNat, 0)])
  | .ldq v s x f => some (wordOf 0xA4000000 [(v.toNat, 17), (s.toNat, 11), (x.toNat, 4), (f.toNat, 0)])
  | .stb v s x f => some (wordOf 0xA5000000 [(v.toNat, 17), (s.toNat, 11), (x.toNat, 4), (f.toNat, 0)])
  | .sth v s x f => some (wordOf 0xA6000000 [(v.toNat, 17), (s.toNat, 11), (x.toNat, 4), (f.toNat, 0)])
  | .stw v s x f => some (wordOf 0xA7000000 [(v.toNat, 17), (s.toNat, 11), (x.toNat, 4), (f.toNat, 0)])
  | .std v s x f => some (wordOf 0xA8000000 [(v.toNat, 17), (s.toNat, 11), (x.toNat, 4), (f.toNat, 0)])
  | .stq v s x f => some (wordOf 0xA9000000 [(v.toNat, 17), (s.toNat, 11), (x.toNat, 4), (f.toNat, 0)])
  | .sld d s f => some (wordOf 0xAA000000 [(d.toNat, 17), (s.toNat, 11), (f.toNat, 0)])
  | .sst d s f => some (wordOf 0xAB000000 [(d.toNat, 17), (s.toNat, 11), (f.toNat, 0)])
  | .atom v s x f => some (wordOf 0xAC000000 [(v.toNat, 17), (s.toNat, 11), (x.toNat, 4), (f.toNat, 0)])
  | .abnd v s x => some (wordOf 0xAD000000 [(v.toNat, 17), (s.toNat, 11), (x.toNat, 4)])
  | .acas v s x => some (wordOf 0xAE000000 [(v.toNat, 17), (s.toNat, 11), (x.toNat, 4)])
  | .fence s k => some (wordOf 0xAF000000 [(s.toNat, 21), (k.toNat, 19)])
  | .ifence => some (wordOf 0xB0000000 [])
  | .prf s x f => some (wordOf 0xB1000000 [(s.toNat, 11), (x.toNat, 4), (f.toNat, 0)])
  | .pgenum d a => some (wordOf 0xB2000000 [(d.toNat, 12), (a.toNat, 6)])
  | .pgstat d a => some (wordOf 0xB3000000 [(d.toNat, 12), (a.toNat, 6)])
  | .rginfo f d a => some (wordOf 0xB4000000 [(f.toNat, 18), (d.toNat, 12), (a.toNat, 6)])
  | .opmap n a => some (wordOf 0xC0000000 [(n.toNat, 21), (a.toNat, 12)])
  | .mma c a b z o k => some (wordOf 0xC1000000 [(c.toNat, 23), (a.toNat, 21), (b.toNat, 19), (z.toNat, 18), (o.toNat, 12), (k.toNat, 0)])
  | .mmas c a b z o k => some (wordOf 0xC2000000 [(c.toNat, 23), (a.toNat, 21), (b.toNat, 19), (z.toNat, 18), (o.toNat, 12), (k.toNat, 0)])
  | .mmac c a b z o k => some (wordOf 0xC3000000 [(c.toNat, 23), (a.toNat, 21), (b.toNat, 19), (z.toNat, 18), (o.toNat, 12), (k.toNat, 0)])
  | .accz c s => some (wordOf 0xC4000000 [(c.toNat, 23), (s.toNat, 22)])
  | .accld c n => some (wordOf 0xC5000000 [(c.toNat, 23), (n.toNat, 20)])
  | .accst c n => some (wordOf 0xC6000000 [(c.toNat, 23), (n.toNat, 20)])
  | .accrd f p => some (wordOf 0xC7000000 [(f.toNat, 18), (p.toNat, 12)])
  | .accwr f p => some (wordOf 0xC8000000 [(f.toNat, 18), (p.toNat, 12)])
  | .mstep w d => some (wordOf 0xC9000000 [(w.toNat, 18), (d.toNat, 12)])
  | .cpy k i r l q => some (wordOf 0xD0000000 [(k.toNat, 22), (i.toNat, 18), (r.toNat, 12), (l.toNat, 6), (q.toNat, 0)])
  | .gath k i d b => some (wordOf 0xD1000000 [(k.toNat, 22), (i.toNat, 18), (d.toNat, 12), (b.toNat, 6)])
  | .scat k i d b => some (wordOf 0xD2000000 [(k.toNat, 22), (i.toNat, 18), (d.toNat, 12), (b.toNat, 6)])
  | .binit k i m e => some (wordOf 0xD3000000 [(k.toNat, 22), (i.toNat, 18), (m.toNat, 12), (e.toNat, 6)])
  | .barv i d => some (wordOf 0xD4000000 [(i.toNat, 18), (d.toNat, 12)])
  | .bexp i a => some (wordOf 0xD5000000 [(i.toNat, 18), (a.toNat, 12)])
  | .bwait i a => some (wordOf 0xD6000000 [(i.toNat, 18), (a.toNat, 12)])
  | .btest k i d => some (wordOf 0xD7000000 [(k.toNat, 22), (i.toNat, 18), (d.toNat, 12)])
  | .cwait n a => some (wordOf 0xD8000000 [(n.toNat, 22), (a.toNat, 12)])
  | .stga i d => some (wordOf 0xD9000000 [(i.toNat, 18), (d.toNat, 12)])
  | .stgc i => some (wordOf 0xDA000000 [(i.toNat, 18)])
  | .stgw i d => some (wordOf 0xDB000000 [(i.toNat, 18), (d.toNat, 12)])
  | .stgf i => some (wordOf 0xDC000000 [(i.toNat, 18)])
  | .cbar => some (wordOf 0xDD000000 [])
  | .emit s r => some (wordOf 0xDE000000 [(s.toNat, 12), (r.toNat, 6)])
  | .edgrd k d b => some (wordOf 0xDF000000 [(k.toNat, 22), (d.toNat, 12), (b.toNat, 6)])
  | .trap n a => some (wordOf 0xE0000000 [(n.toNat, 18), (a.toNat, 12)])
  | .tret => some (wordOf 0xE1000000 [])
  | .srd n d => some (wordOf 0xE2000000 [(n.toNat, 18), (d.toNat, 12)])
  | .swr n a => some (wordOf 0xE3000000 [(n.toNat, 18), (a.toNat, 12)])
  | .halt a => some (wordOf 0xE4000000 [(a.toNat, 12)])
  | .bkpt n => some (wordOf 0xE5000000 [(n.toNat, 18)])
  | .trcm d a => some (wordOf 0xE6000000 [(d.toNat, 12), (a.toNat, 6)])
  | .trcc k => some (wordOf 0xE7000000 [(k.toNat, 22)])
  | .acct d a => some (wordOf 0xE8000000 [(d.toNat, 12), (a.toNat, 6)])
  | .tlbi k a b => some (wordOf 0xE9000000 [(k.toNat, 22), (a.toNat, 12), (b.toNat, 6)])
  | .watch w a b => some (wordOf 0xEA000000 [(w.toNat, 18), (a.toNat, 12), (b.toNat, 6)])
  | .imm i => some (wordOf 0xF0000000 [(i.toNat, 0)])
  | .imm2 i => some (wordOf 0xF1000000 [(i.toNat, 0)])
  | .mod s c a b x y n e m => some (wordOf 0xF2000000 [(s.toNat, 23), (c.toNat, 22), (a.toNat, 21), (b.toNat, 20), (x.toNat, 19), (y.toNat, 18), (n.toNat, 17), (e.toNat, 11), (m.toNat, 9)])
  | .hintJoin j => some (wordOf 0xF3000000 [(j.toNat, 0)])
  | .hintStall n => some (wordOf 0xF3100000 [(n.toNat, 12)])
  | .hintReuse a b => some (wordOf 0xF3200000 [(a.toNat, 19), (b.toNat, 18)])
  | .hintTrace t => some (wordOf 0xF3300000 [(t.toNat, 0)])
  | .hintOrd o s => some (wordOf 0xF3400000 [(o.toNat, 17), (s.toNat, 14)])
  | .doorbell _ _ _ => none
  | .load _ _ => none
  | .launch _ => none
  | .free _ => none
  | .extend _ => none
  | .setage _ => none
  | .pooladd _ => none
  | .reserve _ => none
  | .bind _ => none
  | .unbind _ => none
  | .buffer _ => none
  | .attach _ => none
  | .stop _ => none
  | .resume _ => none
  | .arm _ => none
  | .terminate _ => none
  | .detach _ => none
  | .gangExitComplete _ _ => none
  | .dispatch _ => none
  | .ageing _ => none
  | .contextSave _ => none
  | .coalesceTimeout _ _ => none
  | .racqGrant _ _ => none
  | .regStarvation _ _ => none
  | .blockReturn _ _ _ => none
  | .dualPathPop _ _ _ => none
  | .loadReturn _ _ _ => none
  | .matrixCommandStart _ => none
  | .matrixCommandRetire _ => none
  | .matrixFetchFault _ => none
  | .synchronousReply _ _ => none
  | .copyCommandStart _ => none
  | .unitLand _ _ => none
  | .copyFault _ _ => none
  | .transformStart _ => none
  | .transformReply _ => none
  | .faultService _ _ _ => none
  | .commandFaultService _ _ _ => none
  | .backingService _ _ _ => none
  | .engineBackingWait _ _ _ => none
  | .integrityService _ _ => none
  | .errorCorrection _ => none
  | .blockedWaitRelease _ _ _ => none
  | .edgeLossWrite _ => none
  | .stopDelivery _ _ => none
  | .ifenceDiscard _ _ _ => none
  | .tlbiRemove _ _ _ => none
  | .pageSecondsTick => none
  | .traceSample _ => none
  | .collectorWrite _ => none
  | .freqUpdate _ _ _ => none
  | .timeSync _ => none
  | .fabricPacket _ _ => none
  | .portFailure _ _ => none
  | .preqIdle => none
  | .preqDeep => none
  | .preqActive => none
  | .preqOff => none
  | .pstateChange => none
  | .registerWrite _ => none
  | .bar2Access _ => none
  | .reset _ _ => none
  | .tenantDebugToken _ _ _ _ _ => none
  | .vendorDebugToken _ => none
  | .tokenExpiry _ => none
  | .tokenWithdrawal _ => none
  | .getVersion _ => none
  | .getCapabilities _ => none
  | .negotiateAlgorithms _ => none
  | .getDigests _ => none
  | .getCertificate _ _ _ => none
  | .challenge _ _ => none
  | .getMeasurements _ _ => none
  | .accountingSnapshot _ _ => none
  | .unassignedOpcode _ => none
  | .rocev2Packet _ _ => none

/-- A format-A word reads its third source from the register named by D, so N may not be set (05 R96). -/
def threeSource (op : Nat) : Bool := op == 0x44 || op == 0x63

/-- Latch-class opcodes (01 R37). -/
def latchClass (op : Nat) : Bool :=
  (0x40 ≤ op && op ≤ 0x54) || (0x60 ≤ op && op ≤ 0x6C) || (0x70 ≤ op && op ≤ 0x76)

/-- Anchored opcodes; a prefix is anchored when its instruction is (01 R33). -/
def anchoredOp (op : Nat) : Bool :=
  (0x01 ≤ op && op ≤ 0x0A) || (0x10 ≤ op && op ≤ 0x17) || (0x80 ≤ op && op ≤ 0x83) ||
  (0xC0 ≤ op && op ≤ 0xC9) || (0xD0 ≤ op && op ≤ 0xDF) || (0xE0 ≤ op && op ≤ 0xEA)

/-- Prefix opcodes (05 R97). -/
def prefixOp (op : Nat) : Bool := 0xF0 ≤ op && op ≤ 0xF3

end Sys2Proof
end

