-- ==== Sys2Proof/Config.lean ====
section
/-! DEFINITION. What one device fixes and what the spec leaves open: the sizes of the LM-SK4-A (00 R7, R8), and the free values, constants without a body that nothing can evaluate. -/

namespace Sys2Proof.Config

/-- Bytes of device memory: 256 GiB, 64 GiB for each die (00 R8). -/
def memBytes : Nat := 274877906944

/-- Bytes of device memory of one die's stack (00 R8). -/
def dieBytes : Nat := 68719476736

/-- Built cores of a die: 26 clusters of 4 (00 R7, R8). -/
def coresPerDie : Nat := 104

/-- Bytes of a core's scratchpad (00 R8). -/
def scratchBytes : Nat := 786432

/-- Bytes of a 64 KiB page (11 R188). -/
def pageBytes : Nat := 65536

/-- A clock count that ends a wait in RACQ (01 R29). -/
def starvationClocks : Nat := 1048576

/-- A free natural number: the choice with a serial number, drawn from the counter `State.free`. Nothing constrains it. -/
opaque freeNat : Nat → Nat

/-- The die whose memory stack homes a page; fixed for a device and not stated (11 R196, 15 R241). -/
opaque homeDie : Nat → Nat

/-- The bits a device returns for FRCP, FRSQ, FEXP2 and FLOG2 (09 R163), by opcode, format, operand, MOD fields and MODE.FTZ (log 10). -/
opaque approx : Nat → Nat → Nat → Nat → Nat → Nat

/-- Whether a signature is valid under a key over a message, a list of numbers (25 R380, R382): key 0 is Lamud's, key 1 + t that of tenant t (log 18). -/
opaque slhVerify : Nat → List Nat → Nat → Bool

/-- The signature of the device identity key over a message (25 R381, R387, log 18). -/
opaque slhSign : List Nat → Nat

/-- Digest of the certificate chain, and the chain (25 R381, log 18). -/
opaque certDigest : Nat
opaque certChain : List Byte

/-- The 64-byte digest of a statement that boot extends: kind 0 security state and fuse, 1 defect signature, with its value (25 R380, log 18). -/
opaque stateDigest : Nat → Nat → BitVec 512

/-- The device's nonces, by serial number (25 R382, log 18). -/
opaque nonceOf : Nat → Nat

/-- The port by which the routing tables that the driver fills at boot reach a device, plus one; 0 for none (25 R377, log 52). -/
opaque bootRoute : Nat → Nat

end Sys2Proof.Config
end

