-- ==== Sys2Proof/Machine/Map.lean ====
section
/-! DEFINITION. Sparse data by key: a list of (key, value) pairs in one canonical form, keys strictly rising and no entry equal to the value an unlisted key reads as. Memory, register files, tiles and tables are held in this form. -/

namespace Sys2Proof.Machine

/-- Sparse data by key. -/
abbrev SMap (α : Type) := List (Nat × α)

/-- The value at a key; `d` is what an unlisted key reads as. -/
def SMap.get {α : Type} (d : α) : SMap α → Nat → α
  | [], _ => d
  | (k', v) :: r, k => if k' = k then v else SMap.get d r k

/-- Insert an entry before the first larger key. -/
def SMap.ins {α : Type} : SMap α → Nat → α → SMap α
  | [], k, v => [(k, v)]
  | (k', v') :: r, k, v => if k < k' then (k, v) :: (k', v') :: r else (k', v') :: SMap.ins r k v

/-- Drop every entry of a key. -/
def SMap.del {α : Type} (m : SMap α) (k : Nat) : SMap α := m.filter (fun e => decide (e.1 ≠ k))

/-- Write a key; writing the value of an unlisted key removes the entry. -/
def SMap.set {α : Type} [DecidableEq α] (d : α) (m : SMap α) (k : Nat) (v : α) : SMap α :=
  if v = d then m.del k else (m.del k).ins k v

/-- Write several keys, in the order of the list. -/
def SMap.setAll {α : Type} [DecidableEq α] (d : α) (m : SMap α) (kvs : List (Nat × α)) : SMap α :=
  kvs.foldl (fun m kv => m.set d kv.1 kv.2) m

/-- The map that holds `f k` at each key `k < n`. -/
def SMap.ofFn {α : Type} [DecidableEq α] (d : α) (n : Nat) (f : Nat → α) : SMap α :=
  (List.range n).filterMap (fun k => if f k = d then none else some (k, f k))

/-- Every key of a list lies above `k`. -/
def SMap.above {α : Type} (k : Nat) : SMap α → Bool
  | [] => true
  | (k', _) :: _ => decide (k < k')

/-- The canonical form: keys strictly rising, no entry equal to `d`. -/
def SMap.wf {α : Type} [DecidableEq α] (d : α) : SMap α → Bool
  | [] => true
  | (k, v) :: r => decide (v ≠ d) && SMap.above k r && SMap.wf d r

/-- A list of entries put into the canonical form; the last entry of a key stands. -/
def SMap.canon {α : Type} [DecidableEq α] (d : α) (kvs : List (Nat × α)) : SMap α :=
  SMap.setAll d [] kvs

/-- The map with every value changed by a function of its key and itself; what an unlisted key reads as is `d`. -/
def SMap.mapV {α β : Type} [DecidableEq β] (d : β) (f : Nat → α → β) (m : SMap α) : SMap β :=
  SMap.canon d (m.reverse.map (fun e => (e.1, f e.1 e.2)))

end Sys2Proof.Machine
end

