-- ==== Sys2Proof/Machine/Types.lean ====
section
/-! DEFINITION. The parts of the machine's state below the device: lanes, splits, gangs (01 R15), workgroups and cores, with the queues of the engines. All of it is plain data. -/

namespace Sys2Proof.Machine

/-- Trap codes (21 R333). -/
inductive Cause where
  | illegalInstruction | illegalOperand | formatTag | planeAlign | regBlock | skipBody | collectiveIssue
  | latchInvalid | divergeDepth | role | translation | protection | alignment | backingExhausted | race
  | integrity | scaleLayout | streamFormat | barrierOverflow | barrierOrphan | clusterExit | regionStack
  | regStarvation | ringMisuse | breakpoint | softwareTrap | stopRequest
  deriving DecidableEq, Repr

/-- Roles of gangs (01 R21). -/
inductive Role where
  | copy | matrix | vector
  deriving DecidableEq, Repr

/-- Format tags (03 R57): the tag codes 0xD and 0xE are reserved, 0xF is INVALID. -/
inductive Tag where
  | b32 | s32 | n32 | f32 | f16x2 | bf16x2 | s16x2 | n16x2 | s8x4 | n8x4 | l6x4 | s64 | n64 | rsvD | rsvE | invalid
  deriving DecidableEq, Repr

/-- One lane of a vector register: its 32 bits, its tag (01 R15), and whether its parity fails (11 R216). -/
structure VCell where
  bits : W32
  tag : Tag
  bad : Bool
  deriving DecidableEq, Repr

/-- The launch value of a base register's lane (01 R15). -/
def VCell.zero : VCell := ⟨0, .b32, false⟩

/-- The value of an extended register's lane at a grant (01 R28). -/
def VCell.fresh : VCell := ⟨0, .invalid, false⟩

/-- A valid latch entry (01 R37); an invalid one is `none`. -/
structure Latch where
  bits : W32
  tag : Tag
  /-- its parity fails (11 R215, R216) -/
  bad : Bool
  deriving DecidableEq, Repr

/-- Where a word stands in the order of a prefix group (05 R97). -/
inductive PKind where
  | stall
  | reuse
  | trace
  | ord
  | join
  | imm
  | imm2
  | mod
  deriving DecidableEq, Repr

/-- The prefixes a split has issued before the instruction they belong to (05 R97). -/
structure Pfx where
  /-- offset of the group's first word (05 R99) -/
  first : Nat
  /-- the last kind issued, in the order of 05 R97: 0 HINT, 1 JOIN, 2 IMM, 3 IMM2, 4 MOD -/
  last : Nat
  stall : Bool
  reuse : Bool
  join : Option (BitVec 20)
  trace : Option (BitVec 16)
  ord : Option (BitVec 3 × BitVec 3)
  imm : Option (BitVec 24)
  imm2 : Option (BitVec 24)
  /-- payload of a MOD (05 R101) -/
  mod_ : Option (BitVec 24)
  /-- the kinds of its words, in the order in which they stand from `first` on -/
  kinds : List PKind
  deriving DecidableEq, Repr

/-- The body of a SKIP: words `first` to `last`, with the lanes it disables (01 R44). -/
structure SkipBody where
  first : Nat
  last : Nat
  lanes : W32
  deriving DecidableEq, Repr

/-- A command of the transform pipe (09 R175 to R181), by the fields of its word. -/
inductive XOp where
  | tab (t : Nat) (run : Bool) (a : Nat)
  | dec (f a b c : Nat)
  | crc (d b c : Nat)
  | srt (f a : Nat)
  deriving DecidableEq, Repr

/-- A code table of the transform pipe (09 R177): the counts N[1] to N[12], the symbols in canonical order, RUN. -/
structure XTable where
  counts : List Nat
  symbols : List Byte
  run : Bool
  deriving DecidableEq, Repr

/-- The last arriver of a barrier phase, a ring slot or a counter (19 R306). -/
structure LastArr where
  /-- kind and identity word of the agent -/
  agent : W64
  clock : W64
  blame : W64
  /-- region stack top at the event -/
  top : BitVec 16
  deriving DecidableEq, Repr

/-- What an agent has come to know: of each agent, by its key, the number of the last of its writes that happen before what the agent does now (11 R202; log 107). -/
abbrev Know := SMap Nat

/-- A release as it travels (11 R200, R204, R209): its workgroup by launch, node and rank, its gang, the count of race detection, its scope, the cluster group and the die it comes from, and what the releasing agent knew. -/
structure RelInfo where
  launch : Nat
  node : Nat
  rank : Nat
  gang : Nat
  count : W32
  scope : Nat
  group : Option Nat
  die : Nat
  know : Know
  deriving DecidableEq, Repr

/-- What a split waits for before it continues after, or at, its instruction (21 R331). -/
inductive Wait where
  /-- it does not wait -/
  | none
  /-- RACQ: its request is in the quadrant's queue (01 R27) -/
  | racq
  /-- RREL: writes into the extended block are outstanding (07 R141) -/
  | rrel
  /-- REGANG with a mask (01 R19) -/
  | regang (mask : BitVec 8)
  /-- BWAIT on a barrier for a phase (19 R296) -/
  | bwait (bar : Nat) (phase : Nat)
  /-- STGA on a ring, to write the slot index into a scalar (19 R301) -/
  | stga (ring : Nat) (d : Nat)
  /-- STGW on a ring (19 R301) -/
  | stgw (ring : Nat) (d : Nat)
  /-- CWAIT until a counter is at most `n` (19 R303) -/
  | cwait (cls : Nat) (n : Nat)
  /-- CBAR until a completion number (19 R304) -/
  | cbar (completion : Nat)
  /-- EMIT: space in the queue of a node, for a record it has read; the place in the order of arrival, and, once space has appeared for it, the last arriver of its edge (19 R305) -/
  | emit (node : Nat) (record : List Byte) (ticket : Nat) (by_ : Option LastArr)
  /-- a CPY whose formation is incomplete, with s[R], s[L], s[Q], K and IX (19 R288) -/
  | forming (r l q : W64) (k ix : Nat)
  /-- ACCRD or ACCWR behind earlier commands: whether it writes the tile, the first register, s[P], and the command number that the next command takes (17 R276) -/
  | accElems (write : Bool) (reg : Nat) (sel : W64) (next : Nat)
  /-- a transform command (09 R175) -/
  | transform (op : XOp)
  /-- IFENCE (13 R234) -/
  | ifence
  /-- TLBI of a kind, an address and a space (21 R341) -/
  | tlbi (kind : Nat) (va : W64) (asid : Nat)
  /-- released from a wait at the event that ended it, and not gone on yet: the object word, the record the edge takes, and the releases acquired (19 R295, R303, R304, R307; log 81) -/
  | passed (obj : Nat) (by_ : LastArr) (rels : List RelInfo)
  /-- a CWAIT that returns with an error of a command it covers (19 R303) -/
  | failed (c : Cause) (a : W64)
  deriving DecidableEq, Repr

/-- A slice group, or one path of a divided slice (01 R45), with its own program counter. -/
structure Split where
  /-- the slices it holds; one slice when it is a path -/
  slices : BitVec 8
  /-- its path number when its slice is divided -/
  path : Option Nat
  /-- its live lanes -/
  lanes : W32
  /-- offset of its next word -/
  pc : Nat
  /-- planes below this one have issued the word at `pc` (01 R34) -/
  nextPlane : Nat
  /-- after TRET: up to this offset, only planes from this one on issue (21 R338) -/
  replay : Option (Nat × Nat)
  /-- pending prefixes by plane; key 4 for an anchored group -/
  pfx : SMap (Option Pfx)
  /-- skip bodies in force -/
  skip : List SkipBody
  /-- latch-reading issues since the head of the chain, by plane, plus one; 0: no chain (01 R39) -/
  chain : SMap Nat
  /-- clock before which a STALL holds the next word (05 R102) -/
  stall : Nat
  wait : Wait
  /-- clock at which it began to wait, the first word of the waiting prefix group, the plane of the issue (none when anchored) and the tag of its HINT.TRACE -/
  waitStart : Nat
  waitFirst : Nat
  waitPlane : Option Nat
  waitTag : Option (BitVec 16)
  /-- stopped while another split runs the handler (21 R334) -/
  stopped : Bool
  /-- clock of its last issue in each plane (21 R329) -/
  lastIssue : SMap Nat
  deriving DecidableEq, Repr

/-- An entry of a dual-path stack (01 R42, R43). -/
structure DPEntry where
  join : Nat
  /-- lanes of path 0 and of path 1 -/
  t : W32
  f : W32
  /-- path number of the path that divided, when an entry lies below -/
  outer : Option Nat
  /-- the sibling of the path that divided -/
  parked : Option Split
  deriving DecidableEq, Repr

/-- What the handler needs to return (21 R334, R338). -/
structure Handler where
  /-- depth of the dual-path stack of each slice at entry -/
  depths : SMap Nat
  /-- TRAPPC at entry -/
  entryPc : W64
  /-- offset of the trapping word -/
  trapOff : Nat
  /-- plane of the trap -/
  plane : Nat
  /-- whether the trapping instruction issues once for every plane -/
  anchored : Bool
  /-- skip bodies in force at the trap -/
  skip : List SkipBody
  /-- prefixes of other planes that stay issued (01 R46) -/
  pfx : SMap (Option Pfx)
  deriving DecidableEq, Repr

/-- An outstanding load or atomic (13 R219): the register lanes it will fill. -/
structure PendLoad where
  /-- first register, count of registers -/
  reg : Nat
  n : Nat
  lanes : W32
  /-- an atomic, not a load -/
  atomic : Bool
  /-- SLD: `reg` is a scalar register -/
  scalar : Bool
  /-- it reads a page of host memory (23 R344) -/
  io : Bool
  deriving DecidableEq, Repr

/-- An error of a command that targets no barrier or ring, pending for CWAIT or exit (19 R303): its first address, the lowest of its cause, and the gang that issued or formed it (21 R315). -/
structure CmdErr where
  cls : Nat
  number : Nat
  cause : Cause
  addr : W64
  low : W64
  gang : Nat
  deriving DecidableEq, Repr

/-- What ends a launch early: the fields of the launch status record (21 R315). -/
structure Status where
  code : Nat
  node : Nat
  rank : Nat
  detail : W64
  trapl : W64
  trappc : W64
  trapa : W64
  deriving DecidableEq, Repr

/-- A write of a byte as reads may still see it (11 R203): the byte, the write's serial number, the key of the agent that wrote it, and the gangs that have read it (11 R199). -/
structure Past where
  byte : Byte
  serial : Nat
  by_ : Nat
  readers : List Nat
  deriving DecidableEq, Repr

/-- What the CWAIT that covers a command acquires of it (11 R206): the command's class and number, and its release. -/
structure CmdRel where
  cls : Nat
  number : Nat
  rel : RelInfo
  deriving DecidableEq, Repr

/-- No last arriver yet (19 R306). -/
def LastArr.zero : LastArr := ⟨0, 0, 0, 0⟩

/-- A trap that the Puone cores serve for a gang (11 R192, R216, 15 R248). -/
structure Service where
  cause : Cause
  addr : W64
  /-- every faulting lane with its address -/
  faults : List (Nat × W64)
  /-- the fault comes from a malformed table entry (11 R189) -/
  malformed : Bool
  /-- TRAPPC, TRAPL and SWNUM of the trap -/
  pc : Nat
  trapl : W64
  /-- index of the trapping split, offset and plane of the trapping word, whether it is anchored -/
  split : Nat
  trapOff : Nat
  plane : Nat
  anchored : Bool
  /-- tag of the HINT.TRACE of its group (05 R102) -/
  tag : Option (BitVec 16)
  /-- TIME of the trap's arrival (23 R344) -/
  since : W64
  deriving DecidableEq, Repr

/-- State of an engine command: queued, running, stopped for fault service, or a write waiting for backing (17 R268, 19 R280, 15 R249). -/
inductive CmdState where
  | queued | running | faulted | backing
  deriving DecidableEq, Repr

/-- A fault of an engine command, pending for service (17 R269). -/
structure CmdFault where
  addr : W64
  cause : Cause
  malformed : Bool
  deriving DecidableEq, Repr

/-- Kinds of matrix commands (17 R257). -/
inductive MatKind where
  | mma | mmas | mmac | accz | accld | accst
  deriving DecidableEq, Repr

/-- A command of the matrix engine (17 R257, R268). -/
structure MatCmd where
  kind : MatKind
  gang : Nat
  acc : Nat
  /-- captured operand maps A and B; for ACCLD and ACCST the map is A -/
  mapA : BitVec 256
  mapB : BitVec 256
  z : Bool
  k : Nat
  k0 : Nat
  /-- tag of the tile once it has retired; for ACCST the tag it converts from -/
  tag : Tag
  state : CmdState
  /-- panel counters, relative to k0, and finished panels (17 R268) -/
  counters : SMap Nat
  done : BitVec 16
  services : Nat
  /-- the highest position of each panel, relative to k0, that an MSTEP has read (17 R268, R277) -/
  seen : SMap Nat
  /-- flags of the products and roundings so far (17 R272) -/
  flags : W32
  faults : List CmdFault
  /-- the first error of the command, for CWAIT (15 R249, R246) -/
  err : Option (Cause × W64)
  /-- the lowest address of an error of that cause (21 R315) -/
  low : W64
  /-- while a write waits for backing: the pages, by region and page, for which none was found, and the lowest address of theirs -/
  lacks : List (Nat × Nat)
  lackAt : W64
  serial : Nat
  blame : W64
  top : BitVec 16
  mmacNo : Nat
  /-- TIME at which it stopped for service or for backing (23 R344) -/
  since : W64
  /-- what its gang knew at the issue (11 R205) -/
  know : Know
  deriving DecidableEq, Repr

/-- The progress record that MSTEP reads (17 R277); `state` is its STATE field. -/
structure MRec where
  kind : Nat
  acc : Nat
  state : Nat
  services : Nat
  done : BitVec 16
  counters : SMap Nat
  k : Nat
  deriving DecidableEq, Repr

/-- No command yet (17 R277). -/
def MRec.zero : MRec := ⟨0, 0, 0, 0, 0, [], 0⟩

/-- Target of a copy-engine command (19 R281). -/
inductive Target where
  | none
  | barrier (b : Nat)
  | ring (g slot : Nat)
  deriving DecidableEq, Repr

inductive CopyKind where
  | cpy | gath | scat
  deriving DecidableEq, Repr

/-- A command of the copy engine (19 R280). -/
structure CopyCmd where
  kind : CopyKind
  target : Target
  /-- layout record (19 R284), or descriptor in bits [255:0] (19 R289) -/
  desc : BitVec 512
  bias : W64
  /-- issuing or forming gang -/
  gang : Nat
  /-- CPY: the gangs that formed it, each with its first block and block count -/
  parts : List (Nat × Nat × Nat)
  serial : Nat
  blame : W64
  top : BitVec 16
  state : CmdState
  /-- index vector captured at the start (19 R290) -/
  idx : List W32
  /-- units that have landed -/
  landed : SMap Bool
  faults : List CmdFault
  /-- the first error of the command, and the lowest address of an error of its cause (19 R303, 21 R315) -/
  err : Option (Cause × W64)
  low : W64
  /-- while a write waits for backing: the pages, by region and page, for which none was found, and the lowest address of theirs -/
  lacks : List (Nat × Nat)
  lackAt : W64
  /-- TIME at which it stopped for service or for backing (23 R344) -/
  since : W64
  /-- what its gangs knew at the issue, or at the formation (11 R205) -/
  know : Know
  /-- it has started (21 R340) -/
  started : Bool
  deriving DecidableEq, Repr

/-- A barrier (19 R291). -/
structure Barrier where
  members : BitVec 16
  arrived : BitVec 16
  engines : Nat
  engArrived : Nat
  pend : Nat
  rows : Bool
  phase : BitVec 16
  err : Option Cause
  last : LastArr
  comp : LastArr
  /-- releases of the arrivals of this phase (11 R204, R209) -/
  rel : List RelInfo
  /-- releases of completed phases, by phase -/
  relDone : SMap (List RelInfo)
  deriving DecidableEq, Repr

/-- A barrier with no member. -/
def Barrier.empty : Barrier := ⟨0, 0, 0, 0, 0, false, 0, none, LastArr.zero, LastArr.zero, [], []⟩

/-- States of a ring slot (01 R24). -/
inductive SlotState where
  | empty | filling | full | draining
  deriving DecidableEq, Repr

/-- A slot of a stage ring (01 R24, 19 R300). -/
structure Slot where
  st : SlotState
  phase : Bool
  err : Option (Cause × W64)
  last : LastArr
  /-- the release its last event carried (11 R204, R209) -/
  rel : List RelInfo
  deriving DecidableEq, Repr

def Slot.zero : Slot := ⟨.empty, false, none, LastArr.zero, []⟩

/-- A stage ring (19 R300). -/
structure Ring where
  slots : Nat
  slot : SMap Slot
  prod : Nat
  cons : Nat
  deriving DecidableEq, Repr

def Ring.zero : Ring := ⟨0, [], 0, 0⟩

/-- A gang (01 R15), with the state of its traps (21 R335), its trace (23) and its races (11 R209). -/
structure Gang where
  role : Role
  /-- lane `l` of register `r` at key 32r + l; a base register's lane that nothing wrote is 0, B32 -/
  v : SMap VCell
  s : SMap W64
  /-- p1 to p7, one bit a lane -/
  p : SMap W32
  /-- latch `i` of lane `l` in plane `n` at key 32(4n + i) + l -/
  x : SMap (Option Latch)
  /-- operand maps om0 to om7 -/
  om : SMap (BitVec 256)
  /-- counters c0 to c3 -/
  c : SMap (BitVec 16)
  /-- commands issued in each counter class since launch -/
  cIssued : SMap Nat
  cErr : List CmdErr
  /-- releases of the commands that have retired, which the CWAITs that cover them acquire (11 R206) -/
  cRel : List CmdRel
  /-- last arriver of each counter (19 R306) -/
  cLast : SMap LastArr
  /-- progress record of the last matrix product (17 R277) -/
  mrec : MRec
  /-- region stack, top first -/
  regions : List (BitVec 16)
  /-- plane register of each lane -/
  plane : SMap (BitVec 2)
  splits : List Split
  /-- dual-path stack of each slice, topmost first -/
  dp : SMap (List DPEntry)
  exited : W32
  flags : W32
  mode : W32
  blame : W64
  trapc : W64
  trapa : W64
  trappc : W64
  trapl : W64
  handler : Option Handler
  /-- extended block held, 0 or 1 -/
  ext : Option Nat
  traceEn : BitVec 8
  permit : BitVec 8
  acctd : BitVec 8
  /-- a SYNC is due before the next other packet, and packets since the last one (23 R357) -/
  syncDue : Bool
  sinceSync : Nat
  /-- outstanding loads and atomics -/
  loads : List PendLoad
  rc : W32
  acq : SMap W32
  vr : SMap W32
  /-- release fences, which make every later atomic write a release: what such a write carries of them (11 R201) -/
  relFence : List RelInfo
  /-- releases that the gang's atomics have read, which a later acquire fence takes up (11 R201) -/
  seen : List RelInfo
  /-- the writes of other agents that happen before what it does now (11 R202, R203) -/
  know : Know
  lastIssue : Nat
  /-- no split issues in the clock after a YIELD (07 R136) -/
  yieldAt : Option Nat
  /-- the exit has completed and the quadrant slot is free (07 R135) -/
  done : Bool
  service : Option Service
  /-- stopped by a debugger's event (21 R319): its cause and the index of its split -/
  dbgStop : Option (Cause × Nat)
  /-- a requested stop not yet delivered: whether its mode is EDGE (23 R347) -/
  stopReq : Option Bool
  deriving DecidableEq, Repr

/-- A gang that holds nothing. -/
def Gang.empty : Gang :=
  { role := .vector, v := [], s := [], p := [], x := [], om := [], c := [], cIssued := [], cErr := [], cRel := [], cLast := [], mrec := MRec.zero,
    regions := [], plane := [], splits := [], dp := [], exited := 0, flags := 0, mode := 0, blame := 0,
    trapc := 0, trapa := 0, trappc := 0, trapl := 0, handler := none, ext := none, traceEn := 0, permit := 0,
    acctd := 0, syncDue := false, sinceSync := 0, loads := [], rc := 0, acq := [], vr := [], relFence := [], seen := [], know := [], lastIssue := 0,
    yieldAt := none, done := false, service := none, dbgStop := none, stopReq := none }

/-- The kernel a workgroup runs (05 R118, R119, 01 R31). -/
structure Kernel where
  /-- address of offset 0 of plane 0 -/
  base : W64
  stride : Nat
  planes : Nat
  length : Nat
  trapOff : Option Nat
  scratch : Nat
  schk : Bool
  ext : Bool
  slices : Nat
  ncopy : Nat
  nmat : Nat
  nvec : Nat
  deriving DecidableEq, Repr

/-- No kernel. -/
def Kernel.empty : Kernel := ⟨0, 0, 1, 0, none, 0, false, false, 1, 0, 0, 0⟩

/-- Tag of a 32-byte sector of a checked scratchpad (11 R210). -/
structure SectorTag where
  writer : Nat
  count : W32
  atomic : Bool
  mask : W32
  deriving DecidableEq, Repr


/-- A workgroup on a core (01 R11, R12). -/
structure Workgroup where
  launch : Nat
  node : Nat
  rank : Nat
  clrank : Nat
  /-- number of the cluster group within the node -/
  group : Nat
  cluster : Bool
  asid : Nat
  priv : Bool
  domain : BitVec 8
  tenant : Nat
  mailbox : Nat
  kernel : Kernel
  level : Nat
  dispatched : Nat
  gangs : SMap Gang
  /-- accessed a cluster scratchpad address since the last CBAR completed; a CBAR has completed (07 R135) -/
  clAccessed : Bool
  clBarred : Bool
  /-- release epoch for checked pages (11 R212) -/
  epoch : Nat
  bars : SMap Barrier
  rings : SMap Ring
  /-- tags of the tiles acc0 and acc1, and the pending tags (17 R259) -/
  tileTag : SMap Tag
  pendTag : SMap Tag
  mq : List MatCmd
  mmacs : Nat
  cq : List CopyCmd
  /-- command numbers by class: 1 copy, 2 gather and scatter, 3 matrix (19 R282) -/
  serials : SMap Nat
  cpySeq : W64
  /-- the gang whose CPY of the expected sequence number was issued last (19 R288) -/
  cpyLast : Nat
  /-- cluster barrier: arrived gangs, completions, last arriver, releases of the arrivals, releases of the last completion (19 R304, R306) -/
  cbArr : BitVec 16
  cbDone : Nat
  cbLast : LastArr
  cbRel : List RelInfo
  cbRelDone : List RelInfo
  /-- transform pipe: gangs with a command, in order of arrival, and whether the first has started (09 R175) -/
  xq : List Nat
  xrun : Bool
  /-- code tables 0 to 3 (09 R176) -/
  xtab : SMap (Option XTable)
  /-- watched ranges: first address and size (23 R373) -/
  watch : SMap (Option (W64 × Nat))
  preempt : Bool
  /-- being ended: STATUS of the launch, already recorded (21 R316, R340) -/
  ending : Bool
  deriving DecidableEq, Repr

/-- A workgroup that holds nothing. -/
def Workgroup.empty : Workgroup :=
  { launch := 0, node := 0, rank := 0, clrank := 0, group := 0, cluster := false, asid := 0, priv := false,
    domain := 0, tenant := 0, mailbox := 0, kernel := Kernel.empty, level := 0, dispatched := 0, gangs := [], clAccessed := false, clBarred := false, epoch := 0,
    bars := [], rings := [], tileTag := [], pendTag := [], mq := [], mmacs := 0, cq := [], serials := [], cpySeq := 0, cpyLast := 0,
    cbArr := 0, cbDone := 0, cbLast := LastArr.zero, cbRel := [], cbRelDone := [], xq := [], xrun := false, xtab := [], watch := [], preempt := false, ending := false }

/-- A request in a quadrant's RACQ queue (01 R27). -/
structure RacqReq where
  gang : Nat
  since : Nat
  deriving DecidableEq, Repr

/-- The storage of a core that its workgroup owns (01 R12) and that a context save keeps (21 R332). -/
structure Store where
  /-- scratchpad bytes; an unlisted byte reads 0 (21 R325) -/
  scr : SMap Byte
  poison : SMap Bool
  /-- race tags of the scratchpad's 32-byte sectors (11 R210) -/
  tags : SMap (Option SectorTag)
  /-- releases that atomic values in the scratchpad carry (11 R209): at the value's first byte, its width and the releases -/
  rel : SMap (Nat × List RelInfo)
  /-- element 16384t + 128r + c of the accumulator store: tile `t`, row `r`, column `c` (17 R259) -/
  acc : SMap W32
  /-- elements of it that hold an error that could not be corrected (11 R216) -/
  accBad : SMap Bool
  deriving DecidableEq, Repr

/-- A store that is all zero. -/
def Store.empty : Store := ⟨[], [], [], [], [], []⟩

/-- A core (01 R12). -/
structure Core where
  wg : Option Workgroup
  store : Store
  /-- registers of the blocks no gang holds, at key 32(64(6q + b) + v) + l (11 R185) -/
  idle : SMap VCell
  /-- RACQ queue of each quadrant, oldest first -/
  racq : SMap (List RacqReq)
  /-- device memory as it stood when the core last discarded its instructions (11 R207, 13 R234) -/
  ibuf : SMap Byte
  /-- clock of the last sample, and the gang after which the rotation goes on (23 R356) -/
  smpLast : Nat
  smpRot : Nat
  deriving DecidableEq, Repr

/-- A core with nothing on it. -/
def Core.empty : Core := ⟨none, Store.empty, [], [], [], 0, 0⟩

/-- A pre-empted workgroup as its context area keeps it (21 R332). -/
structure Saved where
  wg : Workgroup
  store : Store
  /-- TIMEs at which its services that the Puone cores have not ended arrived (23 R344): the driver's, not a part of the context -/
  services : List W64
  deriving DecidableEq, Repr

/-- A valid translation a TLB holds (11 R191): the pages it covers and the table entry. -/
structure TlbEnt where
  asid : Nat
  /-- first page (64 KiB) and count of pages -/
  page : Nat
  pages : Nat
  entry : W64
  deriving DecidableEq, Repr

/-- A node of a step graph (21 R321), with its progress (21 R323 to R326). -/
structure Node where
  /-- tile operands: written, base page, pages (21 R322) -/
  opnds : List (Bool × Nat × Nat)
  args : List W64
  /-- dies it may run on, ascending -/
  dies : List Nat
  priv : Bool
  slices : Nat
  nvec : Nat
  nmat : Nat
  ncopy : Nat
  cluster : Bool
  /-- record-driven (MODE 1) -/
  mode1 : Bool
  domain : BitVec 8
  prio : Nat
  /-- bytes of a record -/
  rsize : Nat
  timeout : Nat
  thresh : Nat
  qsize : Nat
  count : Nat
  qbase : W64
  succs : List Nat
  slot : Nat
  kernel : Kernel
  /-- successor entries that name it and have not completed -/
  preds : Nat
  ready : Bool
  readyAt : W64
  /-- workgroups dispatched so far, the next rank -/
  nextRank : Nat
  running : Nat
  ended : Nat
  complete : Bool
  /-- MODE 1: records pushed and freed; agent, clock and blame of each record in the queue, oldest first (19 R305) -/
  pushed : Nat
  freed : Nat
  waiting : List LastArr
  /-- MODE 1: what the EMIT of each of those records released (19 R305) -/
  recKnow : List Know
  /-- MODE 1: gang 0 of the workgroup whose launch last freed space, and that clock (19 R305) -/
  freedBy : LastArr
  /-- MODE 1: EMITs that have had to wait for space so far -/
  tickets : Nat
  /-- MODE 1: records of fired batches whose workgroups are not dispatched yet -/
  fired : Nat
  deriving DecidableEq, Repr

/-- A debugger's hold on a launch (21 R318, R319). -/
structure Hold where
  /-- address space and address of the event ring -/
  asid : Nat
  ring : W64
  records : Nat
  events : Nat
  deriving DecidableEq, Repr

/-- A launch (21 R312 to R326). -/
structure Launch where
  mailbox : Nat
  /-- ACCEPTED once it had counted the call (21 R318) -/
  call : W64
  tenant : Nat
  asid : Nat
  slot : Nat
  stamp : W64
  statAddr : W64
  timeAddr : W64
  nodes : List Node
  status : Option Status
  /-- the status record has been written -/
  closed : Bool
  hold : Option Hold
  /-- armed region ids (23 R348) -/
  armed : List (BitVec 16)
  /-- TIME of the stamp, and the time record so far (23 R343): workgroups dispatched, fault services, nanoseconds of fault, io, exec and queue -/
  start : W64
  wgs : Nat
  faults : Nat
  tFault : Nat
  tIo : Nat
  tExec : Nat
  tQueue : Nat
  /-- the current nanosecond, and the first category that has held in it: 0 fault, 1 io, 2 exec, 3 queue (23 R344) -/
  ns : W64
  cat : Nat
  /-- storage transfers that the driver has begun for the launch and that have not completed (23 R344, 25 R378) -/
  storage : Nat
  deriving DecidableEq, Repr

/-- What a ready entry dispatches (21 R324, R331). -/
inductive Job where
  /-- the next ranks of a MODE 0 node -/
  | fixed
  /-- a batch of `n` records of a MODE 1 node -/
  | batch (n : Nat)
  /-- saved workgroups: one, or the four of a cluster-mode group in rank order -/
  | saved (ids : List Nat)
  deriving DecidableEq, Repr

/-- An entry of the ready pools (21 R324, R327). -/
structure Entry where
  launch : Nat
  node : Nat
  job : Job
  /-- die of a saved entry -/
  die : Nat
  level : Nat
  /-- TIME at which it reached its level; none while it waits at the driver because the pool is full -/
  since : Option W64
  stamp : W64
  deriving DecidableEq, Repr

/-- A variant of a kernel as it was placed (05 R119). -/
structure Variant where
  sig : Nat
  mask : Nat
  length : Nat
  base : W64
  deriving DecidableEq, Repr

/-- A kernel of a loaded object (05 R118); `shape` holds everything but the base and the length, which the variant gives. -/
structure ObjKernel where
  shape : Kernel
  variants : List Variant
  deriving DecidableEq, Repr

/-- A loaded object (21 R313). -/
structure Obj where
  mailbox : Nat
  tenant : Nat
  asid : Nat
  kernels : List ObjKernel
  regions : List Nat
  /-- pages whose leaves the driver set for it -/
  pages : List Nat
  deriving DecidableEq, Repr

/-- A call that a doorbell write named (21 R312, R313): the address of its record, whether that lies in host memory, the stamp, and TIME at the stamp (23 R343). -/
structure Call where
  addr : W64
  host : Bool
  stamp : W64
  time : W64
  deriving DecidableEq, Repr

/-- A mailbox's binding (21 R312). -/
structure Binding where
  tenant : Nat
  asid : Nat
  domain : BitVec 8
  deriving DecidableEq, Repr

/-- A launch mailbox (21 R312). -/
structure Mailbox where
  bound : Option Binding
  accepted : W64
  calls : List Call
  /-- FREE calls taken whose slot a launch still uses: slot and STATADDR (21 R313) -/
  frees : List (Nat × W64)
  deriving DecidableEq, Repr

/-- A mailbox that nothing has bound. -/
def Mailbox.empty : Mailbox := ⟨none, 0, [], []⟩

/-- A live default region (15 R238). -/
structure Region where
  asid : Nat
  base : W64
  pages : Nat
  default : W64
  logw : BitVec 2
  skip : Bool
  check : Bool
  domain : BitVec 8
  reserve : Nat
  /-- reserve frames not holding backing, by die (15 R238 FREE, R240) -/
  free : SMap (List Nat)
  deriving DecidableEq, Repr

/-- A backed page of a default region (15 R242): its frame's physical address and the differs bit of each sector; `bad` when those bits cannot be corrected (15 R246). -/
structure Backed where
  frame : Nat
  differs : BitVec 2048
  bad : Bool
  deriving DecidableEq, Repr

/-- Tag of a sector of a checked global page (11 R212): writer workgroup by launch, node, rank, its epoch, and the bytes. -/
structure GlobalTag where
  launch : Nat
  node : Nat
  rank : Nat
  epoch : Nat
  atomic : Bool
  mask : W32
  deriving DecidableEq, Repr

/-- A trace packet as it is queued (23 R351 to R354): the die clock of its event, TIME and the frequency step there, its type, its type-specific header bits, its tag and its payload. -/
structure Packet where
  clock : W64
  time : W64
  freq : Nat
  /-- frequency changes before it -/
  step : Nat
  type : Nat
  bits : Nat
  tag : Option (BitVec 16)
  payload : List Byte
  deriving DecidableEq, Repr

/-- A frame that the collector is filling: its unit's address, the bytes written, the time of the last packet, the frequency step (23 R353), and the pair of its FRAME packet (23 R363). -/
structure Frame where
  addr : Nat
  pos : Nat
  clock : W64
  freq : Nat
  step : Nat
  clock0 : W64
  time0 : W64
  deriving DecidableEq, Repr

/-- A die's trace buffer and collector (23 R349 to R358). -/
structure TraceBuf where
  /-- physical address of the descriptor -/
  desc : Nat
  en : Bool
  base : Nat
  nunits : Nat
  smplog : Nat
  holder : Nat
  stop : Bool
  wr : Nat
  frame : Option Frame
  queue : List Packet
  dropped : Nat
  deriving DecidableEq, Repr

def TraceBuf.off : TraceBuf := ⟨0, false, 0, 0, 0, 0, false, 0, none, [], 0⟩

/-- A die's edge buffer and its Umber edge writer (23 R349, R361, R362, 19 R307). -/
structure EdgeBuf where
  desc : Nat
  en : Bool
  base : Nat
  nunits : Nat
  holder : Nat
  wr : Nat
  /-- serials given so far -/
  serials : Nat
  /-- edges dropped since the last LOSS: first and last id, count, clocks of the first and the last drop -/
  dropFirst : W64
  dropLast : W64
  dropped : Nat
  dropClock1 : W64
  dropClock2 : W64
  /-- latest pair not yet written: clock, TIME, frequency step -/
  pair : Option (W64 × W64 × Nat)
  deriving DecidableEq, Repr

def EdgeBuf.off : EdgeBuf := ⟨0, false, 0, 0, 0, 0, 0, 0, 0, 0, 0, 0, none⟩

/-- Device-wide security states (25 R382); TENANT_DEBUG is held for each binding beside them. -/
inductive Security where
  | locked | vendorDebug | opened
  deriving DecidableEq, Repr

/-- Power states (25 R376, R384). -/
inductive Power where
  | active | idle | deep | off
  deriving DecidableEq, Repr

/-- How far boot has come (25 R380). -/
inductive Boot where
  | pending | done | stopped
  deriving DecidableEq, Repr

/-- Replies to SPDM requests (25 R381). -/
inductive SpdmReply where
  /-- VERSION: SPDM 1.3 -/
  | version
  /-- CAPABILITIES: digests, certificate, challenge, measurements; no session, no key exchange -/
  | capabilities
  /-- ALGORITHMS: SLH-DSA-SHAKE-256s and SHAKE256, through the extended fields -/
  | algorithms
  | digests (d : Nat)
  | certificate (portion : List Byte)
  /-- CHALLENGE_AUTH: the requester's nonce and the signature -/
  | challengeAuth (nonce sig : Nat)
  /-- measurement blocks 0 to 15, block 16 with one byte for each tenant binding, the requester's nonce, the signature -/
  | measurements (blocks : List (BitVec 512)) (states : List Byte) (nonce sig : Nat)
  /-- a request out of the order of SPDM -/
  | unexpected
  deriving DecidableEq, Repr

/-- What the device sends to the world outside, beside the records it writes into memory. -/
inductive HostMsg where
  /-- data of a BAR2 read or of an AtomicOp, with the offsets of poisoned bytes (11 R216) -/
  | data (bytes : List Byte) (bad : List Nat)
  | spdm (t : Transport) (r : SpdmReply)
  /-- an accounting snapshot: its body of 96 bytes and its signature (25 R387) -/
  | snapshot (body : List Byte) (sig : Nat)
  deriving DecidableEq, Repr

end Sys2Proof.Machine
end

