-- ==== Sys2Proof/Machine/State.lean ====
section
/-! DEFINITION. The state of the machine: everything the spec gives the device, as plain data, and the state right after reset. -/

namespace Sys2Proof.Machine

/-- Why the machine stops. -/
inductive Fault where
  /-- An access, a table walk or a frame at a physical address beyond the 256 GiB of device memory (00 R8), to which the spec gives no effect. Raised by `Sys2Proof.Machine.devByteOk`'s users. Safe: no run goes on from it. -/
  | physicalAddress (pa : Nat)
  deriving DecidableEq, Repr

/-- Why an instruction has no meaning. -/
inductive Refusal where
  /-- The instruction has no meaning in this model yet; answered by an arm of `Sys2Proof.Machine.exec` alone. Safe: no run goes on from it. -/
  | notModelled (mnemonic : String)
  deriving DecidableEq, Repr

/-- The split whose word issues: core, gang, index of the split, and the plane of the issue; no plane for an anchored word, which issues once for every plane (01 R34). -/
structure Cur where
  core : Nat
  gang : Nat
  split : Nat
  plane : Option Nat
  /-- the word that issues -/
  word : W32
  deriving DecidableEq, Repr

/-- What the next step does, when the schedule says (log 2). -/
inductive Act where
  /-- quadrant `quad` of core `core` issues -/
  | issue (core quad : Nat)
  /-- a step of another agent -/
  | event (i : Instr)
  /-- clocks pass -/
  | clocks (n : Nat)
  /-- what the driver lacks from now on: the field `lacks` -/
  | lacks (n : Option Nat)
  /-- the host stores a byte in its own memory: at once, or between two lanes of the next atomic on that memory, before the lane named (11 R198) -/
  | host (lane : Option Nat) (pa : Nat) (byte : Byte)
  /-- the driver ends the services of a saved context, with table entries that it sets for them (23 R344) -/
  | served (saved : Nat) (leaves : Leaves)
  deriving DecidableEq, Repr

/-- The machine. -/
structure State where
  /-- acts still to come, first to last; with none the default schedule decides (log 2) -/
  agenda : List Act
  /-- the quadrant the default schedule looks at first -/
  turn : Nat
  /-- the issue under way -/
  cur : Option Cur
  /-- serial number of the next free choice (log 16) -/
  free : Nat
  /-- cores by number, 104 × die + core -/
  cores : SMap Core
  /-- die clocks (00 R5, 21 R339) -/
  clock : SMap W64
  /-- device memory by physical address; a byte that nothing has written reads 0 (log 4) -/
  mem : SMap Byte
  poison : SMap Bool
  /-- host memory that pages with TGT = 1 and the driver reach (11 R189, R220) -/
  hmem : SMap Byte
  /-- corrected soft errors (11 R216) -/
  corrected : Nat
  /-- race tags of checked global sectors by physical sector (11 R212) -/
  gTags : SMap (Option GlobalTag)
  /-- releases that atomic values in device memory carry (11 R209): at the value's first byte, its width and the releases -/
  gRel : SMap (Nat × List RelInfo)
  /-- writes so far, each lane's and each part's of a divided access counted apart (11 R194) -/
  writes : Nat
  /-- the writes of each byte that a load in a race may see (11 R203), newest first: device memory at its address, a byte of an unbacked page of a default region at 2^40 + 65536 × (2^32 × region + page) + its offset, host memory at 2^90 + its address, scratchpads at 2^100 + 2^20 × core + offset -/
  past : SMap (List Past)
  /-- the agent in whose name writes are performed, where it is not the gang whose issue is under way (11 R203; log 107) -/
  hand : Option Nat
  /-- what the scheduler knows from the workgroups that have ended (11 R202; log 107) -/
  ended : Know
  /-- stores of the host that fall before a lane of the next atomic on host memory: lane, address, byte (11 R198) -/
  between : List (Nat × Nat × Byte)
  /-- physical address of the level-0 table of each address space (21 R318) -/
  roots : SMap (Option Nat)
  /-- level-4 leaves the resident driver keeps, at key 2^41 × space + page (11 R189, log 7) -/
  leaves : SMap (Option W64)
  /-- translations held by the TLBs of each cluster (11 R191, log 6) -/
  tlb : SMap (List TlbEnt)
  /-- contexts of pre-empted workgroups, by serial number (21 R332) -/
  saved : SMap (Option Saved)
  /-- default regions by index (15 R238) -/
  regions : SMap (Option Region)
  /-- backed pages at key 2^32 × region + page of the region (15 R242) -/
  backed : SMap (Option Backed)
  /-- free backing frames of each die (15 R240) -/
  pool : SMap (List Nat)
  /-- disabled clusters, as 26 × die + cluster (00 R7, log 15) -/
  defects : List Nat
  /-- DEVID, 20 bits (21 R339, log 15) -/
  devid : Nat
  /-- lab fuse intact (25 R382, log 15) -/
  fuse : Bool
  /-- SYSCTL (25 R376): CAPW, PREQ, PSTATE, FSTEP, CAPSTEP -/
  capw : Nat
  preq : Power
  pstate : Power
  fstep : Nat
  capstep : Nat
  /-- thermal step (25 R385) -/
  thermal : Nat
  /-- the pair that converts die 0's clock to TIME: clock, TIME (23 R363, log 15) -/
  timeBase : W64 × W64
  /-- TIME is unsynchronised, and TIME at which the device joined its fabric domain (25 R379) -/
  unsync : Bool
  joined : W64
  /-- nanoseconds by which TIME is still to be slewed, and the TIME of the last nanosecond of slew (25 R379) -/
  slew : Int
  slewAt : W64
  /-- changes of the frequency so far (23 R353) -/
  steps : Nat
  /-- milliseconds of TIME for which FREQ_UPDATE, TIME_SYNC and PAGE_SECONDS_TICK have been performed (25 R385, R379, 15 R252) -/
  msFreq : Nat
  msSync : Nat
  msPage : Nat
  traces : SMap TraceBuf
  edges : SMap EdgeBuf
  boot : Boot
  /-- measurement registers M0 to M15 (25 R380) -/
  meas : SMap (BitVec 512)
  security : Security
  /-- a VENDOR_DEBUG token waits for its reset; serial of the device's nonce (25 R382) -/
  armed : Bool
  nonce : Nat
  /-- expiry of TENANT_DEBUG for a mailbox's binding (25 R382) -/
  tenantDebug : SMap (Option W64)
  /-- launch mailboxes (21 R312) -/
  mail : SMap Mailbox
  /-- object slots 0 to 255 (21 R313) -/
  objs : SMap (Option Obj)
  /-- the lowest node of a launch for which the driver has no context area or no queue memory (21 R314, log 80) -/
  lacks : Option Nat
  /-- MSI-X signals sent to the host, by mailbox vector, oldest first (21 R319, 25 R375) -/
  msix : List Nat
  /-- accounting counters (23 R372): counter `i` of domain `d` at key 16d + i -/
  acct : SMap Nat
  /-- modelled energy of each domain, in tenths of a pJ (25 R386) -/
  energy : SMap Nat
  /-- domains that have caused traffic in DRAM, or between dies, since their counters were last read (log 20) -/
  traffic : SMap Bool
  /-- launches by serial number, and the next serial numbers of launches and of saved contexts -/
  launches : SMap (Option Launch)
  nextLaunch : Nat
  nextSaved : Nat
  /-- ageing times AGE[0] to AGE[5] in µs (21 R327) -/
  age : SMap Nat
  /-- ready work, in the order in which it became ready (21 R324) -/
  ready : List Entry
  /-- Borenmin ports up, failed ports reported to the driver, routes by device identifier (port + 1), packets sent (25 R377) -/
  ports : BitVec 16
  portFaults : List Nat
  routes : SMap Nat
  sent : List (Nat × FabPacket)
  /-- packets that have arrived with a write that found no backing, oldest first, with the pages, by region and page, that found none: the driver has been notified (15 R249) -/
  fabWaits : List (FabPacket × List (Nat × Nat))
  /-- addresses of default pages whose differs bits cannot be corrected that packets of the fabric have reached: INTEGRITY for the driver (11 R216, 15 R246) -/
  reports : List W64
  /-- RoCEv2 packets sent: Ethernet port (0 and 1), bytes, offsets of poisoned bytes (25 R378) -/
  roce : List (Nat × List Byte × List Nat)
  /-- messages of Borenmin and Ethernet ports for the driver: port (16 and 17 for Ethernet), bytes, offsets of poisoned bytes (25 R377, R378) -/
  inbox : List (Nat × List Byte × List Nat)
  /-- messages to the host and to the management port -/
  hostOut : List HostMsg
  /-- how far SPDM has been negotiated on DOE and on the management port: 0, 1 version, 2 capabilities, 3 algorithms -/
  spdm : SMap Nat
  /-- accounting snapshots served (25 R387) -/
  snapSeq : Nat
  deriving DecidableEq, Repr

/-- The canonical form of a memory: addresses strictly rising, no entry equal to what an unlisted address reads as (log 4). -/
def Memory.wf (m : SMap Byte) : Bool := SMap.wf 0 m

/-- The machine right after reset: no workgroup runs, nothing is loaded, memory lists nothing. -/
def State.reset : State :=
  { agenda := [], turn := 0, cur := none, free := 0, cores := [], clock := [], mem := [], poison := [], hmem := [],
    corrected := 0, gTags := [], gRel := [], writes := 0, past := [], hand := none, ended := [], between := [], roots := [], leaves := [], tlb := [], saved := [], regions := [], backed := [], pool := [],
    defects := [24, 25, 50, 51, 76, 77, 102, 103], devid := 0, fuse := false, capw := 2200, preq := .active, pstate := .active,
    fstep := 30, capstep := 30, thermal := 30,
    timeBase := (0, 0), unsync := true, joined := 0, slew := 0, slewAt := 0, steps := 0, msFreq := 0, msSync := 0, msPage := 0, traces := [], edges := [],
    boot := .pending, meas := [], security := .locked, armed := false, nonce := 0, tenantDebug := [],
    mail := [(63, ⟨some ⟨0xFFFF, 0, 0⟩, 0, [], []⟩)], objs := [], lacks := none, msix := [], acct := [], energy := [], traffic := [], launches := [],
    nextLaunch := 0, nextSaved := 0, age := [], ready := [], ports := BitVec.allOnes 16, portFaults := [], routes := [], sent := [],
    fabWaits := [], reports := [], roce := [],
    inbox := [], hostOut := [], spdm := [], snapSeq := 0 }

end Sys2Proof.Machine
end

