-- ==== Sys2Proof/Machine/Access.lean ====
section
/-! DEFINITION. Reading and writing the parts of the state: cores, workgroups, gangs, registers, lanes, slices and the region stack. -/

namespace Sys2Proof.Machine

/-! ### Cores, workgroups, gangs -/

def State.coreAt (s : State) (c : Nat) : Core := SMap.get Core.empty s.cores c

def State.setCore (s : State) (c : Nat) (k : Core) : State := { s with cores := SMap.set Core.empty s.cores c k }

/-- The workgroup on a core, or one that holds nothing. -/
def State.wgAt (s : State) (c : Nat) : Workgroup := (s.coreAt c).wg.getD Workgroup.empty

def State.setWg (s : State) (c : Nat) (w : Workgroup) : State := s.setCore c { s.coreAt c with wg := some w }

def State.gangAt (s : State) (c g : Nat) : Gang := SMap.get Gang.empty (s.wgAt c).gangs g

def State.setGang (s : State) (c g : Nat) (x : Gang) : State :=
  s.setWg c { s.wgAt c with gangs := SMap.set Gang.empty (s.wgAt c).gangs g x }

/-- Change one gang. -/
def State.updGang (s : State) (c g : Nat) (f : Gang → Gang) : State := s.setGang c g (f (s.gangAt c g))

/-- Change the workgroup of a core. -/
def State.updWg (s : State) (c : Nat) (f : Workgroup → Workgroup) : State := s.setWg c (f (s.wgAt c))

/-- Gangs of a workgroup (01 R13). -/
def Kernel.gangs (k : Kernel) : Nat := k.ncopy + k.nmat + k.nvec

/-- Change every gang of a workgroup. -/
def Workgroup.mapGangs (w : Workgroup) (f : Nat → Gang → Gang) : Workgroup :=
  { w with gangs := SMap.mapV Gang.empty f w.gangs }

/-- The die of a core (11 R185). -/
def dieOf (core : Nat) : Nat := core / Config.coresPerDie

/-- The clock of a core's die. -/
def State.clockAt (s : State) (core : Nat) : W64 := SMap.get 0 s.clock (dieOf core)

/-- Cores that hold a workgroup of the same launch and node, and in cluster mode of the same group (11 R187, 21 R340). -/
def State.members (s : State) (core : Nat) : List Nat :=
  let w := s.wgAt core
  if w.cluster then
    (s.cores.filter (fun e => match e.2.wg with
      | some x => x.launch == w.launch && x.node == w.node && x.group == w.group
      | none => false)).map (fun e => e.1)
  else [core]

/-! ### Registers -/

/-- s0 reads 0 (01 R15). -/
def Gang.sreg (g : Gang) (n : Nat) : W64 := if n = 0 then 0 else SMap.get 0 g.s n

/-- A write to s0 is ignored (01 R15). -/
def Gang.setS (g : Gang) (n : Nat) (x : W64) : Gang := if n = 0 then g else { g with s := SMap.set 0 g.s n x }

/-- p0 reads all ones (01 R15). -/
def Gang.preg (g : Gang) (n : Nat) : W32 := if n = 0 then BitVec.allOnes 32 else SMap.get 0 g.p n

/-- A write to p0 is ignored (01 R15); only the lanes of the mask change. -/
def Gang.setP (g : Gang) (n : Nat) (mask bits : W32) : Gang :=
  if n = 0 then g else { g with p := SMap.set 0 g.p n ((SMap.get 0 g.p n &&& ~~~mask) ||| (bits &&& mask)) }

/-- What a register's lane that nothing has written holds: a base register 0, B32 (01 R15), an extended one INVALID (01 R28). -/
def cellDefault (r : Nat) : VCell := if r < 64 then VCell.zero else VCell.fresh

/-- Lane `l` of register `r` as it is stored. -/
def Gang.raw (g : Gang) (r l : Nat) : VCell := SMap.get (cellDefault r) g.v (32 * r + l)

def Gang.setCell (g : Gang) (r l : Nat) (x : VCell) : Gang := { g with v := SMap.set (cellDefault r) g.v (32 * r + l) x }

/-- The bits that an instruction leaves under a tag (03 R58): bits 7:6 of every byte of L6X4 are written as zeros, also where the source's bits are copied (09 R171; log 73). -/
def Tag.clean (t : Tag) (x : W32) : W32 := if t = .l6x4 then x &&& 0x3F3F3F3F#32 else x

/-- A lane's value as instructions read it: bits 7:6 of every byte of L6X4 are ignored, which here is that they read as zeros (03 R58; log 73). -/
def VCell.clean (x : VCell) : VCell := { x with bits := x.tag.clean x.bits }

/-- Lane `l` of register `r` as an instruction reads it. -/
def Gang.cell (g : Gang) (r l : Nat) : VCell := (g.raw r l).clean

/-- Write bits and tag of lane `l` of register `r`. -/
def Gang.setV (g : Gang) (r l : Nat) (bits : W32) (tag : Tag) : Gang := g.setCell r l ⟨tag.clean bits, tag, false⟩

/-- Write one register in several lanes. -/
def Gang.setVs (g : Gang) (r : Nat) (tag : Tag) (vals : List (Nat × W32)) : Gang :=
  vals.foldl (fun g x => g.setV r x.1 x.2 tag) g

/-- The plane register of a lane (01 R30). -/
def Gang.planeOf (g : Gang) (l : Nat) : Nat := (SMap.get 0 g.plane l).toNat

/-- The lanes of a mask that are in plane `n`. -/
def Gang.inPlane (g : Gang) (m : W32) (n : Nat) : W32 := maskOf ((lanesOf m).filter (fun l => g.planeOf l == n))

/-- Planes 0 to 3 that hold a lane of the mask (01 R32). -/
def Gang.occupied (g : Gang) (m : W32) : List Nat := (List.range 4).filter (fun n => g.inPlane m n != 0)

def Gang.latch (g : Gang) (n i l : Nat) : Option Latch := SMap.get none g.x (32 * (4 * n + i) + l)

/-- Lanes of a gang (01 R14). -/
def Kernel.lanes (k : Kernel) : W32 := BitVec.ofNat 32 (2 ^ (4 * k.slices) - 1)

/-- Byte `i` of a word, little-endian. -/
def byteOf (x : Nat) (i : Nat) : Byte := BitVec.ofNat 8 (x / 2 ^ (8 * i))

/-- The bytes of a number, lowest first. -/
def leBytes (n x : Nat) : List Byte := (List.range n).map (byteOf x)

/-! ### Slices -/

/-- Slices of a split, ascending. -/
def slicesOf (m : BitVec 8) : List Nat := (List.range 8).filter (fun j => m.getLsbD j)

def sliceSet (js : List Nat) : BitVec 8 := js.foldl (fun m j => m ||| BitVec.ofNat 8 (2 ^ j)) 0

def lanesOfSlices (js : List Nat) : W32 := js.foldl (fun m j => m ||| sliceMask j) 0

/-! ### Accounting (23 R372, 25 R386) -/

/-- Add to a counter of a domain. -/
def State.charge (s : State) (domain : BitVec 8) (i n : Nat) : State :=
  let k := 16 * domain.toNat + i
  { s with acct := SMap.set 0 s.acct k (SMap.get 0 s.acct k + n) }

/-- Add modelled energy to a domain, in tenths of a pJ. -/
def State.spend (s : State) (domain : BitVec 8) (n : Nat) : State :=
  { s with energy := SMap.set 0 s.energy domain.toNat (SMap.get 0 s.energy domain.toNat + n) }

/-- A domain causes traffic. -/
def State.markTraffic (s : State) (domain : BitVec 8) : State := { s with traffic := SMap.set false s.traffic domain.toNat true }

/-! ### The region stack -/

/-- RTOP (07 R143). -/
def Gang.rtop (g : Gang) : W64 :=
  let e := fun k => ((g.regions[k]?).getD 0).toNat
  BitVec.ofNat 64 (g.regions.length * 2 ^ 48 + e 2 * 2 ^ 32 + e 1 * 2 ^ 16 + e 0)

/-- The TOP field of RTOP. -/
def Gang.top (g : Gang) : BitVec 16 := (g.regions[0]?).getD 0

end Sys2Proof.Machine
end

