-- ==== Sys2Proof/Machine/Packet.lean ====
section
/-! DEFINITION. Device TIME (23 R363) and trace packets (23 R351 to R358): what a gang emits and how it is queued. -/

namespace Sys2Proof.Machine

/-- Device TIME: the clock of die 0 against its pair (23 R363). -/
def State.time (s : State) : W64 :=
  s.timeBase.2 + BitVec.ofNat 64 ((SMap.get 0 s.clock 0 - s.timeBase.1).toNat * 40 / (3 * s.fstep))

/-- The TIME at a clock of any die: dies run at one frequency (25 R385). -/
def State.timeAt (s : State) (die : Nat) (c : W64) : W64 :=
  s.time - BitVec.ofNat 64 ((SMap.get 0 s.clock die - c).toNat * 40 / (3 * s.fstep))

/-! ### Trace packets -/

/-- SRC (23 R355) of a split. -/
def srcOf (core gang : Nat) (sp : Split) : Nat :=
  core % Config.coresPerDie * 2 ^ 9 + gang * 2 ^ 5 + (slicesOf sp.slices).headD 0 % 8 * 2 ^ 2 + sp.path.getD 0 % 2 * 2 +
    (if sp.path.isSome then 1 else 0)

/-- TOP3 (23 R346). -/
def Gang.top3 (g : Gang) : List Byte := leBytes 6 g.rtop.toNat

/-- PLANES: the plane of every lane of the gang (23 R355). -/
def Gang.planesField (g : Gang) (lanes : Nat) : List Byte :=
  leBytes 8 ((List.range lanes).foldl (fun n l => n + g.planeOf l * 2 ^ (2 * l)) 0)

/-- STATE of slice `j` (23 R355). -/
def Gang.sliceState (g : Gang) (j : Nat) : List Byte :=
  let here := g.splits.filter (fun sp => sp.slices.getLsbD j)
  let p0 := (here.find? (fun sp => sp.path.getD 0 == 0))
  let p1 := (here.find? (fun sp => sp.path == some 1))
  let act := fun (o : Option Split) => match o with
    | some sp => bitsAt sp.lanes.toNat (4 * j) 4
    | none => 0
  let divided := here.any (fun sp => sp.path.isSome)
  let low := match here with
    | sp :: _ => (slicesOf sp.slices).headD j
    | [] => j
  leBytes 12 ((match p0 with
      | some sp => sp.pc
      | none => 0) + (match p1 with
      | some sp => sp.pc
      | none => 0) * 2 ^ 32 + act p0 * 2 ^ 64 + act p1 * 2 ^ 68 + bitsAt g.exited.toNat (4 * j) 4 * 2 ^ 72 +
    (if divided then 2 ^ 76 else 0) + (SMap.get [] g.dp j).length * 2 ^ 77 + low * 2 ^ 82)

/-- A packet of an event now, on a die. -/
def State.packetNow (s : State) (die type bits : Nat) (tag : Option (BitVec 16)) (payload : List Byte) : Packet :=
  let c := SMap.get 0 s.clock die
  { clock := c, time := s.timeAt die c, freq := s.fstep, step := s.steps, type := type, bits := bits, tag := tag, payload := payload }

/-- Put a packet into the collector's queue, or drop and count it when 64 are queued (23 R358). -/
def pushPacket (die : Nat) (p : Packet) (s : State) : State :=
  let b := SMap.get TraceBuf.off s.traces die
  let b := if b.queue.length < 64 then { b with queue := b.queue ++ [p] } else { b with dropped := b.dropped + 1 }
  { s with traces := SMap.set TraceBuf.off s.traces die b }

/-- The SYNC packet of a gang, as it stands (23 R354); the collector converts its TIME by its frame's pair. -/
def syncPacket (s : State) (core gang src : Nat) : Packet :=
  let g := s.gangAt core gang
  let k := (s.wgAt core).kernel
  let c := s.clockAt core
  { clock := c, time := s.timeAt (dieOf core) c, freq := s.fstep, step := s.steps, type := 2, bits := k.slices - 1, tag := none,
    payload := leBytes 2 src ++ leBytes 8 c.toNat ++ leBytes 8 (s.timeAt (dieOf core) c).toNat ++ g.top3 ++
      (List.range k.slices).flatMap g.sliceState ++ g.planesField (4 * k.slices) }

/-- Emit a packet of class `cls` for a gang, when its enables select the class, after the SYNC that is due (23 R356, R357). -/
def emitPacket (core gang cls type bits src : Nat) (tag : Option (BitVec 16)) (payload : List Byte) (s : State) : State :=
  let g := s.gangAt core gang
  if !g.traceEn.getLsbD cls then s
  else
    let due := g.syncDue || decide (256 ≤ g.sinceSync)
    let s := if due then pushPacket (dieOf core) (syncPacket s core gang src) s else s
    let s := pushPacket (dieOf core) (s.packetNow (dieOf core) type bits tag payload) s
    s.updGang core gang (fun g => { g with syncDue := false, sinceSync := if due then 1 else g.sinceSync + 1 })

end Sys2Proof.Machine
end

