-- ==== Sys2Proof/Machine/Xlate.lean ====
section
/-! DEFINITION. Generic addresses (11 R183 to R187), pages and translation (11 R188 to R192), the TLBs (11 R191), the bytes behind an address, and instruction fetch (05 R85, 11 R207). -/

namespace Sys2Proof.Machine

/-! ### Address spaces -/

/-- The space of a generic address (11 R183). -/
inductive Space where
  | global (va : Nat)
  | localPad (off : Nat)
  | clusterPad (rank off : Nat)
  | phys (core win off : Nat)
  | none
  deriving DecidableEq, Repr

/-- Decode a generic address; a field that must be zero and is not leaves no space (11 R183, R185). -/
def spaceOf (a : W64) : Space :=
  let x := a.toNat
  let top := x / 2 ^ 56
  if top < 2 then .global x
  else if top = 0xFE then
    if bitsAt x 20 36 = 0 then .localPad (bitsAt x 0 20) else .none
  else if top = 0xFD then
    if bitsAt x 22 34 = 0 then .clusterPad (bitsAt x 20 2) (bitsAt x 0 20) else .none
  else if top = 0xF8 then
    if bitsAt x 32 24 = 0 ∧ bitsAt x 23 7 < Config.coresPerDie then
      .phys (bitsAt x 30 2 * Config.coresPerDie + bitsAt x 23 7) (bitsAt x 20 3) (bitsAt x 0 20)
    else .none
  else .none

/-- Size of a window of the on-chip physical map; a reserved window has none (11 R185). -/
def windowSize : Nat → Nat
  | 0 => 786432
  | 1 => 131072
  | 2 => 196608
  | 3 => 49152
  | _ => 0

/-- The core whose scratchpad a rank of the issuer's cluster node names (11 R184). -/
def State.rankCore (s : State) (core rank : Nat) : Option Nat :=
  let w := s.wgAt core
  if w.cluster then (s.members core).find? (fun c => (s.wgAt c).clrank == rank)
  else if rank = 0 then some core else none

/-- Whether a core's cluster is enabled: neither of its die's two disabled clusters (00 R7). -/
def State.enabledCore (s : State) (core : Nat) : Bool :=
  !(s.defects.contains (core / Config.coresPerDie * 26 + core % Config.coresPerDie / 4))

/-- The address-space check of one byte for a workgroup (11 R183 to R185): whether it is permitted. -/
def spaceOk (s : State) (core : Nat) (a : W64) : Bool :=
  match spaceOf a with
  | .global _ => true
  | .localPad off => decide (off < (s.wgAt core).kernel.scratch)
  | .clusterPad r off =>
    match s.rankCore core r with
    | some c => decide (off < (s.wgAt c).kernel.scratch)
    | none => false
  | .phys c win off => (s.wgAt core).priv && s.enabledCore c && decide (off < windowSize win)
  | .none => false

/-! ### Table entries (11 R189) -/

def entV (e : W64) : Bool := e.getLsbD 0
def entLeaf (e : W64) : Bool := e.getLsbD 1
def entR (e : W64) : Bool := e.getLsbD 4
def entW (e : W64) : Bool := e.getLsbD 5
def entX (e : W64) : Bool := e.getLsbD 6
def entPriv (e : W64) : Bool := e.getLsbD 7
def entChk (e : W64) : Bool := e.getLsbD 8
def entDef (e : W64) : Bool := e.getLsbD 9
def entTgt (e : W64) : Bool := e.getLsbD 10
def entFrame (e : W64) : Nat := bitsAt e.toNat 16 36 * 65536
def entRegion (e : W64) : Nat := bitsAt e.toNat 52 12

/-- A table entry from its fields: region, frame, DEF, TGT, CHK, PRIV, X, W, R, LEAF, V (11 R189). -/
def mkEntry (region frame : Nat) (def_ tgt chk priv x w r leaf v : Bool) : W64 :=
  BitVec.ofNat 64 (region * 2 ^ 52 + frame / 65536 % 2 ^ 36 * 2 ^ 16 + tgt.toNat * 2 ^ 10 + def_.toNat * 2 ^ 9 + chk.toNat * 2 ^ 8 +
    priv.toNat * 2 ^ 7 + x.toNat * 2 ^ 6 + w.toNat * 2 ^ 5 + r.toNat * 2 ^ 4 + leaf.toNat * 2 + v.toNat)

/-- A leaf met by a walk: the entry, and the 64 KiB pages it covers. -/
structure LeafAt where
  entry : W64
  page : Nat
  pages : Nat
  deriving DecidableEq, Repr

/-- How a walk ends (11 R189). -/
inductive Walk where
  | leaf (l : LeafAt)
  | translation
  /-- PROTECTION from a malformed entry -/
  | malformed
  /-- INTEGRITY: the entry read is poisoned (11 R216) -/
  | poisoned
  /-- a table lies beyond device memory -/
  | beyond (pa : Nat)
  deriving DecidableEq, Repr

/-- Reserved fields of an entry, and REGION where DEF is 0 (11 R189). -/
def entReserved (e : W64) : Bool :=
  bitsAt e.toNat 11 5 != 0 || bitsAt e.toNat 2 2 != 0 || (!entDef e && entRegion e != 0)

/-- Check a leaf that covers `pages` pages of 64 KiB (11 R189, R190, 15 R237). -/
def checkLeaf (e : W64) (page pages : Nat) : Walk :=
  if !entV e && !(entDef e && pages == 1) then .translation
  else if entReserved e || (entDef e && pages != 1) || (entDef e && entTgt e) || decide (entFrame e % (pages * 65536) ≠ 0) then .malformed
  else .leaf ⟨e, page - page % pages, pages⟩

/-- Eight bytes of device memory, little-endian (00 R3). -/
def State.dev64 (s : State) (pa : Nat) : W64 :=
  BitVec.ofNat 64 ((List.range 8).foldl (fun a i => a + (SMap.get 0 s.mem (pa + i)).toNat * 2 ^ (8 * i)) 0)

/-- The levels of the table below the one indexed first: the lowest bit of the index in the page number, its width, whether an entry may be a leaf (11 R188). -/
def levels : List (Nat × Nat × Bool) := [(32, 9, false), (23, 9, false), (14, 9, true), (5, 9, true), (0, 5, true)]

/-- Walk the table at `table` for a 64 KiB page number (11 R188, R189). LEAF in an entry of level 0 or 1, and TGT, CHK, PRIV, X, W and R in an entry that is no leaf, change nothing: the spec calls neither malformed (DESIGN CHOICE, log 113). -/
def walkTable (s : State) (page : Nat) : Nat → List (Nat × Nat × Bool) → Walk
  | _, [] => .translation
  | table, (lo, n, mayLeaf) :: below =>
    let pa := table + 8 * bitsAt page lo n
    if Config.memBytes ≤ pa then .beyond pa
    else
      let e := s.dev64 pa
      if (List.range 8).any (fun i => SMap.get false s.poison (pa + i)) then .poisoned
      else if below = [] then checkLeaf e page 1
      else if !entV e then .translation
      else if mayLeaf && entLeaf e then checkLeaf e page (2 ^ lo)
      else if entReserved e || entDef e then .malformed
      else walkTable s page (entFrame e) below

/-- The live region that holds a page of an address space, with its index (15 R237). -/
def State.regionOf (s : State) (asid page : Nat) : Option (Nat × Region) :=
  s.regions.findSome? (fun e => match e.2 with
    | some r => if r.asid = asid ∧ r.base.toNat / 65536 ≤ page ∧ page < r.base.toNat / 65536 + r.pages then some (e.1, r) else none
    | none => none)

/-- Key of a page of a region among the backed pages. -/
def backKey (region index : Nat) : Nat := region * 2 ^ 32 + index

def State.backedAt (s : State) (region index : Nat) : Option Backed := SMap.get none s.backed (backKey region index)

/-- The leaf of a page of a default region (15 R237, R242): V while the page is backed. R and W are 1, as the worked program of the chapter has them; X and PRIV, of which the spec says nothing, are 0 (DESIGN CHOICE, log 89). -/
def State.regionLeaf (s : State) (idx : Nat) (r : Region) (page : Nat) : W64 :=
  match s.backedAt idx (page - r.base.toNat / 65536) with
  | some b => mkEntry idx b.frame true false r.check false false true true false true
  | none => mkEntry idx 0 true false r.check false false true true false false

/-- Key of a page of an address space among the leaves the driver keeps. -/
def leafKey (asid page : Nat) : Nat := asid * 2 ^ 41 + page

/-- A walk of the tables of an address space (11 R188 to R190): the leaves the driver keeps, the regions' leaves, the table in memory, and the identity map of the system space while it has none (21 R312). -/
def State.walk (s : State) (asid page : Nat) : Walk :=
  match SMap.get none s.leaves (leafKey asid page) with
  | some e => checkLeaf e page 1
  | none =>
    match s.regionOf asid page with
    | some (i, r) => checkLeaf (s.regionLeaf i r page) page 1
    | none =>
      match SMap.get none s.roots asid with
      | some root => walkTable s page root levels
      | none =>
        if asid = 0 ∧ page < Config.memBytes / 65536 then
          .leaf ⟨mkEntry 0 (page * 65536) false false false false true true true false true, page, 1⟩
        else .translation

/-- Byte `i` of a region's default pattern (15 R239). -/
def Region.pattern (r : Region) (i : Nat) : Byte := byteOf r.default.toNat (i % 2 ^ r.logw.toNat)

/-! ### TLBs (11 R191) -/

/-- The cluster of a core. -/
def clusterOf (core : Nat) : Nat := core / 4

/-- The entry of a cluster's TLBs that covers a page. -/
def State.tlbLookup (s : State) (core asid page : Nat) : Option TlbEnt :=
  (SMap.get [] s.tlb (clusterOf core)).find? (fun t => t.asid == asid && decide (t.page ≤ page ∧ page < t.page + t.pages))

/-- Translate a page: the walk, or a translation that a TLB still holds where the two differ and the free choice says so (log 6). A default page's V, FRAME and so on are changed by the keeper itself and need no TLBI (15 R242), and for a page of a region only the region's own leaf is used (15 R237). -/
def State.translate (s : State) (core asid page : Nat) : Walk :=
  let w := s.walk asid page
  match s.tlbLookup core asid page with
  | none => w
  | some t =>
    let cached := Walk.leaf ⟨t.entry, t.page, t.pages⟩
    if cached = w ∨ entDef t.entry ∨ (s.regionOf asid page).isSome then w
    else if Config.freeNat s.free % 2 = 0 then cached else w

/-- The TLBs hold the translation of a page after its use. -/
def State.tlbFill (s : State) (core asid page : Nat) : State :=
  match s.tlbLookup core asid page, s.walk asid page with
  | none, .leaf l =>
    let held := SMap.get [] s.tlb (clusterOf core)
    { s with tlb := SMap.set [] s.tlb (clusterOf core) (TlbEnt.mk asid l.page l.pages l.entry :: held) }
  | _, _ => s

/-! ### Places -/

/-- Where a byte lives. -/
inductive Place where
  /-- device memory -/
  | dev (pa : Nat)
  /-- host memory, through a page with TGT = 1 -/
  | host (pa : Nat)
  /-- a page of a default region: region, page of the region, offset in the page -/
  | page (region index off : Nat)
  /-- the scratchpad of a core -/
  | pad (core off : Nat)
  /-- another window of the on-chip physical map -/
  | chip (core win off : Nat)
  /-- beyond device memory -/
  | beyond (pa : Nat)
  /-- no place: the translation faults -/
  | none
  deriving DecidableEq, Repr

/-- The page of a default region in which a place lies: region and page. -/
def Place.pageOf : Place → Option (Nat × Nat)
  | .page i n _ => some (i, n)
  | _ => Option.none

/-- The place of virtual address `va` under a leaf. Under a DEF entry whose REGION is no live region of the address space there is none: a read gives 0 and a write does nothing, for the spec names no fault (DESIGN CHOICE, log 114). -/
def placeUnder (s : State) (l : LeafAt) (va asid : Nat) : Place :=
  if entDef l.entry then
    match SMap.get none s.regions (entRegion l.entry) with
    | some r => if r.asid = asid then .page (entRegion l.entry) (va / 65536 - r.base.toNat / 65536) (va % 65536) else .none
    | none => .none
  else
    let pa := entFrame l.entry + (va - l.page * 65536)
    if entTgt l.entry then .host pa
    else if pa < Config.memBytes then .dev pa else .beyond pa

/-- The place of a byte of a workgroup's generic address, its checks having passed. -/
def placeOf (s : State) (core : Nat) (a : W64) : Place :=
  match spaceOf a with
  | .global va =>
    match s.translate core (s.wgAt core).asid (va / 65536) with
    | .leaf l => placeUnder s l va (s.wgAt core).asid
    | .beyond pa => .beyond pa
    | _ => .none
  | .localPad off => .pad core off
  | .clusterPad r off =>
    match s.rankCore core r with
    | some c => .pad c off
    | none => .none
  | .phys c win off => if win = 0 then .pad c off else .chip c win off
  | .none => .none

/-! ### On-chip windows (11 R185) -/

/-- Block, register, lane of word `n` of window 2, or of byte `n` of window 3: quadrant, block, register in the block, lane. -/
def regSpot (n : Nat) : Nat × Nat × Nat × Nat := (n / 12288, n % 12288 / 2048, n % 2048 / 32, n % 32)

/-- The gang whose register block `b` of quadrant `q` is: base blocks 0 to 3 belong to gangs q, q + 4, q + 8, q + 12 (01 R13); blocks 4 and 5 to the gang that holds the extended block. -/
def State.blockGang (s : State) (core q b : Nat) : Option Nat :=
  match (s.coreAt core).wg with
  | none => none
  | some w =>
    let live := fun g => decide (g < w.kernel.ncopy + w.kernel.nmat + w.kernel.nvec) && !(SMap.get Gang.empty w.gangs g).done
    if b < 4 then if live (q + 4 * b) then some (q + 4 * b) else none
    else ((List.range 4).map (fun i => q + 4 * i)).find? (fun g =>
      live g && (SMap.get Gang.empty w.gangs g).ext == some (b - 4))

/-- A register's lane by its place in window 2 or 3. -/
def State.regAt (s : State) (core n : Nat) : VCell :=
  let (q, b, v, l) := regSpot n
  match s.blockGang core q b with
  | some g => (s.gangAt core g).raw (if b < 4 then v else v + 64) l
  | none => SMap.get VCell.zero (s.coreAt core).idle (32 * (64 * (6 * q + b) + v) + l)

def State.setRegAt (s : State) (core n : Nat) (x : VCell) : State :=
  let (q, b, v, l) := regSpot n
  match s.blockGang core q b with
  | some g => s.updGang core g (fun y => y.setCell (if b < 4 then v else v + 64) l x)
  | none =>
    s.setCore core { s.coreAt core with
      idle := SMap.set VCell.zero (s.coreAt core).idle (32 * (64 * (6 * q + b) + v) + l) x }

/-- Replace byte `i` of a 32-bit word. -/
def setByteOf (x : W32) (i : Nat) (b : Byte) : W32 :=
  (x &&& ~~~(0xFF#32 <<< (8 * i))) ||| (b.zeroExtend 32 <<< (8 * i))

/-- The code of a tag (03 R57). -/
def Tag.code : Tag → Nat
  | .b32 => 0 | .s32 => 1 | .n32 => 2 | .f32 => 3 | .f16x2 => 4 | .bf16x2 => 5 | .s16x2 => 6 | .n16x2 => 7
  | .s8x4 => 8 | .n8x4 => 9 | .l6x4 => 10 | .s64 => 11 | .n64 => 12 | .rsvD => 13 | .rsvE => 14 | .invalid => 15

/-- The tag of a code (03 R57). -/
def Tag.ofCode (n : Nat) : Tag :=
  match n % 16 with
  | 0 => .b32 | 1 => .s32 | 2 => .n32 | 3 => .f32 | 4 => .f16x2 | 5 => .bf16x2 | 6 => .s16x2 | 7 => .n16x2
  | 8 => .s8x4 | 9 => .n8x4 | 10 => .l6x4 | 11 => .s64 | 12 => .n64 | 13 => .rsvD | 14 => .rsvE | _ => .invalid

def State.chipByte (s : State) (core win off : Nat) : Byte :=
  match win with
  | 1 => byteOf (SMap.get 0 (s.coreAt core).store.acc (off / 4)).toNat (off % 4)
  | 2 => byteOf (s.regAt core (off / 4)).bits.toNat (off % 4)
  | _ => BitVec.ofNat 8 (s.regAt core off).tag.code

/-- Write a byte of a window: a privileged store puts any bits into a register and any code into a tag, the reserved ones too (DESIGN CHOICE, log 108). A store to the accumulator window is not ordered with the engine, which may lose it or keep it element by element (17 R265); the model keeps every element (DESIGN CHOICE, log 90). -/
def State.setChipByte (s : State) (core win off : Nat) (b : Byte) : State :=
  match win with
  | 1 =>
    let k := s.coreAt core
    s.setCore core { k with store := { k.store with
      acc := SMap.set 0 k.store.acc (off / 4) (setByteOf (SMap.get 0 k.store.acc (off / 4)) (off % 4) b) } }
  | 2 =>
    let x := s.regAt core (off / 4)
    s.setRegAt core (off / 4) { x with bits := setByteOf x.bits (off % 4) b }
  | _ =>
    let x := s.regAt core off
    s.setRegAt core off { x with tag := Tag.ofCode b.toNat }

/-! ### Bytes of places -/


/-- The byte at a place. -/
def State.byteAt (s : State) : Place → Byte
  | .dev pa => SMap.get 0 s.mem pa
  | .host pa => SMap.get 0 s.hmem pa
  | .page i n off =>
    match s.backedAt i n with
    | some b => SMap.get 0 s.mem (b.frame + off)
    | none =>
      match SMap.get none s.regions i with
      | some r => r.pattern off
      | none => 0
  | .pad c off => SMap.get 0 (s.coreAt c).store.scr off
  | .chip c win off => s.chipByte c win off
  | .beyond _ => 0
  | .none => 0

/-- Whether a place lies on a backed page whose differs bits cannot be corrected (15 R246). -/
def State.badPage (s : State) : Place → Bool
  | .page i n _ => (s.backedAt i n).elim false (fun b => b.bad)
  | _ => false

/-- Mark an element of a core's accumulator store as holding an error that could not be corrected, or as whole again (11 R216). -/
def State.setAccBad (s : State) (core key : Nat) (b : Bool) : State :=
  let k := s.coreAt core
  s.setCore core { k with store := { k.store with accBad := SMap.set false k.store.accBad key b } }

/-- Whether the data at a place is marked as poisoned (11 R216); host memory's marks stand at 2^90 + its address. -/
def State.marked (s : State) : Place → Bool
  | .dev pa => SMap.get false s.poison pa
  | .host pa => SMap.get false s.poison (2 ^ 90 + pa)
  | .page i n off =>
    match s.backedAt i n with
    | some b => SMap.get false s.poison (b.frame + off)
    | none => false
  | .pad c off => SMap.get false (s.coreAt c).store.poison off
  | .chip c 1 off => SMap.get false (s.coreAt c).store.accBad (off / 4)
  | .chip c 2 off => (s.regAt c (off / 4)).bad
  | .chip c 3 off => (s.regAt c off).bad
  | _ => false

/-- Whether a place holds poison, or lies on a page whose differs bits cannot be corrected (11 R216, 15 R246). -/
def State.poisonAt (s : State) (p : Place) : Bool := s.badPage p || s.marked p

/-- Mark the data at a place as poisoned, or as whole (11 R216). -/
def State.setPoisonAt (s : State) (p : Place) (b : Bool) : State :=
  match p with
  | .dev pa => { s with poison := SMap.set false s.poison pa b }
  | .host pa => { s with poison := SMap.set false s.poison (2 ^ 90 + pa) b }
  | .page i n off =>
    match s.backedAt i n with
    | some k => { s with poison := SMap.set false s.poison (k.frame + off) b }
    | none => s
  | .pad c off =>
    let k := s.coreAt c
    s.setCore c { k with store := { k.store with poison := SMap.set false k.store.poison off b } }
  | .chip c 1 off => s.setAccBad c (off / 4) b
  | .chip c 2 off => s.setRegAt c (off / 4) { s.regAt c (off / 4) with bad := b }
  | .chip _ _ _ | .beyond _ | .none => s

/-- Write a byte at a place. Pages of default regions are written by write operations instead (15 R244). -/
def State.setByteAt (s : State) (p : Place) (b : Byte) : State :=
  match p with
  | .dev pa => { s with mem := SMap.set 0 s.mem pa b }
  | .host pa => { s with hmem := SMap.set 0 s.hmem pa b }
  | .pad c off =>
    let k := s.coreAt c
    s.setCore c { k with store := { k.store with scr := SMap.set 0 k.store.scr off b } }
  | .chip c win off => s.setChipByte c win off b
  | .page _ _ _ | .beyond _ | .none => s

/-! ### Poison of a unit (11 R215, R216) -/

/-- The `n` keys of the unit that one protection code covers, around `a`. -/
def unitFrom (n a : Nat) : List Nat := (List.range n).map (fun i => a - a % n + i)

/-- The places that one protection code covers together with a place: 32 bytes of device memory, 8 of a scratchpad and of the accumulator store, one lane of a register. Host memory is taken in units of 8 (DEDUCED, log 109). -/
def Place.unit : Place → List Place
  | .dev pa => (unitFrom 32 pa).map .dev
  | .host pa => (unitFrom 8 pa).map .host
  | .page i n off => (unitFrom 32 off).map (.page i n)
  | .pad c off => (unitFrom 8 off).map (.pad c)
  | .chip c 1 off => (unitFrom 8 off).map (.chip c 1)
  | .chip c 2 off => (unitFrom 4 off).map (.chip c 2)
  | p => [p]

/-- A store is about to overwrite places: where it overwrites every poisoned byte of a unit, that unit is whole again (11 R216). -/
def clearPoison (ps : List Place) (s : State) : State :=
  ps.foldl (fun t p =>
    if s.marked p && p.unit.all (fun q => !s.marked q || ps.contains q) then t.setPoisonAt p false else t) s

/-! ### Fetch -/

/-- Address of the word at an offset of a plane (01 R31). -/
def Kernel.addr (k : Kernel) (off plane : Nat) : W64 := k.base + BitVec.ofNat 64 (plane * k.stride + 4 * off)

/-- A fetch of a word: the word, or why it cannot be fetched. -/
inductive Fetch where
  | word (w : W32)
  | translation
  | protection (malformed : Bool)
  /-- the word, or a table entry, is poisoned -/
  | integrity
  | fault (pa : Nat)
  deriving DecidableEq, Repr

/-- The byte of a place as the core's instruction buffers may still hold it (11 R207). -/
def State.oldByte (s : State) (core : Nat) : Place → Byte
  | .dev pa => SMap.get 0 (s.coreAt core).ibuf pa
  | .page i n off =>
    match s.backedAt i n with
    | some b => SMap.get 0 (s.coreAt core).ibuf (b.frame + off)
    | none => s.byteAt (.page i n off)
  | p => s.byteAt p

/-- Fetch the word at an offset of a plane for the workgroup on a core: the word memory holds, or the one the core's buffers hold since their last discard, where the two differ (log 5); a word of which memory holds poison is an INTEGRITY (11 R216). Instruction fetch needs X (11 R189). -/
def State.fetch (s : State) (core off plane : Nat) : Fetch :=
  let w := s.wgAt core
  let a := w.kernel.addr off plane
  match spaceOf a with
  | .global va =>
    match s.translate core w.asid (va / 65536) with
    | .translation => .translation
    | .malformed => .protection true
    | .poisoned => .integrity
    | .beyond pa => .fault pa
    | .leaf l =>
      if !entX l.entry || (entPriv l.entry && !w.priv) then .protection false
      else
        let p := fun i => placeUnder s l (va + i) w.asid
        match p 0 with
        | .beyond pa => .fault pa
        | _ =>
          let now := wordOfBytes (s.byteAt (p 0)) (s.byteAt (p 1)) (s.byteAt (p 2)) (s.byteAt (p 3))
          let old := wordOfBytes (s.oldByte core (p 0)) (s.oldByte core (p 1)) (s.oldByte core (p 2)) (s.oldByte core (p 3))
          if (List.range 4).any (fun i => s.poisonAt (p i)) then .integrity
          else if old = now then .word now
          else if Config.freeNat (s.free + 1) % 2 = 0 then .word old else .word now
  | _ => .protection false

/-- The word at an offset of a plane, where it can be read. -/
def State.peek (s : State) (core off plane : Nat) : Option W32 :=
  if off < (s.wgAt core).kernel.length then
    match s.fetch core off plane with
    | .word w => some w
    | _ => none
  else none

/-- Offset and word of the instruction that a prefix group leads to, looking at no more than `n` words. -/
def State.groupInstr (s : State) (core plane : Nat) : Nat → Nat → Option (Nat × W32)
  | 0, _ => none
  | n + 1, off =>
    match s.peek core off plane with
    | none => none
    | some w => if prefixOp (opcodeOf w) then State.groupInstr s core plane n (off + 1) else some (off, w)

/-- Whether the word at an offset is anchored; a prefix is anchored when the instruction it precedes is (01 R33). A group holds at most eight prefixes (05 R97). -/
def State.anchoredAt (s : State) (core plane off : Nat) : Bool :=
  match s.groupInstr core plane 9 off with
  | some (_, w) => anchoredOp (opcodeOf w)
  | none => false

end Sys2Proof.Machine
end

