-- ==== Sys2Proof/Machine/Race.lean ====
section
/-! DEFINITION. Happens-before (11 R199 to R206): agents, what they know, releases and acquires with their scopes; race detection (11 R208 to R213): release counts, acquired and release vectors, sector tags, epochs; the releases that atomic values carry, and the writes that a read may still see. -/

namespace Sys2Proof.Machine

/-! ### Agents and what they know (11 R199, R202; log 107) -/

/-- Key of an agent of a workgroup: a gang by its number, the commands of gang `g` of class `k` by 16(k + 1) + g. -/
def agentKey (launch node rank slot : Nat) : Nat := 64 * (((launch * 2 ^ 12 + node) * 2 ^ 32 + rank) + 1) + slot

def Workgroup.agent (w : Workgroup) (slot : Nat) : Nat := agentKey w.launch w.node w.rank slot

/-- Slot of the commands of a gang in a class: 0 copies, 1 gathers and scatters, 2 matrix commands. -/
def engineSlot (cls gang : Nat) : Nat := 16 * (cls + 1) + gang

/-- Key of the agents outside the cores: the host, the driver, the other devices. -/
def outer : Nat := 0

/-- Key of the writer of trace and edge records of a die (23 R349). -/
def collectorOf (die : Nat) : Nat := 1 + die

/-- Two agents' knowledge together. -/
def Know.join (a b : Know) : Know := b.foldl (fun m e => if SMap.get 0 m e.1 < e.2 then SMap.set 0 m e.1 e.2 else m) a

/-- Every write that an agent has made so far is known. -/
def Know.upTo (k : Know) (agent n : Nat) : Know := SMap.set 0 k agent n

/-- What a gang knows now, its own writes among it. -/
def knowOf (s : State) (core gang : Nat) : Know := (s.gangAt core gang).know.upTo ((s.wgAt core).agent gang) s.writes

/-- A gang takes up knowledge. -/
def Gang.learn (g : Gang) (k : Know) : Gang := { g with know := g.know.join k }

/-! ### Scopes (11 R200) -/

/-- The cluster group of a workgroup, in cluster mode. -/
def Workgroup.clusterGroup (w : Workgroup) : Option Nat := if w.cluster then some w.group else none

/-- A release is one of a gang of the workgroup. -/
def RelInfo.ofWg (w : Workgroup) (r : RelInfo) : Bool := r.launch == w.launch && r.node == w.node && r.rank == w.rank

/-- The releasing agent lies in scope `x` of a workgroup on a core: G 0, W 1, C 2, D 3, V 4, S 5 (05 R102). The relation is symmetric. -/
def RelInfo.inScope (w : Workgroup) (core x : Nat) (r : RelInfo) : Bool :=
  match x with
  | 0 => false
  | 1 => r.ofWg w
  | 2 => r.ofWg w || (r.launch == w.launch && r.node == w.node && r.group.isSome && r.group == w.clusterGroup)
  | 3 => r.die == dieOf core
  | _ => true

/-- A release synchronizes with an acquire at scope `x`: each agent lies in the other's scope (11 R200). -/
def RelInfo.meets (w : Workgroup) (core x : Nat) (r : RelInfo) : Bool := r.inScope w core x && r.inScope w core r.scope

/-! ### Releases and acquires -/

/-- The column of a gang set to 0 in a vector held per gang at key 16g + h. -/
def dropColumn (v : SMap W32) (h : Nat) : SMap W32 := SMap.set 0 v h 0

/-- The next release of a gang (11 R209): RC rises before the release's own write, then VR takes ACQ with VR[g][g] = RC. At 0xFFFF_FFFF the count wraps: the gang's scratchpad tags and its column of ACQ and VR go (11 R211). -/
def raceRelease (core gang : Nat) (s : State) : State :=
  let w := s.wgAt core
  if !w.kernel.schk then s
  else
    let g := s.gangAt core gang
    let s :=
      if g.rc = BitVec.allOnes 32 then
        let k := s.coreAt core
        let s := s.setCore core { k with store := { k.store with
          tags := k.store.tags.filter (fun e => match e.2 with
            | some t => t.writer != gang
            | none => false) } }
        s.setWg core ((s.wgAt core).mapGangs (fun _ g => { g with acq := dropColumn g.acq gang, vr := dropColumn g.vr gang }))
      else s
    s.updGang core gang (fun g =>
      let rc := g.rc + 1
      { g with rc := rc, vr := SMap.set 0 g.acq gang rc })

/-- Gang `g` acquires a release of gang `h` after which RC[h] stood at `c` (11 R209). -/
def Gang.acquire (g : Gang) (h : Nat) (c : W32) (vrH : SMap W32) : Gang :=
  let up := fun (m : SMap W32) (k : Nat) (x : W32) => if (SMap.get 0 m k).toNat < x.toNat then SMap.set 0 m k x else m
  { g with acq := up (vrH.foldl (fun m e => if e.1 = h then m else up m e.1 e.2) g.acq) h c }

/-- The releases of a list that gangs of a workgroup made, as race detection takes them: gang and count (11 R209); one without a count says nothing to it. -/
def ownReleases (w : Workgroup) (rs : List RelInfo) : List (Nat × W32) :=
  (rs.filter (fun r => r.ofWg w && decide (r.gang < 16) && r.count != 0)).map (fun r => (r.gang, r.count))

/-- A gang acquires releases: what their agents knew happens before what it does now (11 R202), and in a checked workgroup its vectors rise by those of its own workgroup (11 R209). -/
def raceAcquire (core gang : Nat) (rels : List RelInfo) (s : State) : State :=
  let s := s.updGang core gang (fun g => rels.foldl (fun g r => g.learn r.know) g)
  if !(s.wgAt core).kernel.schk then s
  else (ownReleases (s.wgAt core) rels).foldl (fun s r => s.updGang core gang (fun g => g.acquire r.1 r.2 (s.gangAt core r.1).vr)) s

/-- Releases after one more: two of one gang at one scope are one, with the higher count and all that was known (11 R209). -/
def addRelease (rs : List RelInfo) (r : RelInfo) : List RelInfo :=
  let same := fun (x : RelInfo) => x.launch == r.launch && x.node == r.node && x.rank == r.rank && x.gang == r.gang && x.scope == r.scope
  rs.filter (fun x => !same x) ++
    [(rs.filter same).foldl (fun m x => { m with count := if m.count.toNat < x.count.toNat then x.count else m.count, know := m.know.join x.know }) r]

/-- A release of a gang at a scope as it travels: its count, where it comes from, what the gang knows. -/
def relOf (s : State) (core gang scope : Nat) : RelInfo :=
  let w := s.wgAt core
  ⟨w.launch, w.node, w.rank, gang, (s.gangAt core gang).rc, scope, w.clusterGroup, dieOf core, knowOf s core gang⟩

/-- A release as a saved context keeps it: its count is gone (11 R211). -/
def RelInfo.uncounted (r : RelInfo) : RelInfo := { r with count := 0 }

/-- A release at scope C or wider advances the workgroup's epoch (11 R212). -/
def bumpEpoch (core : Nat) (s : State) : State := s.setWg core { s.wgAt core with epoch := (s.wgAt core).epoch + 1 }

/-- Scopes G 0, W 1, C 2, D 3, V 4, S 5 (05 R102): a release of a gang at a scope. -/
def releaseAt (core gang scope : Nat) (s : State) : State :=
  if scope = 0 then s
  else
    let s := raceRelease core gang s
    if 2 ≤ scope then bumpEpoch core s else s

/-- The bytes of a sector that an access of places touches, by sector key; one bit a byte. -/
def byteMask (offs : List Nat) : W32 := offs.foldl (fun m o => m ||| BitVec.ofNat 32 (2 ^ (o % 32))) 0

/-- Physical byte of a place in device memory. -/
def State.devOf (s : State) : Place → Option Nat
  | .dev pa => some pa
  | .page i n off => (s.backedAt i n).map (fun b => b.frame + off)
  | _ => none

/-- Whether an access of a gang to a byte of its checked scratchpad races (11 R210). -/
def padRace (s : State) (core gang off : Nat) (atomic : Bool) : Bool :=
  match SMap.get none (s.coreAt core).store.tags (off / 32) with
  | none => false
  | some t =>
    t.writer != gang && t.mask.getLsbD (off % 32) &&
    decide ((SMap.get 0 (s.gangAt core gang).acq t.writer).toNat ≤ t.count.toNat) && !(atomic && t.atomic)

/-- The epoch of a workgroup that runs or is saved (11 R212). -/
def State.epochOf (s : State) (launch node rank : Nat) : Option Nat :=
  let same := fun (w : Workgroup) => w.launch == launch && w.node == node && w.rank == rank
  match s.cores.findSome? (fun e => match e.2.wg with
    | some w => if same w then some w.epoch else none
    | none => none) with
  | some n => some n
  | none => s.saved.findSome? (fun e => match e.2 with
    | some x => if same x.wg then some x.wg.epoch else none
    | none => none)

/-- Whether an access of a workgroup to a byte of a checked page races (11 R212). A tag goes when its line leaves the home slice, which is a free choice for each sector (log 66). -/
def pageRace (s : State) (core pa : Nat) (atomic : Bool) : Bool :=
  let w := s.wgAt core
  match SMap.get none s.gTags (pa / 32) with
  | none => false
  | some t =>
    !(t.launch == w.launch && t.node == w.node && t.rank == w.rank) && t.mask.getLsbD (pa % 32) &&
    s.epochOf t.launch t.node t.rank == some t.epoch && !(atomic && t.atomic) && (Config.freeNat s.free).testBit (1 + pa / 32)

/-- Tag the written bytes of a checked scratchpad (11 R210). -/
def padTag (core gang : Nat) (offs : List Nat) (atomic : Bool) (s : State) : State :=
  if !(s.wgAt core).kernel.schk then s
  else
    let c := (s.gangAt core gang).rc
    offs.foldl (fun s off =>
      let k := s.coreAt core
      let bit := BitVec.ofNat 32 (2 ^ (off % 32))
      let t : SectorTag := match SMap.get none k.store.tags (off / 32) with
        | some t => if t.writer = gang ∧ t.count = c then { t with mask := t.mask ||| bit, atomic := atomic }
                    else ⟨gang, c, atomic, bit⟩
        | none => ⟨gang, c, atomic, bit⟩
      s.setCore core { k with store := { k.store with tags := SMap.set none k.store.tags (off / 32) (some t) } }) s

/-- Tag the written bytes of checked pages (11 R212). -/
def pageTag (core : Nat) (pas : List Nat) (atomic : Bool) (s : State) : State :=
  let w := s.wgAt core
  pas.foldl (fun s pa =>
    let bit := BitVec.ofNat 32 (2 ^ (pa % 32))
    let t : GlobalTag := match SMap.get none s.gTags (pa / 32) with
      | some t => if t.launch = w.launch ∧ t.node = w.node ∧ t.rank = w.rank ∧ t.epoch = w.epoch
                  then { t with mask := t.mask ||| bit, atomic := atomic }
                  else ⟨w.launch, w.node, w.rank, w.epoch, atomic, bit⟩
      | none => ⟨w.launch, w.node, w.rank, w.epoch, atomic, bit⟩
    { s with gTags := SMap.set none s.gTags (pa / 32) (some t) }) s

/-- Values that carry releases, by the key of their first byte: their width and the releases (log 86). -/
abbrev Carried := SMap (Nat × List RelInfo)

/-- A value meets `n` bytes from key `k` on. -/
def Carried.meets (k n : Nat) (e : Nat × Nat × List RelInfo) : Bool := decide (e.1 < k + n ∧ k < e.1 + e.2.1)

/-- The releases of the values that meet `n` bytes from `k` on. -/
def Carried.at (m : Carried) (k n : Nat) : List RelInfo := (m.filter (Carried.meets k n)).flatMap (fun e => e.2.2)

/-- A write of `n` bytes at `k` leaves there a value that carries the releases `rs`; the values that it overwrites stand no more. -/
def Carried.put (m : Carried) (k n : Nat) (rs : List RelInfo) : Carried :=
  let m : Carried := m.filter (fun e => !Carried.meets k n e)
  if rs.isEmpty then m else SMap.set (0, []) m k (n, rs)

/-- First key of a page of a default region that has no backing. -/
def pageKey (region index : Nat) : Nat := 2 ^ 40 + 65536 * backKey region index

/-- The key of a byte among the values that carry releases and among the writes that reads may still see: its physical address; on a page of a default region that has no backing, and in host memory, one of its own. -/
def State.keyOf (s : State) : Place → Option Nat
  | .page i n off => some ((s.backedAt i n).elim (pageKey i n) (fun b => b.frame) + off)
  | .host pa => some (2 ^ 90 + pa)
  | p => s.devOf p

/-- The entries of 64 KiB keys from `lo` on move to those from `hi` on, whose own entries go. -/
def moveKeys {α : Type} [DecidableEq α] (d : α) (m : SMap α) (lo hi : Nat) : SMap α :=
  let inside := fun (k : Nat) => decide (lo ≤ k ∧ k < lo + 65536)
  (m.filter (fun e => inside e.1)).foldl (fun m e => SMap.set d m (e.1 - lo + hi) e.2)
    (m.filter (fun e => !inside e.1 && decide (e.1 < hi ∨ hi + 65536 ≤ e.1)))

/-- The releases that the values in `n` bytes from a place on carry (11 R209). -/
def State.relAt (s : State) (p : Place) (n : Nat) : List RelInfo :=
  match p with
  | .pad c off => Carried.at (s.coreAt c).store.rel off n
  | _ => match s.keyOf p with
    | some k => Carried.at s.gRel k n
    | none => []

/-- The value written to `n` bytes from a place on carries releases; with none, a plain write ends those that stood there. -/
def State.setRelAt (s : State) (p : Place) (n : Nat) (rs : List RelInfo) : State :=
  match p with
  | .pad c off =>
    let k := s.coreAt c
    s.setCore c { k with store := { k.store with rel := Carried.put k.store.rel off n rs } }
  | _ => match s.keyOf p with
    | some k => { s with gRel := Carried.put s.gRel k n rs }
    | none => s

/-- A plain write ends the releases that the values it overwrites carry (11 R209). -/
def dropReleases (ps : List Place) (s : State) : State := ps.foldl (fun s p => s.setRelAt p 1 []) s

/-! ### The writes that reads may still see (11 R203) -/

/-- The key of a place among them; a window of the on-chip map has none. -/
def State.pastKey (s : State) : Place → Option Nat
  | .pad c off => some (2 ^ 100 + 2 ^ 20 * c + off)
  | p => s.keyOf p

/-- The writes of the byte at a place, newest first. -/
def State.pastOf (s : State) (p : Place) : List Past := (s.pastKey p).elim [] (SMap.get [] s.past)

/-- The agent whose writes are performed: the one in whose name they are, else the gang whose issue is under way, else one outside the cores. -/
def State.writer (s : State) : Nat := s.hand.getD (s.cur.elim outer (fun c => (s.wgAt c.core).agent c.gang))

/-- Perform writes in the name of an agent. -/
def asAgent (k : Nat) (f : State → State) (s : State) : State := { f { s with hand := some k } with hand := s.hand }

/-- A byte is about to be written: its writes after this one. -/
def State.recordPast (s : State) (p : Place) (b : Byte) : State :=
  match s.pastKey p with
  | none => s
  | some k =>
    let h := match SMap.get [] s.past k with
      | [] => [⟨s.byteAt p, 0, outer, []⟩]
      | h => h
    { s with past := SMap.set [] s.past k (⟨b, s.writes, s.writer, []⟩ :: h) }

/-- What a write of bytes leaves beside the bytes: it takes its serial number, the releases of the values that it overwrites end (11 R209), and loads in a race may still see what stood there (11 R203). -/
def overwritten (ws : List (Place × Byte)) (s : State) : State :=
  ws.foldl (fun s x => s.recordPast x.1 x.2) (dropReleases (ws.map (fun x => x.1)) { s with writes := s.writes + 1 })

/-- Nothing older than what stands at the keys of a range is to be seen. -/
def forget (lo n : Nat) (s : State) : State := { s with past := s.past.filter (fun e => decide (e.1 < lo ∨ lo + n ≤ e.1)) }

/-- The same for the scratchpad of a core. -/
def forgetPad (core : Nat) (s : State) : State := forget (2 ^ 100 + 2 ^ 20 * core) (2 ^ 20) s

/-- A reader: the keys of the agent it is, from `lo` up to below `hi`, and what it knows. -/
structure Eye where
  lo : Nat
  hi : Nat
  know : Know
  deriving DecidableEq, Repr

def Eye.is (y : Eye) (k : Nat) : Bool := decide (y.lo ≤ k ∧ k < y.hi)

/-- A gang as a reader. -/
def gangEye (s : State) (core gang : Nat) : Eye :=
  let k := (s.wgAt core).agent gang
  ⟨k, k + 1, (s.gangAt core gang).know⟩

/-- The engines of a workgroup as a reader that knows what a command does: their commands are one agent (11 R199, R205). -/
def engineEye (w : Workgroup) (know : Know) : Eye := ⟨w.agent 16, w.agent 64, know⟩

/-- A write is the reader's own, or one that it has read (11 R199). -/
def Past.mine (y : Eye) (e : Past) : Bool := y.is e.by_ || e.readers.any y.is

/-- A write happens before what the reader does now. -/
def Past.ordered (y : Eye) (e : Past) : Bool := e.mine y || decide (e.serial ≤ SMap.get 0 y.know e.by_)

/-- The writes of a byte, newest first, down to the last that the reader itself made or read: it sees none older (11 R199). -/
def visible (y : Eye) : List Past → List Past
  | [] => []
  | e :: r => if e.mine y then [e] else e :: visible y r

/-- The write of a byte that a read finds (11 R203): the newest up to number `upTo`, when nothing orders it before the read; else the last one before the read. -/
def State.seenEntry (s : State) (y : Eye) (upTo : Nat) (p : Place) : Option Past :=
  let h := visible y (s.pastOf p)
  let last := h.find? (Past.ordered y)
  match h.find? (fun e => decide (e.serial ≤ upTo)) with
  | some e => if e.ordered y then last else some e
  | none => last

/-- The byte that a read finds. -/
def State.seenByte (s : State) (y : Eye) (upTo : Nat) (p : Place) : Byte :=
  match s.seenEntry y upTo p with
  | some e => if (s.pastOf p).head? = some e then s.byteAt p else e.byte
  | none => s.byteAt p

/-- The choice drawn for what an engine or the transform pipe finds in the aligned 4-byte unit at an address (19 R280). -/
def State.pickAt (s : State) (a : W64) : Nat := Config.freeNat (2 ^ 64 * (s.free + 1) + a.toNat / 4)

/-- A gang has read a byte: it sees no older write of it any more (11 R199). -/
def State.noteRead (s : State) (y : Eye) (upTo : Nat) (p : Place) : State :=
  match s.pastKey p, s.seenEntry y upTo p with
  | some k, some e =>
    { s with past := SMap.set [] s.past k ((s.pastOf p).map (fun x =>
        if x = e ∧ !x.mine y then { x with readers := y.lo :: x.readers } else x)) }
  | _, _ => s

end Sys2Proof.Machine
end

