-- ==== Sys2Proof/Machine/Region.lean ====
section
/-! DEFINITION. Write operations on pages of default regions (15 R240 to R249): allocation and release of backing, the differs bits, provisional pages. -/

namespace Sys2Proof.Machine

/-- The die of page `index` of a region, which its virtual page number gives: fixed for the device and not stated (15 R241). -/
def Region.dieOf (r : Region) (index : Nat) : Nat := Config.homeDie (r.base.toNat / 65536 + index) % 4

/-- The die of a page of the region with an index. -/
def State.pageDie (s : State) (region index : Nat) : Nat := (SMap.get none s.regions region).elim 0 (fun r => r.dieOf index)

/-- Reserve frames of a region on a die that hold no backing: FREE (15 R238). -/
def Region.freeOn (r : Region) (die : Nat) : List Nat := SMap.get [] r.free die

/-- Take a free frame for a page of a region: from the region's reserve on its die while FREE is nonzero, from the die's pool otherwise (15 R240). Of several free frames the spec names none: the model takes the first of the list, and a frame that is given back stands first (DESIGN CHOICE, log 92). -/
def takeFrame (region die : Nat) (s : State) : Option (Nat × State) :=
  match SMap.get none s.regions region with
  | none => none
  | some r =>
    match r.freeOn die with
    | f :: rest =>
      some (f, { s with regions := SMap.set none s.regions region (some { r with free := SMap.set [] r.free die rest }) })
    | [] =>
      match SMap.get [] s.pool die with
      | f :: rest => some (f, { s with pool := SMap.set [] s.pool die rest })
      | [] => none

/-- A frame for a page would come from the region's reserve (15 R240). -/
def State.reserveGives (s : State) (region die : Nat) : Bool :=
  (SMap.get none s.regions region).elim false (fun r => !(r.freeOn die).isEmpty)

/-- Return a frame that was not used to its source (15 R247). -/
def putBack (region die frame : Nat) (reserve : Bool) (s : State) : State :=
  match reserve, SMap.get none s.regions region with
  | true, some r =>
    { s with regions := SMap.set none s.regions region (some { r with free := SMap.set [] r.free die (frame :: r.freeOn die) }) }
  | _, _ => { s with pool := SMap.set [] s.pool die (frame :: SMap.get [] s.pool die) }

/-- Give a frame back: to the region's reserve while FREE is below RESERVE, to the pool otherwise (15 R240). -/
def giveFrame (region die frame : Nat) (s : State) : State :=
  match SMap.get none s.regions region with
  | none => { s with pool := SMap.set [] s.pool die (frame :: SMap.get [] s.pool die) }
  | some r =>
    if (r.freeOn die).length < r.reserve then
      let r' := { r with free := SMap.set [] r.free die (frame :: r.freeOn die) }
      { s with regions := SMap.set none s.regions region (some r') }
    else { s with pool := SMap.set [] s.pool die (frame :: SMap.get [] s.pool die) }

/-- Fill a range of a map with a function of the key. -/
def fillRange {α : Type} [DecidableEq α] (d : α) (m : SMap α) (lo n : Nat) (f : Nat → α) : SMap α :=
  m.filter (fun e => decide (e.1 < lo)) ++
  (List.range n).filterMap (fun i => if f i = d then none else some (lo + i, f i)) ++
  m.filter (fun e => decide (lo + n ≤ e.1))

/-- Drop the entries of a map in a range. -/
def dropRange {α : Type} (m : SMap α) (lo n : Nat) : SMap α := m.filter (fun e => decide (e.1 < lo ∨ lo + n ≤ e.1))

/-- A frame filled with a region's pattern, without poison or race tags (15 R244, R246). -/
def fillFrame (r : Region) (frame : Nat) (s : State) : State :=
  { s with mem := fillRange 0 s.mem frame 65536 r.pattern, poison := dropRange s.poison frame 65536,
           gTags := dropRange s.gTags (frame / 32) 2048 }

/-- What belongs to the values of a page, the releases they carry and the writes that loads may still see, follows them from the keys of `lo` to those of `hi`. -/
def movePage (lo hi : Nat) (s : State) : State :=
  { s with gRel := moveKeys (0, []) s.gRel lo hi, past := moveKeys [] s.past lo hi }

/-- A page of a region takes a frame: the pattern, and what belongs to its values (15 R244). -/
def allocate (region index : Nat) (r : Region) (frame : Nat) (s : State) : State :=
  movePage (pageKey region index) frame (fillFrame r frame s)

/-- Whether sector `k` of a frame is at its region's default (15 R239). -/
def sectorDefault (r : Region) (s : State) (frame k : Nat) : Bool :=
  (List.range 32).all (fun i => SMap.get 0 s.mem (frame + 32 * k + i) == r.pattern i)

/-- The differs bit of a sector. -/
def setDiffers (d : BitVec 2048) (k : Nat) (b : Bool) : BitVec 2048 :=
  let bit := BitVec.ofNat 2048 (2 ^ k)
  if b then d ||| bit else d &&& ~~~bit

/-- COUNT: the set differs bits (15 R242). -/
def Backed.count (b : Backed) : Nat := popcount' 2048 b.differs.toNat
where
  /-- one bits of an `n`-bit value -/
  popcount' : Nat → Nat → Nat
    | 0, _ => 0
    | n + 1, x => x % 2 + popcount' n (x / 2)

/-- Apply bytes of a page to its frame. -/
def writeFrame (frame : Nat) (bs : List (Nat × Byte)) (s : State) : State :=
  bs.foldl (fun s x => s.setByteAt (.dev (frame + x.1)) x.2) s

/-- A page becomes unbacked and its frame is released; the race tags of its sectors go (15 R244, R246), and what belongs to its values stays with them. -/
def releasePage (region index : Nat) (b : Backed) (s : State) : State :=
  let s := movePage b.frame (pageKey region index)
    { s with backed := SMap.set none s.backed (backKey region index) none, gTags := dropRange s.gTags (b.frame / 32) 2048 }
  giveFrame region (s.pageDie region index) b.frame s

/-- Whether sector `k` of a frame holds poison: what it holds is then not known to be the default. -/
def sectorPoisoned (s : State) (frame k : Nat) : Bool := (List.range 32).any (fun i => SMap.get false s.poison (frame + 32 * k + i))

/-- The bytes of a write on a backed page, `bad` those that come poisoned: apply, recompute the differs bits of the touched sectors, release at COUNT 0 (15 R244). A sector in which poison stays keeps its bit (DEDUCED, log 109). -/
def writeBacked (region index : Nat) (r : Region) (b : Backed) (bs : List (Nat × Byte)) (bad : List Nat) (s : State) : State :=
  let s := bad.foldl (fun s o => s.setPoisonAt (.dev (b.frame + o)) true) (writeFrame b.frame bs s)
  let d := bs.foldl (fun d x => setDiffers d (x.1 / 32)
    (!sectorDefault r s b.frame (x.1 / 32) || (sectorPoisoned s b.frame (x.1 / 32) && (bad.any (fun o => o / 32 == x.1 / 32) || d.getLsbD (x.1 / 32)))))
    b.differs
  if d = 0 then releasePage region index { b with differs := d } s
  else { s with backed := SMap.set none s.backed (backKey region index) (some { b with differs := d }) }

/-- Whether every byte of a write equals the pattern byte at its position. -/
def atPattern (r : Region) (bs : List (Nat × Byte)) : Bool := bs.all (fun x => x.2 == r.pattern x.1)

/-- A provisional page of an instruction (15 R247): page key, frame, and whether the frame came from the region's reserve. -/
structure Prov where
  key : Nat
  frame : Nat
  reserve : Bool
  deriving DecidableEq, Repr

/-- Provisional pages held by an instruction. -/
abbrev Provs := List Prov

/-- Take the provisional frame of a page out of the list. -/
def Provs.take (ps : Provs) (key : Nat) : Option (Nat × Provs) :=
  match ps.find? (fun p => p.key == key) with
  | some p => some (p.frame, ps.filter (fun q => q.key != key))
  | none => none

/-- A write operation of bytes at offsets of one page (15 R244), `bad` those that come poisoned. It uses the instruction's provisional page, or a free frame; with neither, the write is not performed (15 R249), and the answer says so. -/
def writeMarked (region index : Nat) (bs : List (Nat × Byte)) (bad : List Nat) (ps : Provs) (s : State) : State × Provs × Bool :=
  match SMap.get none s.regions region with
  | none => (s, ps, true)
  | some r =>
    match s.backedAt region index with
    | some b => (writeBacked region index r b bs bad s, ps, true)
    | none =>
      if atPattern r bs && bad.isEmpty then (s, ps, true)
      else
        match Provs.take ps (backKey region index) with
        | some (f, ps') => (writeBacked region index r ⟨f, 0, false⟩ bs bad (allocate region index r f s), ps', true)
        | none =>
          match takeFrame region (r.dieOf index) s with
          | some (f, s') => (writeBacked region index r ⟨f, 0, false⟩ bs bad (allocate region index r f s'), ps, true)
          | none => (s, ps, false)

/-- A write operation of whole bytes. -/
def writeOp (region index : Nat) (bs : List (Nat × Byte)) (ps : Provs) (s : State) : State × Provs × Bool := writeMarked region index bs [] ps s

/-- Return the provisional pages that no write operation used, each to its source (15 R247). -/
def returnProvs (ps : Provs) (s : State) : State :=
  ps.foldl (fun s p => putBack (p.key / 2 ^ 32) (s.pageDie (p.key / 2 ^ 32) (p.key % 2 ^ 32)) p.frame p.reserve s) s

/-- Take a provisional page for each page of a list of (lane, address, region, index); the first that none can be taken for is the failure (15 R247). -/
def takeProvs (s : State) : List (Nat × W64 × Nat × Nat) → Provs → Except (Nat × W64) (State × Provs)
  | [], ps => .ok (s, ps)
  | (l, a, i, n) :: rest, ps =>
    if ps.any (fun p => p.key == backKey i n) then takeProvs s rest ps
    else
      let die := s.pageDie i n
      match takeFrame i die s with
      | some (f, s') => takeProvs s' rest (ps ++ [⟨backKey i n, f, s.reserveGives i die⟩])
      | none => .error (l, a)

/-- Set bytes at places other than default pages. -/
def setBytes (ws : List (Place × Byte)) (s : State) : State := ws.foldl (fun s x => s.setByteAt x.1 x.2) s

/-- A store of bytes is about to be performed, as one single-copy atomic access (11 R194). -/
def storing (ws : List (Place × Byte)) (s : State) : State := overwritten ws (clearPoison (ws.map (fun x => x.1)) s)

/-- Write bytes to places other than default pages. -/
def writePlain (ws : List (Place × Byte)) (s : State) : State := setBytes ws (storing ws s)

/-- Perform a store of bytes at places, `bad` those that come poisoned: bytes of default pages as write operations, one for each page (15 R244); all others at once. -/
def performStore (ws : List (Place × Byte)) (bad : List Place) (ps : Provs) (s : State) : State × Provs :=
  let plain := (bad.filter (fun p => (p.pageOf).isNone)).foldl (fun s p => s.setPoisonAt p true) (setBytes ws s)
  let pages := (ws.filterMap (fun x => x.1.pageOf)).dedup
  pages.foldl (fun acc q =>
    let bs := ws.filterMap (fun x => match x.1 with
      | .page i n off => if (i, n) = q then some (off, x.2) else none
      | _ => none)
    let marks := bad.filterMap (fun p => match p with
      | .page i n off => if (i, n) = q then some off else none
      | _ => none)
    let r := writeMarked q.1 q.2 bs marks acc.2 acc.1
    (r.1, r.2.1)) (plain, ps)

/-- Write bytes to places as one single-copy atomic access. -/
def writePoisoned (ws : List (Place × Byte)) (bad : List Place) (ps : Provs) (s : State) : State × Provs := performStore ws bad ps (storing ws s)

/-- Write whole bytes to places. -/
def writePlaces (ws : List (Place × Byte)) (ps : Provs) (s : State) : State × Provs := writePoisoned ws [] ps s

/-- Write bytes to places as an engine does, of which each aligned 4-byte unit is a single-copy atomic access of its own (19 R280). -/
def writeWords (ws : List (Place × Byte)) (bad : List Place) (s : State) : State :=
  let parts := ws.splitBy (fun x y => s.pastKey x.1 |>.elim true (fun k => s.pastKey y.1 |>.elim false (fun h => k / 4 == h / 4)))
  (performStore ws bad [] (parts.foldl (fun s p => overwritten p s) (clearPoison (ws.map (fun x => x.1)) s))).1

/-! ### Memory as the driver and the engines' keepers reach it -/

/-- The place of a virtual address of an address space, by a walk of its tables. -/
def placeAt (s : State) (asid : Nat) (va : W64) : Place :=
  match spaceOf va with
  | .global a =>
    match s.walk asid (a / 65536) with
    | .leaf l => placeUnder s l a asid
    | .beyond pa => .beyond pa
    | _ => .none
  | _ => .none

/-- Bytes at a virtual address of an address space. -/
def readVa (s : State) (asid : Nat) (va : W64) (n : Nat) : List Byte :=
  (List.range n).map (fun i => s.byteAt (placeAt s asid (va + BitVec.ofNat 64 i)))

/-- Whether every byte of a range can be reached. -/
def reachable (s : State) (asid : Nat) (va : W64) (n : Nat) : Bool :=
  (List.range n).all (fun i => match placeAt s asid (va + BitVec.ofNat 64 i) with
    | .none | .beyond _ => false
    | _ => true)

/-- The bytes of a write at a virtual address of an address space with their places; a page whose differs bits cannot be corrected takes none (15 R246, log 82). -/
def vaWrites (s : State) (asid : Nat) (va : W64) (bs : List Byte) : List (Place × Byte) :=
  ((bs.zipIdx).map (fun x => (placeAt s asid (va + BitVec.ofNat 64 x.2), x.1))).filter (fun x => !s.badPage x.1)

/-- The offsets of the poisoned ones among `n` bytes at a virtual address: marked data, and all of a page whose differs bits cannot be corrected (11 R216, 15 R246). -/
def badVa (s : State) (asid : Nat) (va : W64) (n : Nat) : List Nat :=
  (List.range n).filter (fun i => s.poisonAt (placeAt s asid (va + BitVec.ofNat 64 i)))

/-- The places of the bytes of a write that come poisoned, at offsets `bad` from a virtual address, but for those that are not written. -/
def vaBad (s : State) (asid : Nat) (va : W64) (bad : List Nat) : List Place :=
  (bad.map (fun i => placeAt s asid (va + BitVec.ofNat 64 i))).filter (fun p => !s.badPage p)

/-- Write bytes at a virtual address of an address space, as the driver writes its records; a byte that no page maps is not written, nor one of a default page for which no backing is found (DESIGN CHOICE, log 93: 15 R249 speaks of engines alone). -/
def writeVa (asid : Nat) (va : W64) (bs : List Byte) (s : State) : State :=
  asAgent outer (fun s => (writePlaces (vaWrites s asid va bs) [] s).1) s

/-- Bytes of pages that have no backing, and that differ from the pattern (15 R244). -/
def unbacked (s : State) (ws : List (Place × Byte)) : List (Nat × Nat) :=
  (ws.filterMap (fun x => match x.1 with
    | .page i n off =>
      match SMap.get none s.regions i with
      | some r => if (s.backedAt i n).isSome ∨ x.2 = r.pattern off then none else some (i, n)
      | none => none
    | _ => none)).dedup

/-- Pages without backing to which a write brings a byte that differs from the pattern, or a poisoned one (15 R244; DEDUCED, log 109). -/
def unbackedBy (s : State) (ws : List (Place × Byte)) (bad : List Place) : List (Nat × Nat) :=
  (unbacked s ws ++ bad.filterMap (fun p => p.pageOf.bind (fun q => if (s.backedAt q.1 q.2).isSome then none else some q))).dedup

/-- The pages among a list for which no frame is found, taking frames in the order of the write operations (15 R249). -/
def frameless (s : State) (pages : List (Nat × Nat)) : List (Nat × Nat) :=
  (pages.foldl (fun (acc : State × List (Nat × Nat)) p => match takeFrame p.1 (acc.1.pageDie p.1 p.2) acc.1 with
    | some (_, s') => (s', acc.2)
    | none => (acc.1, p :: acc.2)) (s, [])).2

/-- A place lies in one of the pages of a list. -/
def Place.inPages (ps : List (Nat × Nat)) : Place → Bool
  | .page i n _ => ps.contains (i, n)
  | _ => false

/-- Write bytes to an address, those at the offsets `bad` poisoned, all of them or none: none when a write operation finds no backing (15 R249, R390). -/
def writeImage (asid : Nat) (va : W64) (bs : List Byte) (bad : List Nat) (s : State) : Option State :=
  let ws := vaWrites s asid va bs
  let marks := vaBad s asid va bad
  match takeProvs s ((unbackedBy s ws marks).map (fun p => (0, (0 : W64), p.1, p.2))) [] with
  | .error _ => none
  | .ok (s', ps) =>
    let r := writePoisoned ws marks ps s'
    some (returnProvs r.2 r.1)

/-- Copy bytes from one address to another, with their poison (11 R216). -/
def copyImage (asid : Nat) (to_ from_ : W64) (n : Nat) (s : State) : Option State :=
  writeImage asid to_ (readVa s asid from_ n) (badVa s asid from_ n) s

/-- A little-endian number of bytes. -/
def numOf (bs : List Byte) : Nat := (bs.zipIdx).foldl (fun n x => n + x.1.toNat * 2 ^ (8 * x.2)) 0

end Sys2Proof.Machine
end

