-- ==== Sys2Proof/Machine/Points.lean ====
section
/-! DEFINITION. Where a split stands: latch-free points (01 R39, R40), joins (01 R43), and the splits that no issue moves on (21 R331). -/

namespace Sys2Proof.Machine

/-- Latch-class opcodes (01 R37). -/
def latchOp (op : Nat) : Bool := (0x40 ≤ op && op ≤ 0x54) || (0x60 ≤ op && op ≤ 0x6C) || (0x70 ≤ op && op ≤ 0x76)

/-- An instruction word reads a latch: a source field of 0x80 to 0x83 in a latch-class word (01 R37). -/
def readsLatch (w : W32) : Bool :=
  let a := bitsAt w.toNat 8 8
  let b := bitsAt w.toNat 0 8
  latchOp (opcodeOf w) && (decide (0x80 ≤ a ∧ a < 0x84) || decide (0x80 ≤ b ∧ b < 0x84))

/-- The split stands at a latch-free point: before the first word of a group whose instruction reads no latch in any occupied plane, with no plane of it issued. -/
def latchFree (s : State) (core : Nat) (g : Gang) (sp : Split) : Bool :=
  sp.pfx.isEmpty && sp.nextPlane == 0 &&
  (g.occupied sp.lanes).all (fun n => match s.groupInstr core n 9 sp.pc with
    | some (_, w) => !readsLatch w
    | none => true)

/-- A split stands at the join of its path (01 R43). -/
def Split.atJoin (g : Gang) (sp : Split) : Bool :=
  sp.path.isSome &&
  match SMap.get [] g.dp ((slicesOf sp.slices).headD 0) with
  | e :: _ => sp.lanes == 0 || (sp.pc == e.join && sp.nextPlane == 0)
  | [] => false

/-- The split issues no word of its own accord: it waits, another split runs the handler, or its path is at the join. -/
def Split.held (g : Gang) (sp : Split) : Bool := sp.stopped || sp.wait != .none || sp.lanes == 0 || sp.atJoin g

/-- The split stands where a sample or a stop may find it: it is held or at a latch-free point, and outside a prefix group (01 R40, 05 R99; log 50). -/
def quiet (s : State) (core : Nat) (g : Gang) (sp : Split) : Bool := sp.pfx.isEmpty && (sp.held g || latchFree s core g sp)

end Sys2Proof.Machine
end

