-- ==== Sys2Proof/Machine/Ops.lean ====
section
/-! DEFINITION. The named operations over the state that every meaning shares: cores, gangs and registers; the issue under way; retiring an issue; control transfers; taking a trap and returning from it. -/

namespace Sys2Proof.Machine

/-- The outcome of a meaning. -/
abbrev Res := Host.Outcome State Fault Refusal

/-! ### The issue under way -/

/-- What an instruction sees of the split that issues it. -/
structure Ctx where
  core : Nat
  gang : Nat
  split : Nat
  /-- plane of the issue; none for an anchored word -/
  plane : Option Nat
  word : W32
  wg : Workgroup
  g : Gang
  sp : Split
  /-- issuing lanes (01 R38) -/
  lanes : W32
  /-- E: the issuing lanes that no skip body disables (07 R124) -/
  en : W32

/-- Lanes that the skip bodies over offset `k` disable (01 R44). -/
def Split.disabled (sp : Split) (k : Nat) : W32 :=
  sp.skip.foldl (fun m b => if b.first ≤ k ∧ k ≤ b.last then m ||| b.lanes else m) 0

/-- The context of an issue of a split. -/
def mkCtx (s : State) (c : Cur) (sp : Split) : Ctx :=
  let wg := s.wgAt c.core
  let g := s.gangAt c.core c.gang
  let lanes := match c.plane with
    | none => sp.lanes
    | some n => g.inPlane sp.lanes n
  let en := match c.plane with
    | none => lanes
    | some _ => lanes &&& ~~~(sp.disabled sp.pc)
  { core := c.core, gang := c.gang, split := c.split, plane := c.plane, word := c.word, wg := wg, g := g, sp := sp,
    lanes := lanes, en := en }

/-- The issue under way, when there is one (log 23). -/
def State.ctx? (s : State) : Option Ctx :=
  match s.cur with
  | none => none
  | some c =>
    match (s.gangAt c.core c.gang).splits[c.split]? with
    | none => none
    | some sp => some (mkCtx s c sp)

/-- Key of the issue's prefixes: its plane, or 4 for an anchored word. -/
def Ctx.key (cx : Ctx) : Nat := cx.plane.getD 4

/-- The prefixes issued before the instruction. -/
def Ctx.pfx (cx : Ctx) : Option Pfx := SMap.get none cx.sp.pfx cx.key

/-- Offset of the first word of the prefix group (05 R99). -/
def Ctx.first (cx : Ctx) : Nat :=
  match cx.pfx with
  | some p => p.first
  | none => cx.sp.pc

/-- The plane whose word issues: an anchored word stands in every occupied plane (01 R34). -/
def Ctx.wordPlane (cx : Ctx) : Nat := cx.plane.getD ((cx.g.occupied cx.sp.lanes).headD 0)

/-- Enabled lanes in ascending order. -/
def Ctx.ls (cx : Ctx) : List Nat := lanesOf cx.en

/-- The immediate of IMM and IMM2, sign-extended to 64 bits (05 R100). -/
def Pfx.immediate (p : Pfx) : Option W64 :=
  match p.imm, p.imm2 with
  | some a, some b => some ((b ++ a).signExtend 64)
  | some a, none => some (a.signExtend 64)
  | none, _ => none

def Ctx.imm (cx : Ctx) : Option W64 := cx.pfx.bind Pfx.immediate

/-- The payload of MOD; zero without one (05 R101). -/
def Ctx.modw (cx : Ctx) : BitVec 24 := (cx.pfx.bind (fun p => p.mod_)).getD 0

/-! ### Packets of an issue (23 R354 to R356) -/

/-- The tag of the issue's HINT.TRACE (05 R102). -/
def Ctx.tag (cx : Ctx) : Option (BitVec 16) := cx.pfx.bind (fun p => p.trace)

def Ctx.src (cx : Ctx) : Nat := srcOf cx.core cx.gang cx.sp

/-- Emit a packet of the issue; its payload follows SRC. -/
def Ctx.emit (cx : Ctx) (cls type bits : Nat) (payload : List Byte) (s : State) : State :=
  emitPacket cx.core cx.gang cls type bits cx.src cx.tag (leBytes 2 cx.src ++ payload) s

/-- MASK packet: WHY and the lanes (23 R354, R355). -/
def Ctx.emitMask (cx : Ctx) (why : Nat) (lanes : W32) (s : State) : State :=
  cx.emit 1 4 0 (leBytes 1 why ++ leBytes 4 lanes.toNat) s

/-- BR packet: the lanes that take the transfer, and the target when it is indirect. -/
def Ctx.emitBr (cx : Ctx) (taken : W32) (ind : Option Nat) (s : State) : State :=
  match ind with
  | none => cx.emit 0 3 0 (leBytes 4 taken.toNat) s
  | some t => cx.emit 0 3 1 (leBytes 4 taken.toNat ++ leBytes 4 t) s

/-! ### Retiring an issue -/

/-- The split's next plane to issue at its offset: the lowest occupied plane, from `nextPlane` on, that a skip body leaves a lane of and that a replay does not leave out (01 R34, R46, 07 R130). -/
def Split.issuePlane (g : Gang) (sp : Split) : Option Nat :=
  let live := sp.lanes &&& ~~~(sp.disabled sp.pc)
  let lowest := match sp.replay with
    | some (last, n) => if sp.pc ≤ last then n else 0
    | none => 0
  (g.occupied live).find? (fun n => decide (sp.nextPlane ≤ n ∧ lowest ≤ n))

/-- The split at offset `k`, nothing issued there yet; skip bodies and a replay behind it are dropped. -/
def Split.at (sp : Split) (k : Nat) : Split :=
  { sp with pc := k, nextPlane := 0, wait := .none,
            skip := sp.skip.filter (fun b => decide (k ≤ b.last)),
            replay := match sp.replay with
              | some (last, n) => if k ≤ last then some (last, n) else none
              | none => none }

/-- Advance over offsets at which a skip body leaves no plane to issue (01 R44), up to the join of a path (01 R43). -/
def Split.settle (g : Gang) : Nat → Split → Split
  | 0, sp => sp
  | n + 1, sp =>
    if sp.lanes ≠ 0 ∧ !sp.atJoin g ∧ sp.lanes &&& ~~~(sp.disabled sp.pc) = 0 then Split.settle g n (sp.at (sp.pc + 1)) else sp

/-- The split after the issue of its word in plane `n`: the next plane, or the next offset (01 R34). -/
def Split.step (g : Gang) (sp : Split) (plane : Option Nat) : Split :=
  match plane with
  | none => sp.at (sp.pc + 1)
  | some n =>
    match Split.issuePlane g { sp with nextPlane := n + 1 } with
    | some _ => { sp with nextPlane := n + 1, wait := .none }
    | none => Split.settle g 8 (sp.at (sp.pc + 1))

/-- Latches left after entries of a set of lanes became invalid, in one plane or in all (01 R38). -/
def dropLatches (x : SMap (Option Latch)) (lanes : W32) (plane : Option Nat) : SMap (Option Latch) :=
  x.filter (fun e => !(lanes.getLsbD (e.1 % 32) && (plane.isNone || plane == some (e.1 / 128))))

/-- Replace split `i`. -/
def Gang.setSplit (g : Gang) (i : Nat) (sp : Split) : Gang := { g with splits := g.splits.set i sp }

/-- Replace split `i` by several. -/
def Gang.spliceSplit (g : Gang) (i : Nat) (sps : List Split) : Gang :=
  { g with splits := g.splits.take i ++ sps ++ g.splits.drop (i + 1) }

/-- The record of an issue: latches of an issue that is not latch-class (01 R38), the chain it ends, and the issue clock (21 R329). -/
def Gang.issued (g : Gang) (cx : Ctx) (clock : Nat) : Gang :=
  { g with x := dropLatches g.x cx.lanes cx.plane, lastIssue := clock }

/-- The issue clocks of a split after an issue: of the plane, or of every occupied plane for an anchored word (21 R329). -/
def Split.stamped (sp : Split) (g : Gang) (plane : Option Nat) (clock : Nat) : SMap Nat :=
  (plane.elim (g.occupied sp.lanes) (fun n => [n])).foldl (fun m n => SMap.set 0 m n clock) sp.lastIssue

/-- The clock of the split's last issue. -/
def Split.issuedAt (sp : Split) : Nat := (sp.lastIssue.map (fun e => e.2)).foldl max 0

/-- The split as an issue leaves it: prefixes used up, no chain. -/
def Split.spent (sp : Split) (cx : Ctx) (clock : Nat) : Split :=
  { sp with pfx := SMap.set none sp.pfx cx.key none, lastIssue := sp.stamped cx.g cx.plane clock,
            chain := match cx.plane with
              | none => []
              | some n => SMap.set 0 sp.chain n 0 }

/-- Retire an issue that is not latch-class: the split goes on to its next plane or offset. -/
def retire (cx : Ctx) (s : State) : State :=
  let clock := (s.clockAt cx.core).toNat
  let g := (s.gangAt cx.core cx.gang).issued cx clock
  s.setGang cx.core cx.gang (g.setSplit cx.split (Split.step g (cx.sp.spent cx clock) cx.plane))

/-- The split waits at its word; the word has issued and its prefixes are used up. -/
def waitAt (cx : Ctx) (w : Wait) (s : State) : State :=
  let clock := (s.clockAt cx.core).toNat
  let g := (s.gangAt cx.core cx.gang).issued cx clock
  s.setGang cx.core cx.gang (g.setSplit cx.split { cx.sp.spent cx clock with
    wait := w, waitStart := clock, waitFirst := cx.first, waitPlane := cx.plane, waitTag := cx.tag })

/-- A waiting split goes on after its word: to the next plane, or to the next offset. -/
def Split.goOn (g : Gang) (sp : Split) : Split := Split.step g sp sp.waitPlane

/-- Let a waiting split go on after its word. -/
def Gang.release (g : Gang) (i : Nat) : Gang :=
  match g.splits[i]? with
  | some sp => g.setSplit i (sp.goOn g)
  | none => g

/-- Change every split of a gang, those parked in its dual-path stacks among them (01 R43). -/
def Gang.mapSplits (f : Split → Split) (g : Gang) : Gang :=
  { g with splits := g.splits.map f,
           dp := g.dp.map (fun e => (e.1, e.2.map (fun d => { d with parked := d.parked.map f }))) }

/-- Every split of a gang, those parked in its dual-path stacks among them. -/
def Gang.allSplits (g : Gang) : List Split := g.splits ++ g.dp.flatMap (fun e => e.2.filterMap (fun d => d.parked))

/-- Change the elements of a list one after another, with what each leaves for the next. -/
def thread {σ α : Type} (f : σ → α → σ × α) (a : σ) (xs : List α) : σ × List α :=
  xs.foldl (fun r x => ((f r.1 x).1, r.2 ++ [(f r.1 x).2])) (a, [])

/-- Change every split of a gang one after another, those parked in its dual-path stacks last. -/
def Gang.thread {σ : Type} (f : σ → Split → σ × Split) (a : σ) (g : Gang) : σ × Gang :=
  let entry := fun (a : σ) (d : DPEntry) => match d.parked with
    | some p => ((f a p).1, { d with parked := some (f a p).2 })
    | none => (a, d)
  let r := Machine.thread f a g.splits
  let d := Machine.thread (fun a (e : Nat × List DPEntry) => ((Machine.thread entry a e.2).1, (e.1, (Machine.thread entry a e.2).2))) r.1 g.dp
  (d.1, { g with splits := r.2, dp := d.2 })

/-! ### Prefixes that a trap keeps (01 R46, 05 R99) -/

/-- Rank of a word in the order of 05 R97. -/
def PKind.rank : PKind → Nat
  | .stall | .reuse | .trace | .ord => 0
  | .join => 1
  | .imm => 2
  | .imm2 => 3
  | .mod => 4

/-- What is left of a group when its words from offset `k` on issue again: the words before `k`. -/
def Pfx.before (k : Nat) (p : Pfx) : Option Pfx :=
  match p.kinds.take (k - p.first) with
  | [] => none
  | x :: r =>
    let has := fun (y : PKind) => (x :: r).contains y
    some { p with last := ((x :: r).getLastD x).rank, stall := p.stall && has .stall, reuse := p.reuse && has .reuse,
                  join := if has .join then p.join else none, trace := if has .trace then p.trace else none,
                  ord := if has .ord then p.ord else none, imm := if has .imm then p.imm else none,
                  imm2 := if has .imm2 then p.imm2 else none, mod_ := if has .mod then p.mod_ else none, kinds := x :: r }

/-- The pending prefixes when the words from offset `first` on issue again in plane `n` and the higher ones (01 R46): those of the lower planes stay, those of the trapping group go, and a higher plane keeps what stands before `first`. An anchored group keeps none. -/
def Split.keptPfx (sp : Split) (plane : Option Nat) (first : Nat) : SMap (Option Pfx) :=
  match plane with
  | none => []
  | some n => sp.pfx.filterMap (fun e =>
    if e.1 < n then some e
    else if e.1 = n ∨ 4 ≤ e.1 then none
    else (e.2.bind (Pfx.before first)).map (fun p => (e.1, some p)))

/-! ### Control transfers -/

/-- A part of a split, sent to an offset by a control transfer. -/
def Split.sent (sp : Split) (slices : BitVec 8) (lanes : W32) (k : Nat) : Split :=
  { sp with slices := slices, lanes := lanes, pc := k, nextPlane := 0, replay := none, pfx := [], skip := [],
            chain := [], wait := .none }

/-- Distinct offsets of a list, in order of appearance. -/
def distinct : List Nat → List Nat
  | [] => []
  | k :: r => k :: (distinct r).filter (· != k)

/-- Send each slice of the split to its offset; the group splits into one group for each offset (01 R16). -/
def transferSplits (sp : Split) (tgt : Nat → Nat) : List Split :=
  let js := slicesOf sp.slices
  match sp.path with
  | some _ => [sp.sent sp.slices sp.lanes (tgt (js.headD 0))]
  | none =>
    (distinct (js.map tgt)).map (fun k =>
      let g := js.filter (fun j => tgt j == k)
      sp.sent (sliceSet g) (sp.lanes &&& lanesOfSlices g) k)

/-- Carry out a control transfer of an anchored issue (07 R128). -/
def transfer (cx : Ctx) (tgt : Nat → Nat) (s : State) : State :=
  let clock := (s.clockAt cx.core).toNat
  let g := (s.gangAt cx.core cx.gang).issued cx clock
  s.setGang cx.core cx.gang (g.spliceSplit cx.split (transferSplits { cx.sp with lastIssue := cx.sp.stamped cx.g cx.plane clock } tgt))

/-! ### Traps -/

def Cause.code : Cause → Nat
  | .illegalInstruction => 0x01 | .illegalOperand => 0x02 | .formatTag => 0x03 | .planeAlign => 0x04
  | .regBlock => 0x05 | .skipBody => 0x06 | .collectiveIssue => 0x07 | .latchInvalid => 0x08
  | .divergeDepth => 0x09 | .role => 0x0A | .translation => 0x10 | .protection => 0x11
  | .alignment => 0x12 | .backingExhausted => 0x13 | .race => 0x14 | .integrity => 0x15
  | .scaleLayout => 0x18 | .streamFormat => 0x19 | .barrierOverflow => 0x1A | .barrierOrphan => 0x1B
  | .clusterExit => 0x1C | .regionStack => 0x1D | .regStarvation => 0x1E | .ringMisuse => 0x1F
  | .breakpoint => 0x20 | .softwareTrap => 0x21 | .stopRequest => 0x22

/-- A trap of an issue: its cause, TRAPA, the lowest trapping lane when the cause is a lane's, SWNUM, and for the Puone cores the faulting lanes. -/
structure Trap where
  cause : Cause
  addr : W64
  lane : Option Nat
  swnum : Nat
  faults : List (Nat × W64)
  malformed : Bool
  deriving DecidableEq, Repr

/-- Why an instruction has no effect of its own: a trap, or a stop of the machine. -/
inductive Stop where
  | trap (t : Trap)
  | fault (f : Fault)
  deriving DecidableEq, Repr

/-- A trap with TRAPA zero, of the whole issue (21 R335). -/
def Trap.plain (c : Cause) : Trap := ⟨c, 0, none, 0, [], false⟩

/-- A trap of one lane. -/
def Trap.lanewise (c : Cause) (lane : Nat) : Trap := ⟨c, 0, some lane, 0, [], false⟩

/-- A trap of one lane at an address. -/
def Trap.at (c : Cause) (lane : Nat) (addr : W64) : Trap := ⟨c, addr, some lane, 0, [(lane, addr)], false⟩

/-- ILLEGAL_OPERAND with the word in TRAPA (05 R87, 21 R335). -/
def illegalOperand (cx : Ctx) : Stop := .trap ⟨.illegalOperand, cx.word.zeroExtend 64, none, 0, [], false⟩

/-- ILLEGAL_INSTRUCTION with the word in TRAPA (05 R87, 21 R335). -/
def illegalInstruction (cx : Ctx) : Stop := .trap ⟨.illegalInstruction, cx.word.zeroExtend 64, none, 0, [], false⟩

/-- A trap as a stop. -/
def raise (c : Cause) : Stop := .trap (Trap.plain c)

/-- The lowest lane of a mask, or 0. -/
def lowLane (m : W32) : Nat := (lanesOf m).headD 0

/-- TRAPL (21 R335) of lane `lane` of an issue of gang `gang`: the slice is that of the lane when the split holds it, else the split's lowest. -/
def traplOf (gang : Nat) (g : Gang) (sp : Split) (plane : Option Nat) (lane : Nat) : W64 :=
  let slice := if sp.slices.getLsbD (lane / 4) then lane / 4 else (slicesOf sp.slices).headD 0
  let pl := plane.getD (g.planeOf lane)
  BitVec.ofNat 64 (gang * 2 ^ 16 + (if sp.path.isSome then 2 ^ 11 else 0) + pl % 4 * 2 ^ 9 + (sp.path.getD 0) % 2 * 2 ^ 8 +
    slice % 8 * 2 ^ 5 + lane % 32)

/-- TRAPC (21 R335). -/
def trapcOf (c : Cause) (swnum : Nat) : W64 := BitVec.ofNat 64 (swnum * 2 ^ 8 + c.code)

/-- A trap as it is delivered: what the four registers take, and what the handler's return needs. -/
structure Delivery where
  cause : Cause
  swnum : Nat
  trapa : W64
  pc : Nat
  trapl : W64
  split : Nat
  trapOff : Nat
  plane : Nat
  anchored : Bool
  /-- tag of the HINT.TRACE of the trapping group (05 R102) -/
  tag : Option (BitVec 16)
  deriving DecidableEq, Repr

/-- The four trap registers after a delivery (21 R334, R335). -/
def Gang.trapRegs (g : Gang) (d : Delivery) : Gang :=
  { g with trapc := trapcOf d.cause d.swnum, trapa := d.trapa, trappc := BitVec.ofNat 64 d.pc, trapl := d.trapl }

/-- Enter the kernel's handler at an offset (21 R334): the trap registers, the latches, the trapping split at TRAPOFF, the others stopped. FLAGS, MODE and BLAME stay. -/
def Gang.enterHandler (g : Gang) (d : Delivery) (off : Nat) : Gang :=
  match g.splits[d.split]? with
  | none => g.trapRegs d
  | some sp =>
    { g.trapRegs d with
      x := [], service := none,
      handler := some { depths := SMap.mapV 0 (fun _ es => es.length) g.dp, entryPc := BitVec.ofNat 64 d.pc,
                        trapOff := d.trapOff, plane := d.plane, anchored := d.anchored, skip := sp.skip,
                        pfx := sp.keptPfx (if d.anchored then none else some d.plane) d.pc },
      splits := (g.splits.map (fun x => { x with stopped := true })).set d.split
        { sp.sent sp.slices sp.lanes off with stopped := false } }

/-- End a workgroup (21 R316, R340): its gangs issue no more and their lanes are gone; the launch keeps the first cause. Engine commands are dealt with where the engines are. -/
def endLaunch (s : State) (launch : Nat) (st : Status) : State :=
  match SMap.get none s.launches launch with
  | none => s
  | some l =>
    { s with launches := SMap.set none s.launches launch (some { l with status := some (l.status.getD st) }) }

/-- A gang whose workgroup is ended: no split, no lane, nothing waited for. -/
def Gang.ended (g : Gang) (lanes : W32) : Gang :=
  { g with splits := [], dp := [], exited := lanes, x := [], regions := [], service := none, handler := none,
           dbgStop := none, stopReq := none, cErr := [], cRel := [], loads := [] }

/-- A command that has started goes on to its end when its workgroup ends; one that has not is discarded (21 R340). -/
def MatCmd.goesOn (c : MatCmd) : Bool := c.state != .queued

def CopyCmd.goesOn (c : CopyCmd) : Bool := c.started

/-- Commands in counter class `cls` that a workgroup's queues hold for a gang (11 R206). -/
def Workgroup.outstanding (w : Workgroup) (gang cls : Nat) : Nat :=
  match cls with
  | 0 => (w.cq.filter (fun c => c.kind == .cpy && c.parts.any (fun p => p.1 == gang))).length
  | 1 => (w.cq.filter (fun c => c.kind != .cpy && c.gang == gang)).length
  | 2 => (w.mq.filter (fun c => c.gang == gang)).length
  | _ => 0

/-- A split that goes on in a workgroup that ends: one that is not at a latch-free point, or whose transform command has started (21 R340). A gang that waits for a service or a debugger goes no further (log 40). -/
def Split.unfinished (s : State) (core gang : Nat) (w : Workgroup) (g : Gang) (sp : Split) : Bool :=
  g.service.isNone && g.dbgStop.isNone && !sp.stopped &&
  match sp.wait with
  | .transform _ => w.xrun && w.xq.head? == some gang
  | _ => !sp.held g && !latchFree s core g sp

/-- A gang whose workgroup ends: the splits that are unfinished are left; with none, the gang has ended. -/
def Gang.stopping (s : State) (core gang : Nat) (w : Workgroup) (g : Gang) : Gang :=
  match g.splits.filter (Split.unfinished s core gang w g) with
  | [] => g.ended w.kernel.lanes
  | rest => { g with splits := rest, exited := w.kernel.lanes &&& ~~~(rest.foldl (fun m sp => m ||| sp.lanes) 0), cErr := [], stopReq := none }

/-- The workgroup as a termination or a HALT leaves it: every gang stops at its next latch-free point, and no command waits to start (21 R340). -/
def Workgroup.stopAll (s : State) (core : Nat) (w : Workgroup) : Workgroup :=
  let w' := { w with ending := true, preempt := false, mq := w.mq.filter MatCmd.goesOn, cq := w.cq.filter CopyCmd.goesOn,
                     xq := if w.xrun then w.xq.take 1 else [] }
  w'.mapGangs (fun i g =>
    { g.stopping s core i w' with c := SMap.ofFn 0 4 (fun k => BitVec.ofNat 16 (w'.outstanding i k)) })

/-- Change a launch. -/
def State.updLaunch (s : State) (n : Nat) (f : Launch → Launch) : State :=
  match SMap.get none s.launches n with
  | some l => { s with launches := SMap.set none s.launches n (some (f l)) }
  | none => s

/-- A fault service of a workgroup that arrived at TIME `since` ends: its duration and its count (23 R343, R345, R372). -/
def endService (w : Workgroup) (since : W64) (s : State) : State :=
  (s.charge w.domain 8 (s.time - since).toNat).updLaunch w.launch (fun l => { l with faults := min (l.faults + 1) (2 ^ 32 - 1) })

/-- TIMEs at which the services of the gangs of a workgroup that are in progress arrived. -/
def Workgroup.gangServices (w : Workgroup) : List W64 := w.gangs.filterMap (fun e => e.2.service.map (fun v => v.since))

/-- The same with the services of its commands. -/
def Workgroup.services (w : Workgroup) : List W64 :=
  w.gangServices ++
  (w.mq.filter (fun c => c.state == .faulted || c.state == .backing)).map (fun c => c.since) ++
  (w.cq.filter (fun c => c.state == .faulted || c.state == .backing)).map (fun c => c.since)

/-- Services of the workgroup on a core end. -/
def endServices (core : Nat) (ts : List W64) (s : State) : State :=
  ts.foldl (fun s t => endService (s.wgAt core) t s) s

/-- Services of a saved workgroup end (23 R344). -/
def endSaved (x : Saved) (s : State) : State := x.services.foldl (fun s t => endService x.wg t s) s

/-- The workgroup on a core stops; the services of its gangs end, and the RACQ requests of its gangs leave the queues. -/
def stopCore (core : Nat) (s : State) : State :=
  let s := endServices core (s.wgAt core).gangServices s
  s.setCore core { s.coreAt core with wg := some ((s.wgAt core).stopAll s core), racq := [] }

/-- End the workgroup on a core with a status; the launch records its first termination (21 R316). -/
def terminate (core : Nat) (st : Status) (s : State) : State :=
  let w := s.wgAt core
  stopCore core (endLaunch s w.launch { st with node := w.node, rank := w.rank })

/-- The status of a termination by a trap (21 R315). -/
def Delivery.status (d : Delivery) : Status :=
  ⟨d.cause.code, 0, 0, 0, d.trapl, BitVec.ofNat 64 d.pc, d.trapa⟩

/-- A split goes no further: its trap ends the workgroup. -/
def Gang.stopSplit (g : Gang) (i : Nat) : Gang :=
  match g.splits[i]? with
  | some sp => g.setSplit i { sp with stopped := true }
  | none => g

/-- Deliver a trap to the kernel's handler; with none, or inside the handler, the workgroup ends with its cause (21 R333, R334). -/
def deliver (core gang : Nat) (d : Delivery) (s : State) : State :=
  let g := s.gangAt core gang
  match (s.wgAt core).kernel.trapOff, g.handler with
  | some off, none =>
    let s := match g.splits[d.split]? with
      | some sp => emitPacket core gang 1 4 0 (srcOf core gang sp) d.tag
          (leBytes 2 (srcOf core gang sp) ++ leBytes 1 4 ++ leBytes 4 sp.lanes.toNat) s
      | none => s
    s.updGang core gang (fun g => g.enterHandler d off)
  | _, _ => terminate core d.status (s.updGang core gang (fun g => g.stopSplit d.split))

/-- The delivery of a trap of an issue. -/
def Ctx.delivery (cx : Ctx) (t : Trap) : Delivery :=
  let lane := t.lane.getD (lowLane cx.en)
  { cause := t.cause, swnum := t.swnum, trapa := t.addr, pc := cx.first,
    trapl := traplOf cx.gang cx.g cx.sp (if t.lane.isSome then none else cx.plane) lane, split := cx.split, trapOff := cx.sp.pc,
    plane := cx.plane.getD (cx.g.planeOf lane), anchored := cx.plane.isNone, tag := cx.tag }

/-- The trapping split stands again before its prefix group, whose words issue again (05 R99), with the prefixes that other planes keep; the next plane it issues is the plane of the trap (01 R46). -/
def Ctx.rewound (cx : Ctx) : Split :=
  { cx.sp with pc := cx.first, pfx := cx.sp.keptPfx cx.plane cx.first, wait := .none,
               nextPlane := if cx.first = cx.sp.pc then cx.sp.nextPlane else 0,
               replay := match cx.plane with
                 | none => cx.sp.replay
                 | some n => some (cx.sp.pc, n) }

/-- Hand a trap to the Puone cores: the gang waits at the instruction (11 R192). -/
def toPuone (cx : Ctx) (t : Trap) (s : State) : State :=
  let d := cx.delivery t
  s.updGang cx.core cx.gang (fun g =>
    { g.setSplit cx.split cx.rewound with
      service := some { cause := t.cause, addr := t.addr, faults := t.faults, malformed := t.malformed, pc := d.pc,
                        trapl := d.trapl, split := d.split, trapOff := d.trapOff, plane := d.plane,
                        anchored := d.anchored, tag := d.tag, since := s.time } })

/-- Traps that go to the Puone cores first (21 R333). -/
def Cause.puone : Cause → Bool
  | .translation | .protection | .backingExhausted | .integrity => true
  | _ => false

/-- Whether a debugger holds the launch of a workgroup (21 R319). -/
def State.hold? (s : State) (w : Workgroup) : Option Hold :=
  (SMap.get none s.launches w.launch).bind (fun l => l.hold)

/-- Deliver a trap to a waiting split of a gang, with TRAPA `a` (01 R19, R29, 19 R297). -/
def deliverAt (core gang i : Nat) (c : Cause) (a : W64) (s : State) : State :=
  let g := s.gangAt core gang
  match g.splits[i]? with
  | none => s
  | some sp =>
    let lane := lowLane sp.lanes
    deliver core gang { cause := c, swnum := 0, trapa := a, pc := sp.waitFirst, trapl := traplOf gang g sp none lane,
                        split := i, trapOff := sp.pc, plane := g.planeOf lane, anchored := true, tag := sp.waitTag } s

/-- The event record of a debugger's hold (21 R319). -/
def eventRecord (w : Workgroup) (n : Nat) (d : Delivery) : List Byte :=
  leBytes 8 (n % 2 ^ 56 * 2 ^ 8 + d.cause.code) ++ leBytes 8 d.trapa.toNat ++ leBytes 4 d.pc ++ leBytes 4 d.trapl.toNat ++
    leBytes 4 w.rank ++ leBytes 4 (w.node % 2 ^ 12)

/-- Give an event to the debugger that holds a launch (21 R319, R333): the trap registers, no latch left (01 R38), the event record in the ring, the MSI-X signal of the mailbox; the gang stays stopped. -/
def toDebugger (core gang : Nat) (h : Hold) (d : Delivery) (s : State) : State :=
  let w := s.wgAt core
  let s := s.updGang core gang (fun g => { g.trapRegs d with x := [], dbgStop := some (d.cause, d.split), stopReq := none })
  let a := h.ring.toNat + 32 * (h.events % h.records)
  let s := writeVa h.asid (BitVec.ofNat 64 a) (eventRecord w h.events d) s
  let s := { s with msix := s.msix ++ [w.mailbox] }
  match SMap.get none s.launches w.launch with
  | some l => { s with launches := SMap.set none s.launches w.launch (some { l with hold := some { h with events := h.events + 1 } }) }
  | none => s

/-- Take a trap of an issue (21 R333): to the Puone cores, to the debugger that holds the launch, or to the kernel's handler. -/
def takeTrap (cx : Ctx) (t : Trap) (s : State) : State :=
  if t.cause.puone then toPuone cx t s
  else
    match t.cause, s.hold? cx.wg with
    | .breakpoint, some h =>
      toDebugger cx.core cx.gang h (cx.delivery t) (s.updGang cx.core cx.gang (fun g => g.setSplit cx.split cx.rewound))
    | _, _ => deliver cx.core cx.gang (cx.delivery t) s

/-- Issue an instruction: with no split issuing there is no effect (log 23); a trap is taken, with no effect of the instruction. -/
def issue (s : State) (f : Ctx → Except Stop State) : Res :=
  match s.ctx? with
  | none => .next s
  | some cx =>
    match f cx with
    | .ok s' => .next s'
    | .error (.trap t) => .next (takeTrap cx t s)
    | .error (.fault x) => .fault x

/-- Require a condition, else stop. -/
def need (b : Bool) (e : Stop) : Except Stop Unit := if b then .ok () else .error e

/-- Draw the next free choice (log 16). -/
def State.draw (s : State) : State := { s with free := s.free + 1 }

end Sys2Proof.Machine
end

