-- ==== Sys2Proof/Machine/Scalar.lean ====
section
/-! DEFINITION. Scalar instructions (07 R146 to R149). -/

namespace Sys2Proof.Machine

/-- A scalar source (05 R89): a register, an inline integer, or ILLEGAL_OPERAND. -/
def scalarSource (cx : Ctx) (x : BitVec 8) : Except Stop W64 :=
  if x.toNat < 0x40 then .ok (cx.g.sreg x.toNat)
  else if x.toNat < 0x80 then .ok (BitVec.ofNat 64 (x.toNat - 0x40))
  else .error (illegalOperand cx)

/-- Source B of format S: the immediate replaces it, and its field must then be zero (05 R100, 07 R146). -/
def scalarSourceB (cx : Ctx) (b : BitVec 8) : Except Stop W64 :=
  match cx.imm with
  | some i => if b = 0 then .ok i else .error (illegalInstruction cx)
  | none => scalarSource cx b

/-- Write s[d] and retire (07 R146). -/
def putScalar (cx : Ctx) (d : Nat) (x : W64) (s : State) : State :=
  retire cx (s.setGang cx.core cx.gang (cx.g.setS d x))

/-- A scalar instruction of two sources. Word-decided traps come first, a reserved field before an operand (05 R87). -/
def scalar2 (d : BitVec 6) (a b : BitVec 8) (f : W64 → W64 → W64) (s : State) : Res :=
  issue s (fun cx => do
    let y ← scalarSourceB cx b
    let x ← scalarSource cx a
    pure (putScalar cx d.toNat (f x y) s))

/-- A scalar instruction of source A alone. -/
def scalar1 (d : BitVec 6) (a : BitVec 8) (f : W64 → W64) (s : State) : Res :=
  issue s (fun cx => do
    let x ← scalarSource cx a
    pure (putScalar cx d.toNat (f x) s))

/-! ### The operations (07 R146 to R148) -/

/-- Bits [127:64] of the product: minor 0 signed, 1 natural. -/
def mulHigh (natural : Bool) (x y : W64) : W64 :=
  if natural then BitVec.ofNat 64 (x.toNat * y.toNat / 2 ^ 64)
  else BitVec.ofInt 64 (x.toInt * y.toInt / 2 ^ 64)

/-- SDIV (07 R147): truncation toward zero, with the two fixed cases. -/
def divide (natural : Bool) (x y : W64) : W64 :=
  if y = 0 then BitVec.allOnes 64
  else if natural then BitVec.ofNat 64 (x.toNat / y.toNat)
  else BitVec.ofInt 64 (x.toInt.tdiv y.toInt)

/-- SREM (07 R147). -/
def remainder (natural : Bool) (x y : W64) : W64 :=
  if y = 0 then x
  else if natural then BitVec.ofNat 64 (x.toNat % y.toNat)
  else BitVec.ofInt 64 (x.toInt.tmod y.toInt)

/-- Signed or natural order of two words. -/
def below {w : Nat} (natural : Bool) (x y : BitVec w) : Bool :=
  if natural then decide (x.toNat < y.toNat) else decide (x.toInt < y.toInt)

def smaller {w : Nat} (natural : Bool) (x y : BitVec w) : BitVec w := if below natural y x then y else x

def larger {w : Nat} (natural : Bool) (x y : BitVec w) : BitVec w := if below natural x y then y else x

/-- SCMP: −1, 0 or +1. -/
def compare3 (natural : Bool) (x y : W64) : W64 :=
  if below natural x y then BitVec.allOnes 64 else if x = y then 0 else 1

/-- Shifts use B[5:0] only. -/
def sh6 (y : W64) : Nat := y.toNat % 64

/-- Leading zero bits of an `n`-bit value. -/
def clz (n x : Nat) : Nat := if x = 0 then n else n - 1 - Nat.log2 x

/-- One bits of an `n`-bit value. -/
def popcount : Nat → Nat → Nat
  | 0, _ => 0
  | n + 1, x => x % 2 + popcount n (x / 2)

/-- SBFE (07 R148): pos B[5:0], len min(B[14:8], 64). -/
def bitField (signed : Bool) (x y : W64) : W64 :=
  let pos := y.toNat % 64
  let len := min (bitsAt y.toNat 8 7) 64
  let f := bitsAt x.toNat pos len
  if signed ∧ len ≠ 0 ∧ f / 2 ^ (len - 1) % 2 = 1 then BitVec.ofInt 64 ((f : Int) - 2 ^ len) else BitVec.ofNat 64 f

/-! ### The instructions -/

def execSadd (d : BitVec 6) (a b : BitVec 8) (s : State) : Res := scalar2 d a b (fun x y => x + y) s
def execSsub (d : BitVec 6) (a b : BitVec 8) (s : State) : Res := scalar2 d a b (fun x y => x - y) s
def execSmul (d : BitVec 6) (a b : BitVec 8) (s : State) : Res := scalar2 d a b (fun x y => x * y) s
def execSmulh (m : BitVec 1) (d : BitVec 6) (a b : BitVec 8) (s : State) : Res := scalar2 d a b (mulHigh (m == 1)) s
def execSdiv (m : BitVec 1) (d : BitVec 6) (a b : BitVec 8) (s : State) : Res := scalar2 d a b (divide (m == 1)) s
def execSrem (m : BitVec 1) (d : BitVec 6) (a b : BitVec 8) (s : State) : Res := scalar2 d a b (remainder (m == 1)) s
def execSand (d : BitVec 6) (a b : BitVec 8) (s : State) : Res := scalar2 d a b (fun x y => x &&& y) s
def execSor (d : BitVec 6) (a b : BitVec 8) (s : State) : Res := scalar2 d a b (fun x y => x ||| y) s
def execSxor (d : BitVec 6) (a b : BitVec 8) (s : State) : Res := scalar2 d a b (fun x y => x ^^^ y) s
def execSshl (d : BitVec 6) (a b : BitVec 8) (s : State) : Res := scalar2 d a b (fun x y => x <<< sh6 y) s
def execSshr (d : BitVec 6) (a b : BitVec 8) (s : State) : Res := scalar2 d a b (fun x y => x >>> sh6 y) s
def execSsra (d : BitVec 6) (a b : BitVec 8) (s : State) : Res := scalar2 d a b (fun x y => x.sshiftRight (sh6 y)) s
def execSmin (m : BitVec 1) (d : BitVec 6) (a b : BitVec 8) (s : State) : Res := scalar2 d a b (smaller (m == 1)) s
def execSmax (m : BitVec 1) (d : BitVec 6) (a b : BitVec 8) (s : State) : Res := scalar2 d a b (larger (m == 1)) s
def execScmp (m : BitVec 1) (d : BitVec 6) (a b : BitVec 8) (s : State) : Res := scalar2 d a b (compare3 (m == 1)) s

/-- SSEL: A if the old s[D] is nonzero, otherwise B. -/
def execSsel (d : BitVec 6) (a b : BitVec 8) (s : State) : Res :=
  issue s (fun cx => do
    let y ← scalarSourceB cx b
    let x ← scalarSource cx a
    pure (putScalar cx d.toNat (if cx.g.sreg d.toNat ≠ 0 then x else y) s))

/-- SMOV takes its one operand as source B. -/
def execSmov (d : BitVec 6) (b : BitVec 8) (s : State) : Res := scalar2 d 0 b (fun _ y => y) s

/-- SMOVI (07 R149): halfword H of s[D]. -/
def execSmovi (d : BitVec 6) (h : BitVec 2) (i : BitVec 16) (s : State) : Res :=
  issue s (fun cx =>
    let x := cx.g.sreg d.toNat
    let n := 16 * h.toNat
    .ok (putScalar cx d.toNat ((x &&& ~~~(0xFFFF#64 <<< n)) ||| (i.zeroExtend 64 <<< n)) s))

def execSlea (m : BitVec 2) (d : BitVec 6) (a b : BitVec 8) (s : State) : Res :=
  scalar2 d a b (fun x y => x + (y <<< m.toNat)) s

def execSclz (d : BitVec 6) (a : BitVec 8) (s : State) : Res := scalar1 d a (fun x => BitVec.ofNat 64 (clz 64 x.toNat)) s
def execSpop (d : BitVec 6) (a : BitVec 8) (s : State) : Res := scalar1 d a (fun x => BitVec.ofNat 64 (popcount 64 x.toNat)) s
def execSbfe (m : BitVec 1) (d : BitVec 6) (a b : BitVec 8) (s : State) : Res := scalar2 d a b (bitField (m == 1)) s

end Sys2Proof.Machine
end

