-- ==== Sys2Proof/Machine/Pred.lean ====
section
/-! DEFINITION. Predicate instructions (07 R144, R145), and the checks of register operands they share with others. -/

namespace Sys2Proof.Machine

/-- A field of a format-A word that names a predicate holds 0 to 7 (07 R144). -/
def predField {n : Nat} (cx : Ctx) (x : BitVec n) : Except Stop Nat :=
  if x.toNat < 8 then .ok x.toNat else .error (illegalOperand cx)

/-- A field of a format-A word that names a scalar holds 0 to 63 (07 R144). -/
def scalarField {n : Nat} (cx : Ctx) (x : BitVec n) : Except Stop Nat :=
  if x.toNat < 64 then .ok x.toNat else .error (illegalOperand cx)

/-- Write p[d] in the lanes of E and retire. -/
def putPred (cx : Ctx) (d : Nat) (bits : W32) (s : State) : State :=
  retire cx (s.setGang cx.core cx.gang (cx.g.setP d cx.en bits))

/-- A predicate instruction of two predicates. -/
def pred2 (d : BitVec 7) (a b : BitVec 8) (f : W32 → W32 → W32) (s : State) : Res :=
  issue s (fun cx => do
    let d ← predField cx d
    let a ← predField cx a
    let b ← predField cx b
    pure (putPred cx d (f (cx.g.preg a) (cx.g.preg b)) s))

/-- A predicate instruction of one predicate; the operation sees the lanes of E. -/
def pred1 (d : BitVec 7) (a : BitVec 8) (f : W32 → W32 → W32) (s : State) : Res :=
  issue s (fun cx => do
    let d ← predField cx d
    let a ← predField cx a
    pure (putPred cx d (f cx.en (cx.g.preg a)) s))

def execPand (d : BitVec 7) (a b : BitVec 8) (s : State) : Res := pred2 d a b (fun x y => x &&& y) s
def execPor (d : BitVec 7) (a b : BitVec 8) (s : State) : Res := pred2 d a b (fun x y => x ||| y) s
def execPxor (d : BitVec 7) (a b : BitVec 8) (s : State) : Res := pred2 d a b (fun x y => x ^^^ y) s
def execPnot (d : BitVec 7) (a : BitVec 8) (s : State) : Res := pred1 d a (fun _ x => ~~~x) s

/-- PANY: OR over the lanes of E, in every lane of E. -/
def execPany (d : BitVec 7) (a : BitVec 8) (s : State) : Res :=
  pred1 d a (fun e x => if x &&& e ≠ 0 then BitVec.allOnes 32 else 0) s

/-- PALL: AND over the lanes of E. -/
def execPall (d : BitVec 7) (a : BitVec 8) (s : State) : Res :=
  pred1 d a (fun e x => if x &&& e = e then BitVec.allOnes 32 else 0) s

/-- PTOS: bit l of s[D] for the lanes of E; the other bits of s[D] stay. -/
def execPtos (d : BitVec 7) (a : BitVec 8) (s : State) : Res :=
  issue s (fun cx => do
    let d ← scalarField cx d
    let a ← predField cx a
    let e := cx.en.zeroExtend 64
    pure (putScalar cx d ((cx.g.sreg d &&& ~~~e) ||| ((cx.g.preg a).zeroExtend 64 &&& e)) s))

/-- Access to v64 to v127 needs the extended block (01 R28). -/
def regBlock (cx : Ctx) (r : Nat) : Except Stop Unit :=
  if 64 ≤ r ∧ cx.g.ext = none then .error (raise .regBlock) else .ok ()

/-- Lanes in which register `r` is not zero. -/
def nonzeroLanes (g : Gang) (r : Nat) (ls : List Nat) : W32 := maskOf (ls.filter (fun l => (g.cell r l).bits != 0))

/-- A register whose parity fails in a lane raises INTEGRITY, with the register and the lane in TRAPA (11 R216): register in [15:8], lane in [7:0] (log 32). -/
def parity (cx : Ctx) (r : Nat) : Except Stop Unit :=
  match cx.ls.find? (fun l => (cx.g.cell r l).bad) with
  | some l => .error (.trap (Trap.at .integrity l (BitVec.ofNat 64 (r * 256 + l))))
  | none => .ok ()

/-- PSET (07 R145). -/
def execPset (d : BitVec 7) (b : BitVec 8) (s : State) : Res :=
  issue s (fun cx => do
    let bits : W32 ← match cx.imm with
      | some i => if b = 0 then pure (i.truncate 32) else .error (illegalInstruction cx)
      | none =>
        if b.toNat < 0x80 then do
          let _ ← predField cx d
          regBlock cx b.toNat
          parity cx b.toNat
          pure (nonzeroLanes cx.g b.toNat cx.ls)
        else if b.toNat < 0x90 then .error (illegalOperand cx)
        else if b.toNat < 0xC0 then pure (BitVec.ofNat 32 (b.toNat - 0x90))
        else pure ((cx.g.sreg (b.toNat - 0xC0)).truncate 32)
    let d ← predField cx d
    pure (putPred cx d bits s))

end Sys2Proof.Machine
end

