-- ==== Sys2Proof/Machine/Memory.lean ====
section
/-! DEFINITION. Memory instructions (13): addresses, the order of checks (11 R214), loads, stores, scalar access, fences and prefetch. Memory events are performed one at a time at issue (log 1). -/

namespace Sys2Proof.Machine

/-- What an access does (11 R189, R228, R197). -/
inductive Acc where
  | load
  | store
  /-- an atomic, and whether it can be performed on host memory -/
  | atomic (host : Bool)
  deriving DecidableEq, Repr

def Acc.isAtomic : Acc → Bool
  | .atomic _ => true
  | _ => false

/-- Lanes with their addresses. -/
abbrev Accesses := List (Nat × W64)

/-- Permission of a leaf for an access (11 R189, R197, R228). -/
def entAllows (acc : Acc) (priv : Bool) (e : W64) : Bool :=
  (!entPriv e || priv) &&
  match acc with
  | .load => entR e
  | .store => entW e
  | .atomic host => entR e && entW e && (!entTgt e || host)

/-- A byte's walk (11 R214, check 3): nothing wrong, or the cause and whether the entry is malformed. -/
def walkFault (s : State) (core : Nat) (acc : Acc) (a : W64) : Option (Cause × Bool) :=
  match spaceOf a with
  | .global va =>
    match s.translate core (s.wgAt core).asid (va / 65536) with
    | .translation => some (.translation, false)
    | .malformed => some (.protection, true)
    | .poisoned => some (.integrity, false)
    | .beyond _ => none
    | .leaf l => if entAllows acc (s.wgAt core).priv l.entry then none else some (.protection, false)
  | _ => none

/-- The addresses whose translation decides an access of `w` bytes: its first byte and its last, which may lie in another page (11 R192). -/
def pageEnds (a : W64) (w : Nat) : List W64 := [a, a + BitVec.ofNat 64 (w - 1)]

/-- The bytes of an access. -/
def bytesOf (a : W64) (w : Nat) : List W64 := (List.range w).map (fun i => a + BitVec.ofNat 64 i)

/-- The places of an access of `w` bytes. -/
def placesOf (s : State) (core : Nat) (a : W64) (w : Nat) : List Place := (bytesOf a w).map (placeOf s core)

/-- The first access that fails a check. -/
def firstBad (xs : Accesses) (bad : Nat → W64 → Bool) : Option (Nat × W64) := xs.find? (fun x => bad x.1 x.2)

/-- Whether a leaf that an address uses is checked for races (11 R208). -/
def checkedPage (s : State) (core : Nat) (a : W64) : Bool :=
  match spaceOf a with
  | .global va =>
    match s.walk (s.wgAt core).asid (va / 65536) with
    | .leaf l => entChk l.entry
    | _ => false
  | _ => false

/-- Whether a byte of an access races (11 R210, R212). A gang or an engine of another member of the cluster node that reaches a checked scratchpad through 0xFD is neither checked nor tagged: WRITER and ACQ name gangs of one workgroup (11 R209, R210; DEDUCED, log 94). -/
def races (s : State) (core gang : Nat) (acc : Acc) (a : W64) : Bool :=
  match placeOf s core a with
  | .pad c off => c == core && (s.wgAt core).kernel.schk && padRace s core gang off acc.isAtomic
  | p =>
    match s.devOf p with
    | some pa => checkedPage s core a && pageRace s core pa acc.isAtomic
    | none => false

/-- A place beyond device memory has no effect the spec gives. -/
def beyondFault (ps : List Place) : Except Stop Unit :=
  match ps.findSome? (fun p => match p with
    | .beyond pa => some pa
    | _ => none) with
  | some pa => .error (.fault (.physicalAddress pa))
  | none => .ok ()

/-- Checks 1 to 3 of 11 R214 over the lanes: ALIGNMENT, PROTECTION for the space, the walk; `w` and `al` give the width and the alignment of each lane's access. -/
def spaceChecksBy (s : State) (core : Nat) (acc : Acc) (w al : Nat → Nat) (xs : Accesses) : Except Stop Unit := do
  match firstBad xs (fun l a => a.toNat % al l != 0) with
  | some (l, a) => throw (.trap (Trap.at .alignment l a))
  | none => pure ()
  match xs.filter (fun x => !(bytesOf x.2 (w x.1)).all (spaceOk s core) ||
      (acc.isAtomic && match spaceOf x.2 with
        | .phys _ _ _ => true
        | _ => false)) with
  | (l, a) :: rest => throw (.trap ⟨.protection, a, some l, 0, (l, a) :: rest, false⟩)
  | [] => pure ()
  let fails := xs.filterMap (fun x => ((pageEnds x.2 (w x.1)).findSome? (walkFault s core acc)).map (fun f => (x, f)))
  match fails with
  | (x, f) :: _ => throw (.trap ⟨f.1, x.2, some x.1, 0, fails.map (fun y => y.1), f.2⟩)
  | [] => pure ()
  beyondFault (xs.flatMap (fun x => placesOf s core x.2 (w x.1)))

/-- The same checks of accesses of one width. -/
def spaceChecks (s : State) (core : Nat) (acc : Acc) (w al : Nat) (xs : Accesses) : Except Stop Unit :=
  spaceChecksBy s core acc (fun _ => w) (fun _ => al) xs

/-- Check 5 of 11 R214: RACE in its lowest lane. -/
def raceCheckBy (s : State) (core gang : Nat) (acc : Acc) (w : Nat → Nat) (xs : Accesses) : Except Stop Unit :=
  match firstBad xs (fun l a => (bytesOf a (w l)).any (races s core gang acc)) with
  | some (l, a) => .error (.trap (Trap.at .race l a))
  | none => .ok ()

def raceCheck (s : State) (core gang : Nat) (acc : Acc) (w : Nat) (xs : Accesses) : Except Stop Unit :=
  raceCheckBy s core gang acc (fun _ => w) xs

/-- Check 6 of 11 R214 for bytes read: INTEGRITY with the address (11 R216, 13 R219). -/
def poisonCheckBy (s : State) (core : Nat) (w : Nat → Nat) (xs : Accesses) : Except Stop Unit :=
  match xs.findSome? (fun x => ((bytesOf x.2 (w x.1)).find? (fun a => s.poisonAt (placeOf s core a))).map (fun a => (x.1, a))) with
  | some (l, a) => .error (.trap (Trap.at .integrity l a))
  | none => .ok ()

def poisonCheck (s : State) (core w : Nat) (xs : Accesses) : Except Stop Unit := poisonCheckBy s core (fun _ => w) xs

/-- The bytes at places, as a little-endian number. -/
def State.numAt (s : State) (ps : List Place) : Nat := (ps.zipIdx).foldl (fun n x => n + (s.byteAt x.1).toNat * 2 ^ (8 * x.2)) 0

/-- The bytes of an access, as a little-endian number. -/
def State.readNum (s : State) (core : Nat) (a : W64) (w : Nat) : Nat := s.numAt (placesOf s core a w)

/-- The place is a byte of host memory. -/
def Place.onHost : Place → Bool
  | .host _ => true
  | _ => false

/-- The single-copy atomic accesses of which a lane's access of `w` bytes from a place on consists, by their offsets and lengths: one, but two for 16 bytes that cross a sector or lie on a host page, and one for each byte of packed L6X4 (11 R194, 13 R220); a record or a descriptor of more than 16 bytes, for which no rule names any, is taken byte by byte (log 107). -/
def accessUnits (first : Place) (a : W64) (w : Nat) : List (Nat × Nat) :=
  let room := 32 - a.toNat % 32
  if w = 3 ∨ 16 < w then (List.range w).map (fun i => (i, 1))
  else if room < w then [(0, room), (room, w - room)]
  else if w = 16 ∧ first.onHost = true then [(0, 8), (8, 8)]
  else [(0, w)]

/-- The bytes that a lane's load reads, each with the choice drawn for its single-copy atomic unit. -/
def State.loadPicks (s : State) (core lane : Nat) (a : W64) (w : Nat) : List (Place × Nat) :=
  let ps := placesOf s core a w
  ((accessUnits (ps.headD .none) a w).zipIdx).flatMap (fun u =>
    ((ps.drop u.1.1).take u.1.2).map (fun p => (p, Config.freeNat (s.free + 2 + 4 * lane + u.2))))

/-- What a load of a gang finds in a lane (11 R203): of each single-copy atomic unit the bytes as they stood after some write, as a free choice, where nothing orders the later writes before the load. -/
def State.loadNum (s : State) (core gang lane : Nat) (a : W64) (w : Nat) : Nat :=
  ((s.loadPicks core lane a w).zipIdx).foldl
    (fun n x => n + (s.seenByte (gangEye s core gang) x.1.2 x.1.1).toNat * 2 ^ (8 * x.2)) 0

/-- A gang has loaded a lane: no later load of its own finds older bytes there (11 R199). -/
def noteLoad (core gang w : Nat) (s : State) (x : Nat × W64) : State :=
  (s.loadPicks core x.1 x.2 w).foldl (fun t p => t.noteRead (gangEye s core gang) p.2 p.1) s

/-- The same for lanes, in order. -/
def noteLoads (core gang w : Nat) (xs : Accesses) (s : State) : State := xs.foldl (noteLoad core gang w) s

/-- The choices of a load are drawn. -/
def State.drawLoad (s : State) : State := { s with free := s.free + 130 }

/-- A gang has read a record or a descriptor of `n` bytes as a load of its own. -/
def readAsLoad (core gang : Nat) (a : W64) (n : Nat) (s : State) : State :=
  let s := noteLoad core gang n s (0, a)
  { s with free := s.free + 130 + n }

/-- Translations an instruction used are held by the TLBs. -/
def tlbUse (core : Nat) (w : Nat) (xs : Accesses) (s : State) : State :=
  xs.foldl (fun s x => (pageEnds x.2 w).foldl (fun s a => match spaceOf a with
    | .global va => s.tlbFill core (s.wgAt core).asid (va / 65536)
    | _ => s) s) s

/-- An access to a cluster scratchpad address, for CLUSTER_EXIT (07 R135). -/
def noteCluster (core : Nat) (xs : Accesses) (s : State) : State :=
  if xs.any (fun x => match spaceOf x.2 with
    | .clusterPad _ _ => true
    | _ => false) then s.setWg core { s.wgAt core with clAccessed := true } else s

/-- Every effect of an access beside its data: the free choices its translations drew, the TLBs, the cluster mark. -/
def accessed (core w : Nat) (xs : Accesses) (s : State) : State := noteCluster core xs ((tlbUse core w xs s).draw)

/-! ### Format M operands (05 R92, R93, 13 R217, R218) -/

/-- The address of each lane of E, from 32 bits of X whatever its tag. `u` is the unit of X = 127. -/
def laneAddrs (cx : Ctx) (sr : BitVec 6) (x : BitVec 7) (u : Nat) : Accesses :=
  cx.ls.map (fun l =>
    let off : W64 := if x.toNat = 127 then BitVec.ofNat 64 (l * u) else (cx.g.raw x.toNat l).bits.signExtend 64
    (l, cx.g.sreg sr.toNat + off + (cx.imm).getD 0))

/-- A range of `n` data registers: even where the width asks, not past v127 (13 R218). -/
def dataRange (cx : Ctx) (v n : Nat) (even : Bool) : Except Stop Unit := do
  need (!(even && v % 2 == 1)) (illegalOperand cx)
  need (decide (v + n ≤ 128)) (illegalOperand cx)

/-- REG_BLOCK over the offset register and a range of data registers (11 R214). -/
def dataBlocks (cx : Ctx) (x v n : Nat) : Except Stop Unit := do
  if x = 127 then pure () else regBlock cx x
  if n = 0 then pure () else regBlock cx (v + n - 1)

/-- What fails in a lane's INTEGRITY check: the first of the registers it reads whose parity fails, as register and lane; else the first byte that it may not use, which for a store is one of a page whose differs bits cannot be corrected, and otherwise any poisoned one (11 R216, 15 R246). -/
def laneError (s : State) (cx : Ctx) (acc : Acc) (regs : List Nat) (w : Nat) (x : Nat × W64) : Option W64 :=
  match regs.find? (fun r => (cx.g.cell r x.1).bad) with
  | some r => some (BitVec.ofNat 64 (r * 256 + x.1))
  | none => (bytesOf x.2 w).find? (fun a => if acc = .store then s.badPage (placeOf s cx.core a) else s.poisonAt (placeOf s cx.core a))

/-- Check 6 of 11 R214: INTEGRITY in its lowest lane, over the registers and the bytes that each lane reads (13 R219). -/
def integrityCheck (s : State) (cx : Ctx) (acc : Acc) (regs : Nat → List Nat) (w : Nat → Nat) (xs : Accesses) : Except Stop Unit :=
  match xs.findSome? (fun x => (laneError s cx acc (regs x.1) (w x.1) x).map (fun a => (x.1, a))) with
  | some (l, a) => .error (.trap (Trap.at .integrity l a))
  | none => .ok ()

def xRegs (x : Nat) : List Nat := if x = 127 then [] else [x]

/-! ### Loads (13 R222 to R224) -/

/-- The bits of the registers a load fills in one lane, from the little-endian value of its bytes. -/
def loadWords (w : Nat) (f : Nat) (x : Nat) : List W32 :=
  if w = 1 then [if f = 1 then (BitVec.ofNat 8 x).signExtend 32 else BitVec.ofNat 32 x]
  else if w = 2 then [if f = 1 then (BitVec.ofNat 16 x).signExtend 32 else BitVec.ofNat 32 x]
  else if w = 3 then
    [BitVec.ofNat 32 (bitsAt x 0 6 + bitsAt x 6 6 * 2 ^ 8 + bitsAt x 12 6 * 2 ^ 16 + bitsAt x 18 6 * 2 ^ 24)]
  else (List.range (w / 4)).map (fun j => BitVec.ofNat 32 (x / 2 ^ (32 * j)))

/-- Write the words of one lane to consecutive registers. -/
def Gang.setWords (g : Gang) (v l : Nat) (tag : Tag) (ws : List W32) : Gang :=
  (ws.zipIdx).foldl (fun g x => g.setV (v + x.2) l x.1 tag) g

/-- Whether a load of a width accepts a tag code (13 R222). -/
def loadAccepts (w f : Nat) : Bool :=
  if w ≤ 2 then f ≤ 2 else if w = 4 then f ≤ 10 else f ≤ 9 || f == 11 || f == 12

/-- An access reaches a page of host memory. -/
def hostAccess (s : State) (core w : Nat) (xs : Accesses) : Bool :=
  xs.any (fun a => (placesOf s core a.2 w).any Place.onHost)

/-- A load of `w` bytes a lane (13 R223). -/
def loadOp (w : Nat) (v : BitVec 7) (sr : BitVec 6) (x : BitVec 7) (f : BitVec 4) (s : State) : Res :=
  issue s (fun cx => do
    let fc := f.toNat
    need (decide (fc < 13)) (illegalInstruction cx)
    need (loadAccepts w fc) (illegalOperand cx)
    let w' := if w = 4 ∧ fc = 10 then 3 else w
    let n := (w + 3) / 4
    dataRange cx v.toNat n (decide (8 ≤ w))
    dataBlocks cx x.toNat v.toNat n
    let xs := laneAddrs cx sr x w'
    spaceChecks s cx.core .load w' (if w' = 3 then 1 else min w' 8) xs
    raceCheck s cx.core cx.gang .load w' xs
    integrityCheck s cx .load (fun _ => xRegs x.toNat) (fun _ => w') xs
    let (g, s') := xs.foldl (fun (st : Gang × State) a =>
      (st.1.setWords v.toNat a.1 (Tag.ofCode fc) (loadWords w' fc (st.2.loadNum cx.core cx.gang a.1 a.2 w')),
        noteLoad cx.core cx.gang w' st.2 a)) (cx.g, s)
    let g := { g with loads := g.loads ++ [⟨v.toNat, n, cx.en, false, false, hostAccess s cx.core w' xs⟩] }
    pure (retire cx ((accessed cx.core w' xs s'.drawLoad).setGang cx.core cx.gang g)))

def execLdb (v : BitVec 7) (sr : BitVec 6) (x : BitVec 7) (f : BitVec 4) (s : State) : Res := loadOp 1 v sr x f s
def execLdh (v : BitVec 7) (sr : BitVec 6) (x : BitVec 7) (f : BitVec 4) (s : State) : Res := loadOp 2 v sr x f s
def execLdw (v : BitVec 7) (sr : BitVec 6) (x : BitVec 7) (f : BitVec 4) (s : State) : Res := loadOp 4 v sr x f s
def execLdd (v : BitVec 7) (sr : BitVec 6) (x : BitVec 7) (f : BitVec 4) (s : State) : Res := loadOp 8 v sr x f s
def execLdq (v : BitVec 7) (sr : BitVec 6) (x : BitVec 7) (f : BitVec 4) (s : State) : Res := loadOp 16 v sr x f s

/-! ### Stores (13 R225, R226) -/

/-- The value a store writes in one lane, of `w` bytes: the bits that the registers hold, whatever their tags. -/
def storeNum (g : Gang) (w v l : Nat) : Nat :=
  if w = 3 then
    let x := (g.raw v l).bits.toNat
    bitsAt x 0 6 + bitsAt x 8 6 * 2 ^ 6 + bitsAt x 16 6 * 2 ^ 12 + bitsAt x 24 6 * 2 ^ 18
  else (List.range ((w + 3) / 4)).foldl (fun n j => n + (g.raw (v + j) l).bits.toNat * 2 ^ (32 * j)) 0

/-- The bytes of a value with the places they go to. -/
def placed (ps : List Place) (x : Nat) : List (Place × Byte) := (ps.zipIdx).map (fun p => (p.1, byteOf x p.2))

/-- Pages of default regions to which a lane writes a byte that differs from the pattern (15 R247). -/
def differingPages (s : State) (l : Nat) (a : W64) (ws : List (Place × Byte)) : List (Nat × W64 × Nat × Nat) :=
  ws.filterMap (fun x => match x.1 with
    | .page i n off =>
      match SMap.get none s.regions i with
      | some r => if x.2 = r.pattern off then none else some (l, a, i, n)
      | none => none
    | _ => none)

/-- BACKING_EXHAUSTED of a lane (15 R247). -/
def backingTrap (l : Nat) (a : W64) : Stop := .trap (Trap.at .backingExhausted l a)

/-- Take the provisional pages of an instruction (15 R247). -/
def provision (s : State) (wanted : List (Nat × W64 × Nat × Nat)) : Except Stop (State × Provs) :=
  match takeProvs s wanted [] with
  | .ok r => .ok r
  | .error (l, a) => .error (backingTrap l a)

/-- Offsets in the scratchpad of a core among places. -/
def padOffs (core : Nat) (ps : List Place) : List Nat :=
  ps.filterMap (fun p => match p with
    | .pad c off => if c = core then some off else none
    | _ => none)

/-- Race tags of a write by a gang (11 R210, R212): its scratchpad bytes, and its bytes on checked pages. -/
def tagWrite (cx : Ctx) (a : W64) (ps : List Place) (atomic : Bool) (s : State) : State :=
  let s := padTag cx.core cx.gang (padOffs cx.core ps) atomic s
  let pas := ((bytesOf a ps.length).zip ps).filterMap (fun x => if checkedPage s cx.core x.1 then s.devOf x.2 else none)
  if pas.isEmpty then s else pageTag cx.core pas atomic s

/-- Whether bytes meet a watched range of the workgroup (23 R373). -/
def watched (w : Workgroup) (a : W64) (n : Nat) : Bool :=
  w.watch.any (fun e => match e.2 with
    | some (b, size) => decide (a.toNat < b.toNat + size ∧ b.toNat < a.toNat + n)
    | none => false)

/-- Size code of a DV packet (23 R355). -/
def sizeCode (n : Nat) : Nat := if n ≤ 4 then n - 1 else 4

/-- The DV packets of one lane's write of given bytes, when they meet a watched range (23 R359): a 16-byte access emits two, the low 8 bytes first. -/
def emitDv (cx : Ctx) (lane : Nat) (a : W64) (ws : List (Place × Byte)) (s : State) : State :=
  let one := fun (s : State) (k : Nat) =>
    let part := (ws.drop (8 * k)).take 8
    let a' := a + BitVec.ofNat 64 (8 * k)
    cx.emit 5 8 0 (leBytes 1 (sizeCode part.length * 32 + lane) ++ leBytes 8 a'.toNat ++ leBytes 4 cx.sp.pc ++ cx.g.top3 ++
      part.map (fun x => s.byteAt x.1) ++ part.map (fun x => x.2)) s
  if !(s.gangAt cx.core cx.gang).traceEn.getLsbD 5 || !watched cx.wg a ws.length then s
  else (List.range ((ws.length + 7) / 8)).foldl one s

/-- One lane's write, one single-copy atomic access after another (11 R194). -/
def laneWrite (cx : Ctx) (lane : Nat) (a : W64) (ws : List (Place × Byte)) (st : State × Provs) : State × Provs :=
  let r := (accessUnits ((ws.map (fun x => x.1)).headD .none) a ws.length).foldl (fun st u => writePlaces ((ws.drop u.1).take u.2) st.2 st.1) (emitDv cx lane a ws st.1, st.2)
  (tagWrite cx a (ws.map (fun x => x.1)) false r.1, r.2)

/-- The writes of a store's lanes, in ascending order, and its provisional pages returned (15 R247); a poisoned unit that its lanes overwrite together is whole again (11 R216). -/
def storeLanes (cx : Ctx) (w : Nat) (val : Nat → Nat) (xs : Accesses) (s : State) (ps : Provs) : State :=
  let s := clearPoison (xs.flatMap (fun x => placesOf s cx.core x.2 w)) s
  let r := xs.foldl (fun st x => laneWrite cx x.1 x.2 (placed (placesOf s cx.core x.2 w) (val x.1)) st) (s, ps)
  returnProvs r.2 r.1

/-- A store that reaches host memory is outstanding until its return (23 R344). -/
def hostStore (cx : Ctx) (w : Nat) (xs : Accesses) (s0 s : State) : State :=
  if hostAccess s0 cx.core w xs then
    s.updGang cx.core cx.gang (fun g => { g with loads := g.loads ++ [⟨0, 0, cx.lanes, false, false, true⟩] })
  else s

/-- A store of `w` bytes a lane (13 R225). The gang's registers are those the checks saw. -/
def storeOp (w : Nat) (v : BitVec 7) (sr : BitVec 6) (x : BitVec 7) (f : BitVec 4) (s : State) : Res :=
  issue s (fun cx => do
    need (f == 0 || f == 10) (illegalInstruction cx)
    need (f == 0 || w == 4) (illegalOperand cx)
    let w' := if f = 10 then 3 else w
    let n := (w + 3) / 4
    dataRange cx v.toNat n (decide (8 ≤ w))
    dataBlocks cx x.toNat v.toNat n
    let xs := laneAddrs cx sr x w'
    spaceChecks s cx.core .store w' (if w' = 3 then 1 else min w' 8) xs
    let val := fun l => storeNum cx.g w' v.toNat l
    let (s', ps) ← provision s (xs.flatMap (fun a =>
      differingPages s a.1 a.2 (placed (placesOf s cx.core a.2 w') (val a.1))))
    raceCheck s cx.core cx.gang .store w' xs
    integrityCheck s cx .store (fun _ => xRegs x.toNat ++ (List.range n).map (fun j => v.toNat + j)) (fun _ => w') xs
    pure (retire cx (hostStore cx w' xs s (accessed cx.core w' xs (storeLanes cx w' val xs s' ps)))))

def execStb (v : BitVec 7) (sr : BitVec 6) (x : BitVec 7) (f : BitVec 4) (s : State) : Res := storeOp 1 v sr x f s
def execSth (v : BitVec 7) (sr : BitVec 6) (x : BitVec 7) (f : BitVec 4) (s : State) : Res := storeOp 2 v sr x f s
def execStw (v : BitVec 7) (sr : BitVec 6) (x : BitVec 7) (f : BitVec 4) (s : State) : Res := storeOp 4 v sr x f s
def execStd (v : BitVec 7) (sr : BitVec 6) (x : BitVec 7) (f : BitVec 4) (s : State) : Res := storeOp 8 v sr x f s
def execStq (v : BitVec 7) (sr : BitVec 6) (x : BitVec 7) (f : BitVec 4) (s : State) : Res := storeOp 16 v sr x f s

/-! ### Scalar load and store (13 R227) -/

/-- The single access of SLD and SST; its traps name lane 0. -/
def scalarAccess (cx : Ctx) (sr : BitVec 6) : Accesses := [(0, cx.g.sreg sr.toNat + (cx.imm).getD 0)]

/-- SLD. -/
def execSld (d : BitVec 6) (sr : BitVec 6) (f : BitVec 4) (s : State) : Res :=
  issue s (fun cx => do
    need (decide (f.toNat < 7)) (illegalInstruction cx)
    let w := 2 ^ (f.toNat % 4)
    let xs := scalarAccess cx sr
    spaceChecks s cx.core .load w w xs
    raceCheck s cx.core cx.gang .load w xs
    poisonCheck s cx.core w xs
    let x := s.loadNum cx.core cx.gang 0 (cx.g.sreg sr.toNat + (cx.imm).getD 0) w
    let s' := noteLoads cx.core cx.gang w xs s
    let y : W64 := if 4 ≤ f.toNat then (BitVec.ofNat (8 * w) x).signExtend 64 else BitVec.ofNat 64 x
    let g := { cx.g.setS d.toNat y with
               loads := cx.g.loads ++ [⟨d.toNat, 1, cx.sp.lanes, false, true, hostAccess s cx.core w xs⟩] }
    pure (retire cx ((accessed cx.core w xs s'.drawLoad).setGang cx.core cx.gang g)))

/-- SST. -/
def execSst (d : BitVec 6) (sr : BitVec 6) (f : BitVec 4) (s : State) : Res :=
  issue s (fun cx => do
    need (decide (f.toNat < 4)) (illegalInstruction cx)
    let w := 2 ^ f.toNat
    let xs := scalarAccess cx sr
    spaceChecks s cx.core .store w w xs
    let val := (cx.g.sreg d.toNat).toNat
    let (s', ps) ← provision s (xs.flatMap (fun a => differingPages s a.1 a.2 (placed (placesOf s cx.core a.2 w) val)))
    raceCheck s cx.core cx.gang .store w xs
    integrityCheck s cx .store (fun _ => []) (fun _ => w) xs
    pure (retire cx (hostStore cx w xs s (accessed cx.core w xs (storeLanes cx w (fun _ => val) xs s' ps)))))

/-! ### Fences and prefetch (13 R233 to R235) -/

/-- A release fence: the gang's later atomic writes carry it (11 R201, R209), with those before it of a wider scope, which it does not replace. -/
def fenceRelease (core gang scope : Nat) (s : State) : State :=
  let s := releaseAt core gang scope s
  if scope = 0 then s
  else
    let r := relOf s core gang scope
    s.updGang core gang (fun g => { g with relFence := g.relFence.filter (fun x => decide (scope < x.scope)) ++ [r] })

/-- An acquire fence: the releases that the gang's earlier atomics read, and whose scopes and its own meet, are acquired (11 R200, R201). -/
def fenceAcquire (core gang scope : Nat) (s : State) : State :=
  raceAcquire core gang ((s.gangAt core gang).seen.filter (RelInfo.meets (s.wgAt core) core scope)) s

/-- FENCE: kinds 0 ACQ, 1 REL, 2 AR, 3 SC (13 R233). Every earlier event has been performed at issue (log 1); AR and SC acquire first, so that their release carries what they acquired. -/
def execFence (sc : BitVec 3) (k : BitVec 2) (s : State) : Res :=
  issue s (fun cx => do
    need (decide (sc.toNat < 6)) (illegalInstruction cx)
    let s := if k = 1 then s else fenceAcquire cx.core cx.gang sc.toNat s
    let s := if k = 0 then s else fenceRelease cx.core cx.gang sc.toNat s
    pure (retire cx s))

/-- A store or an atomic of the gang is outstanding. -/
def Gang.atomicsOut (g : Gang) : Bool := g.loads.any (fun p => p.atomic || p.n == 0)

/-- Discard the instruction words a core has fetched or buffered (13 R234). -/
def discardFetched (core : Nat) (s : State) : State := s.setCore core { s.coreAt core with ibuf := s.mem }

/-- IFENCE: it waits for the gang's earlier stores and atomics; the discard is immediate where none is outstanding, and otherwise the step IFENCE_DISCARD. -/
def execIfence (s : State) : Res :=
  issue s (fun cx => .ok (
    if cx.g.atomicsOut then waitAt cx .ifence s else retire cx (discardFetched cx.core s)))

/-- Whether a PRF lane has an effect (13 R235): a line of a mapped, readable, backed page. R235 names no alignment, and the permission that would make a walk of .WR or .TR fault is not said: the model asks for a multiple of the 128-byte line, and for R whatever the kind (DESIGN CHOICE, log 95). -/
def prfLane (s : State) (core : Nat) (a : W64) : Bool :=
  match spaceOf a with
  | .global va =>
    decide (va % 128 = 0) &&
    match s.walk (s.wgAt core).asid (va / 65536) with
    | .leaf l => entV l.entry && entAllows .load (s.wgAt core).priv l.entry
    | _ => false
  | _ => false

/-- PRF: it changes no value; the translations of its lanes may be held by the TLBs. -/
def execPrf (sr : BitVec 6) (x : BitVec 7) (f : BitVec 4) (s : State) : Res :=
  issue s (fun cx => do
    need (decide (f.toNat < 3)) (illegalInstruction cx)
    dataBlocks cx x.toNat 0 0
    let xs := (laneAddrs cx sr x 128).filter (fun a => prfLane s cx.core a.2)
    pure (retire cx (tlbUse cx.core 1 xs s)))

end Sys2Proof.Machine
end

