-- ==== Sys2Proof/Machine/Edge.lean ====
section
/-! DEFINITION. Who may see trace and edges (25 R383), and edge records (19 R307, R308, 23 R361, R362). -/

namespace Sys2Proof.Machine

/-- Write bytes at a physical address of device memory. -/
def writeDev (pa : Nat) (bs : List Byte) (s : State) : State :=
  writePlain ((bs.zipIdx).map (fun x => (Place.dev (pa + x.2), x.1))) s

/-- The writer of trace and edge records of a die writes at a physical address (23 R349). -/
def collectorDev (die pa : Nat) (bs : List Byte) (s : State) : State := asAgent (collectorOf die) (writeDev pa bs) s

/-! ### Who may see what (25 R383) -/

/-- Whether a tenant is in TENANT_DEBUG through some binding of its own. -/
def State.tenantDebugOf (s : State) (tenant : Nat) : Bool :=
  s.tenantDebug.any (fun e => e.2.isSome && ((SMap.get Mailbox.empty s.mail e.1).bound.map (fun b => b.tenant)) == some tenant)

/-- Whether a launch is the holder's own: of its tenant, and under system software called through mailbox 63. -/
def ownLaunch (w : Workgroup) (holder : Nat) : Bool :=
  if holder = 0xFFFF then w.mailbox == 63 else w.tenant == holder

/-- The edge buffer's holder may see a launch (23 R350, 25 R383). -/
def State.edgeVisible (s : State) (w : Workgroup) (holder : Nat) : Bool :=
  match s.security with
  | .locked => ownLaunch w holder
  | .vendorDebug | .opened => ownLaunch w holder || holder == 0xFFFF

/-- The permit mask of a launch's gangs on a die (23 R350, 25 R383). -/
def State.permitOf (s : State) (w : Workgroup) (die : Nat) : BitVec 8 :=
  let b := SMap.get TraceBuf.off s.traces die
  if !b.en then 0
  else
    match s.security with
    | .locked =>
      if ownLaunch w b.holder then (if s.tenantDebugOf w.tenant then 0xFF else 0x80) else 0
    | .vendorDebug =>
      if ownLaunch w b.holder || b.holder == 0xFFFF then (if w.priv then 0x80 else 0xFF) else 0
    | .opened => if ownLaunch w b.holder || b.holder == 0xFFFF then 0xFF else 0

/-! ### Edge records -/

/-- An edge (19 R308). -/
structure Edge where
  relclk : W64
  arrclk : W64
  ptop : BitVec 16
  ctop : BitVec 16
  cons : Nat
  prod : Nat
  obj : Nat
  pred : W64
  id : W64
  deriving DecidableEq, Repr

/-- The 48 bytes of an edge. -/
def Edge.bytes (e : Edge) : List Byte :=
  leBytes 8 e.id.toNat ++ leBytes 8 e.pred.toNat ++ leBytes 4 e.obj ++ leBytes 4 e.prod ++ leBytes 4 e.cons ++
    leBytes 2 e.ctop.toNat ++ leBytes 2 e.ptop.toNat ++ leBytes 8 e.arrclk.toNat ++ leBytes 8 e.relclk.toNat

def State.edgeBuf (s : State) (die : Nat) : EdgeBuf := SMap.get EdgeBuf.off s.edges die

def State.setEdgeBuf (s : State) (die : Nat) (b : EdgeBuf) : State := { s with edges := SMap.set EdgeBuf.off s.edges die b }

/-- Units of a ring that hold no unconsumed data; RDCNT is read from the descriptor, which the consumer writes (23 R349). -/
def State.unitFree (s : State) (desc wr nunits : Nat) : Bool :=
  decide (wr - (s.dev64 (desc + 24)).toNat < nunits)

/-- Write the next unit of an edge buffer, and WRCNT. -/
def putEdgeUnit (die : Nat) (bs : List Byte) (s : State) : State :=
  let b := s.edgeBuf die
  let s := collectorDev die (b.base + b.wr % b.nunits * 48) bs s
  let s := collectorDev die (b.desc + 16) (leBytes 8 (b.wr + 1)) s
  s.setEdgeBuf die { b with wr := b.wr + 1 }

/-- A pending pair record is written into the first free unit, before any LOSS record (23 R362). -/
def flushPair (die : Nat) (s : State) : State :=
  let b := s.edgeBuf die
  match b.pair with
  | some (c, t, f) =>
    if b.en && s.unitFree b.desc b.wr b.nunits then
      let s := putEdgeUnit die ((⟨t, c, 0, 0, 0, f, 0xFFFFFFFE, 0, 0⟩ : Edge).bytes) s
      s.setEdgeBuf die { s.edgeBuf die with pair := none }
    else s
  | none => s

/-- A LOSS record is written when a unit is free after drops (23 R361). -/
def flushLoss (die : Nat) (s : State) : State :=
  let b := s.edgeBuf die
  if b.en && decide (0 < b.dropped) && b.pair.isNone && s.unitFree b.desc b.wr b.nunits then
    let e : Edge := ⟨b.dropClock2, b.dropClock1, 0, 0, 0, min b.dropped (2 ^ 32 - 1), 0xFFFFFFFF, b.dropLast, b.dropFirst⟩
    let s := putEdgeUnit die e.bytes s
    s.setEdgeBuf die { s.edgeBuf die with dropped := 0 }
  else s

/-- EDGE_LOSS_WRITE: the pending pair and LOSS records go into free units (23 R361, R362). -/
def execEdgeLossWrite (die : Nat) (s : State) : Res := .next (flushLoss die (flushPair die s))

/-- Umber writes an edge into its die's buffer, or drops it (23 R361). Records that are pending go first. -/
def putEdge (die : Nat) (e : Edge) (s : State) : State :=
  let s := flushLoss die (flushPair die s)
  let b := s.edgeBuf die
  if decide (b.dropped = 0) && b.pair.isNone && s.unitFree b.desc b.wr b.nunits then putEdgeUnit die e.bytes s
  else
    let now := SMap.get 0 s.clock die
    let first := decide (b.dropped = 0)
    s.setEdgeBuf die { b with dropFirst := if first then e.id else b.dropFirst, dropLast := e.id, dropped := b.dropped + 1,
                              dropClock1 := if first then now else b.dropClock1, dropClock2 := now }

/-- Agent id of a gang (19 R282). -/
def gangAgent (core gang : Nat) : Nat :=
  dieOf core * 2 ^ 30 + core % Config.coresPerDie * 2 ^ 23 + gang * 2 ^ 19

/-- Agent id of an engine command: kinds 1 copy, 2 gather or scatter, 3 matrix (19 R282). -/
def engineAgent (core gang kind serial : Nat) : Nat := gangAgent core gang + kind * 2 ^ 16 + serial % 2 ^ 16

/-- Object word of an object of a core (19 R283). -/
def objWord (core kind index : Nat) : Nat :=
  kind * 2 ^ 28 + dieOf core * 2 ^ 26 + core % Config.coresPerDie * 2 ^ 19 + index

/-- Write the edge of a release: it takes the die's next serial, the gang's BLAME becomes its id (19 R307), and an EDGE packet follows (23 R356). -/
def writeEdge (core gang : Nat) (src obj : Nat) (from_ : LastArr) (s : State) : State :=
  let die := dieOf core
  let b := s.edgeBuf die
  let serial := b.serials + 1
  let id : W64 := BitVec.ofNat 64 (s.devid * 2 ^ 44 + die * 2 ^ 42 + serial % 2 ^ 42)
  let g := s.gangAt core gang
  let e : Edge := { relclk := s.clockAt core, arrclk := from_.clock, ptop := from_.top, ctop := g.top,
                    cons := gangAgent core gang, prod := from_.agent.toNat % 2 ^ 32, obj := obj, pred := from_.blame, id := id }
  let s := s.setEdgeBuf die { b with serials := serial }
  let s := if b.en && s.edgeVisible (s.wgAt core) b.holder then putEdge die e s else s
  let s := s.updGang core gang (fun g => { g with blame := id })
  emitPacket core gang 7 0xA 0 src none (leBytes 8 id.toNat ++ leBytes 8 from_.blame.toNat ++ leBytes 4 obj) s

end Sys2Proof.Machine
end

