-- ==== Sys2Proof/Machine/Ready.lean ====
section
/-! DEFINITION. Readiness (21 R322 to R325), the ready pools (21 R324, R327) and the choice of workgroups to pre-empt (21 R330). -/

namespace Sys2Proof.Machine

/-! ### Nodes -/

/-- The node of a launch. -/
def State.nodeOf (s : State) (launch node : Nat) : Option Node :=
  (SMap.get none s.launches launch).bind (fun l => l.nodes[node]?)

def State.setNode (s : State) (launch node : Nat) (n : Node) : State :=
  s.updLaunch launch (fun l => { l with nodes := l.nodes.set node n })

/-- A queue has space for a record. -/
def Node.space (n : Node) : Bool := decide (n.pushed - n.freed < n.qsize)

/-- Two operands share a page and one of them is written (21 R322, R324). -/
def clash (a b : Bool × Nat × Nat) : Bool :=
  (a.1 || b.1) && decide (a.2.1 < b.2.1 + b.2.2 ∧ b.2.1 < a.2.1 + a.2.2)

/-- A node holds its operands (21 R324). -/
def Node.holds (n : Node) : Bool :=
  if n.mode1 then decide (0 < n.fired ∨ 0 < n.running) else n.ready && !n.complete

/-- No other node of the address space that holds operands conflicts with the node (21 R324). -/
def operandsFree (s : State) (launch node : Nat) (asid : Nat) (n : Node) : Bool :=
  s.launches.all (fun e => match e.2 with
    | none => true
    | some l =>
      l.closed || l.asid != asid ||
      (l.nodes.zipIdx).all (fun x =>
        (e.1 == launch && x.2 == node) || !x.1.holds || !(x.1.opnds.any (fun a => n.opnds.any (clash a)))))

/-- A node completes: the predecessor counts of its successors fall (21 R323). -/
def completeNode (launch node : Nat) (s : State) : State :=
  match s.nodeOf launch node with
  | none => s
  | some n =>
    n.succs.foldl (fun s k => match s.nodeOf launch k with
      | some m => s.setNode launch k { m with preds := m.preds - 1 }
      | none => s) (s.setNode launch node { n with complete := true })

/-- Add ready work behind all that became ready before; it is at the driver until its pool takes it (21 R324). -/
def pushReady (launch node : Nat) (n : Node) (stamp : W64) (job : Job) (s : State) : State :=
  { s with ready := s.ready ++ [⟨launch, node, job, n.dies.headD 0, n.prio, none, stamp⟩] }

/-- Records in the queue that no fired batch holds. -/
def Node.unclaimed (n : Node) : Nat := n.pushed - n.freed - n.fired

/-- Size of the batch that fires next: the oldest records, at most COUNT, up to the ring's wrap point (21 R325). -/
def Node.batch (n : Node) : Nat := min (min n.unclaimed n.count) (n.qsize - (n.freed + n.fired) % n.qsize)

/-- The coalescing rule: the threshold, or every predecessor complete; the timeout is a step of its own (21 R325). -/
def Node.fires (n : Node) : Bool :=
  decide (0 < n.unclaimed) && (decide (n.thresh ≤ n.unclaimed) || n.preds == 0)

/-- Fire one batch. -/
def fireBatch (launch node : Nat) (n : Node) (stamp : W64) (s : State) : State :=
  pushReady launch node n stamp (.batch n.batch) (s.setNode launch node { n with fired := n.fired + n.batch })

/-- A record-driven node has no record left and none to come: it completes (21 R323). -/
def Node.drained (n : Node) : Bool := n.preds == 0 && n.pushed == n.freed && n.running == 0 && n.fired == 0

/-- Make a node, or the batches of a node, ready when they may be (21 R324, R325). -/
def readyNode (launch node : Nat) : Nat → State → State
  | 0, s => s
  | fuel + 1, s =>
    match SMap.get none s.launches launch, s.nodeOf launch node with
    | some l, some n =>
      if l.status.isSome || n.complete then s
      else if n.mode1 then
        if n.fires && operandsFree s launch node l.asid n then
          readyNode launch node fuel (fireBatch launch node n l.stamp s)
        else if n.drained then completeNode launch node s
        else s
      else if !n.ready && n.preds == 0 && operandsFree s launch node l.asid n then
        let s := s.setNode launch node { n with ready := true, readyAt := s.time }
        if n.count = 0 then completeNode launch node s else pushReady launch node n l.stamp .fixed s
      else s
    | _, _ => s

/-- Insert by a key, after equal keys. -/
def insertBy {α : Type} (less : α → α → Bool) (x : α) : List α → List α
  | [] => [x]
  | y :: r => if less x y then x :: y :: r else y :: insertBy less x r

def sortBy {α : Type} (less : α → α → Bool) (xs : List α) : List α := xs.foldl (fun acc x => insertBy less x acc) []

/-- Every node, by the stamp of its launch and its index (21 R324). -/
def State.allNodes (s : State) : List (Nat × Nat) :=
  let ls := s.launches.filterMap (fun e => match e.2 with
    | some l => if l.closed then none else some (e.1, l)
    | none => none)
  (sortBy (fun a b => decide (a.2.stamp.toNat < b.2.stamp.toNat)) ls).flatMap (fun x =>
    (List.range x.2.nodes.length).map (fun n => (x.1, n)))

/-- A node may become ready, fire a batch, or complete, now (21 R323 to R325). -/
def State.mayMove (s : State) (x : Nat × Nat) : Bool :=
  match SMap.get none s.launches x.1, s.nodeOf x.1 x.2 with
  | some l, some n =>
    l.status.isNone && !n.complete &&
    (if n.mode1 then (n.fires && operandsFree s x.1 x.2 l.asid n) || n.drained
     else !n.ready && n.preds == 0 && operandsFree s x.1 x.2 l.asid n)
  | _, _ => false

/-- A node that would complete in the instant in which it becomes ready: it has no workgroup (21 R323). -/
def State.passing (s : State) (x : Nat × Nat) : Bool :=
  (s.nodeOf x.1 x.2).elim false (fun n => if n.mode1 then n.unclaimed == 0 else n.count == 0)

/-- Operands of two nodes of one address space clash. -/
def State.contend (s : State) (x y : Nat × Nat) : Bool :=
  let asid := fun (n : Nat) => (SMap.get none s.launches n).map (fun l => l.asid)
  match s.nodeOf x.1 x.2, s.nodeOf y.1 y.2 with
  | some a, some b => asid x.1 == asid y.1 && a.opnds.any (fun p => b.opnds.any (clash p))
  | _, _ => false

/-- A node that completes without its operands: a MODE 1 node with no record left (21 R323). -/
def State.ending (s : State) (x : Nat × Nat) : Bool := (s.nodeOf x.1 x.2).elim false (fun n => n.mode1 && n.drained)

/-- The node that becomes ready next among those that may: the first that completes in that instant and needs no operands for it, or that no earlier one contends with, for it may set free an earlier node that would then come first in the tie; with none, the first (21 R323, R324). -/
def State.nextNode (s : State) (xs : List (Nat × Nat)) : Option (Nat × Nat) :=
  (((xs.zipIdx).find? (fun x => s.passing x.1 && (s.ending x.1 || (xs.take x.2).all (fun y => !s.contend y x.1)))).map
    (fun x => x.1)).orElse (fun _ => xs.head?)

/-- One node becomes ready, with all of its batches that may fire, or completes. -/
def settleOne (s : State) : State :=
  match s.nextNode (s.allNodes.filter s.mayMove) with
  | some x => readyNode x.1 x.2 ((s.nodeOf x.1 x.2).elim 1 (fun n => n.unclaimed + 1)) s
  | none => s

/-- Until nothing more becomes ready; a node moves at most twice, when it becomes ready and when it completes. -/
def settleNodes (s : State) : State := (List.range (2 * s.allNodes.length + 1)).foldl (fun s _ => settleOne s) s

/-! ### The pools (21 R324, R327) -/

/-- The die of an entry's next dispatch (21 R326). -/
def State.entryDie (s : State) (e : Entry) : Nat :=
  match e.job with
  | .saved _ => e.die
  | .batch _ => e.die
  | .fixed =>
    match s.nodeOf e.launch e.node with
    | none => e.die
    | some n => (n.dies[(if n.cluster then n.nextRank / 4 else n.nextRank) % n.dies.length]?).getD e.die

/-- Each pool of 1,024 entries takes the work that waits at the driver, in the order in which it became ready. -/
def poolFill (s : State) : State :=
  let step := fun (acc : List Entry × SMap Nat) (e : Entry) =>
    let d := s.entryDie e
    let n := SMap.get 0 acc.2 d
    let e := match e.since with
      | some _ => e
      | none => if n < 1024 then { e with since := some s.time } else e
    (acc.1 ++ [e], SMap.set 0 acc.2 d (n + 1))
  { s with ready := (s.ready.foldl step ([], [])).1 }

/-- Entry `a` dispatches before entry `b`: the higher level, the earlier arrival at it, the earlier stamp, the lower node index (21 R327). -/
def Entry.before (a b : Entry) : Bool :=
  let ta := (a.since.getD 0).toNat
  let tb := (b.since.getD 0).toNat
  if a.level ≠ b.level then decide (b.level < a.level)
  else if ta ≠ tb then decide (ta < tb)
  else if a.stamp ≠ b.stamp then decide (a.stamp.toNat < b.stamp.toNat)
  else decide (a.node < b.node)

/-- An entry may still be dispatched: of a terminated launch only saved workgroups go on (21 R316). -/
def State.entryLive (s : State) (e : Entry) : Bool :=
  match e.job, SMap.get none s.launches e.launch with
  | .saved _, _ => true
  | _, some l => l.status.isNone
  | _, none => false

/-- Entries of terminated launches leave the pools. -/
def dropStale (s : State) : State := { s with ready := s.ready.filter s.entryLive }

/-- The head of the highest non-empty level of a die's pool, with its place in the list (21 R328). -/
def State.headEntry (s : State) (die : Nat) : Option (Entry × Nat) :=
  ((s.ready.zipIdx).filter (fun x => x.1.since.isSome && s.entryLive x.1 && s.entryDie x.1 == die)).foldl (fun best x =>
    match best with
    | none => some x
    | some b => if x.1.before b.1 then some x else some b) none

/-- An entry takes four cores of one cluster (21 R328). -/
def State.entryCluster (s : State) (e : Entry) : Bool :=
  match s.nodeOf e.launch e.node with
  | some n => n.cluster
  | none => false

/-- A core is enabled and holds no workgroup. -/
def State.freeCore (s : State) (c : Nat) : Bool := s.enabledCore c && (s.coreAt c).wg.isNone

/-- The cores of a cluster of a die. -/
def clusterCores (die k : Nat) : List Nat := (List.range 4).map (fun i => die * Config.coresPerDie + 4 * k + i)

/-- The cores that a dispatch of an entry takes: the lowest free core, or the lowest cluster of four (21 R328). -/
def State.eligible (s : State) (die : Nat) (e : Entry) : Option (List Nat) :=
  if s.entryCluster e then
    ((List.range 26).map (clusterCores die)).find? (fun cs => cs.all s.freeCore)
  else
    (((List.range Config.coresPerDie).map (fun i => die * Config.coresPerDie + i)).find? s.freeCore).map (fun c => [c])

/-! ### Pre-emption (21 R330) -/

/-- Running workgroups of a die: core and workgroup. -/
def State.runningOn (s : State) (die : Nat) : List (Nat × Workgroup) :=
  s.cores.filterMap (fun e => if dieOf e.1 = die then e.2.wg.map (fun w => (e.1, w)) else none)

/-- Workgroup `a` is chosen before `b`: the lower level, the youngest dispatch, the highest core. -/
def victimBefore (a b : Nat × Workgroup) : Bool :=
  if a.2.level ≠ b.2.level then decide (a.2.level < b.2.level)
  else if a.2.dispatched ≠ b.2.dispatched then decide (b.2.dispatched < a.2.dispatched)
  else decide (b.1 < a.1)

/-- The first of a list in an order. -/
def firstBy {α : Type} (before : α → α → Bool) (xs : List α) : Option α :=
  xs.foldl (fun best x => match best with
    | none => some x
    | some b => if before x b then some x else some b) none

/-- Tell workgroups to stop; those of a cluster-mode node stop together (21 R187, R331). -/
def askStop (cores : List Nat) (s : State) : State :=
  (cores.flatMap s.members).foldl (fun s c => s.updWg c (fun w => { w with preempt := true })) s

/-- Running workgroups of a cluster, and the one that decides it: its highest level, then its youngest dispatch. -/
def State.clusterTop (s : State) (die k : Nat) : Option (Nat × Workgroup) :=
  firstBy (fun a b => if a.2.level ≠ b.2.level then decide (b.2.level < a.2.level) else decide (b.2.dispatched < a.2.dispatched))
    ((s.runningOn die).filter (fun x => (clusterCores die k).contains x.1))

/-- Entries of a die's pool in the order in which they dispatch (21 R327). -/
def State.pool? (s : State) (die : Nat) : List Entry :=
  sortBy Entry.before (s.ready.filter (fun e => e.since.isSome && s.entryLive e && s.entryDie e == die))

/-- An entry finds its cores among those that no earlier entry takes: free ones, else ones whose workgroup is being saved, else it pre-empts (21 R330). `acc` holds the cores that earlier entries take. -/
def claimCores (die : Nat) (acc : State × List Nat) (e : Entry) : State × List Nat :=
  let s := acc.1
  let unclaimed := fun (c : Nat) => s.enabledCore c && !acc.2.contains c
  let free := fun (c : Nat) => unclaimed c && (s.coreAt c).wg.isNone
  let soon := fun (c : Nat) => unclaimed c && (s.coreAt c).wg.elim true (fun w => w.preempt)
  let victims := fun (xs : List (Nat × Workgroup)) =>
    firstBy victimBefore (xs.filter (fun x => unclaimed x.1 && decide (x.2.level < e.level) && !x.2.ending && !x.2.preempt))
  if s.entryCluster e then
    let ks := List.range 26
    match (ks.find? (fun k => (clusterCores die k).all free)).or (ks.find? (fun k => (clusterCores die k).all soon)) with
    | some k => (s, clusterCores die k ++ acc.2)
    | none =>
      match victims ((ks.filter (fun k => (clusterCores die k).all unclaimed)).filterMap (fun k => s.clusterTop die k)) with
      | some (c, _) =>
        let cs := clusterCores die (c % Config.coresPerDie / 4)
        (askStop (cs.filter (fun c => (s.coreAt c).wg.isSome)) s, cs ++ acc.2)
      | none => acc
  else
    let cs := (List.range Config.coresPerDie).map (fun i => die * Config.coresPerDie + i)
    match (cs.find? free).or (cs.find? soon) with
    | some c => (s, c :: acc.2)
    | none =>
      match victims (s.runningOn die) with
      | some (c, _) => (askStop [c] s, c :: acc.2)
      | none => acc

/-- Every entry of a die that finds no free core pre-empts a workgroup for itself. -/
def preemptFor (s : State) (die : Nat) : State := ((s.pool? die).foldl (claimCores die) (s, [])).1

def preemptAll (s : State) : State := (List.range 4).foldl preemptFor s

/-- Everything that follows at once when a queue, an operand, a predecessor count or a core changes (21 R323 to R325, R330). -/
def settle (s : State) : State := preemptAll (poolFill (settleNodes (dropStale s)))

end Sys2Proof.Machine
end

