-- ==== Sys2Proof/Machine/Sync.lean ====
section
/-! DEFINITION. Barriers (19 R291 to R299), stage rings (19 R300, R301, 01 R24), CWAIT, CBAR and EMIT (19 R303 to R305), EDGRD (19 R310), and the release of a split that blocks at one of them (19 R307). -/

namespace Sys2Proof.Machine

/-! ### Objects -/

def Workgroup.bar (w : Workgroup) (b : Nat) : Barrier := SMap.get Barrier.empty w.bars b
def Workgroup.setBar (w : Workgroup) (b : Nat) (x : Barrier) : Workgroup := { w with bars := SMap.set Barrier.empty w.bars b x }
def Workgroup.ring (w : Workgroup) (g : Nat) : Ring := SMap.get Ring.zero w.rings g
def Workgroup.setRing (w : Workgroup) (g : Nat) (x : Ring) : Workgroup := { w with rings := SMap.set Ring.zero w.rings g x }
def Ring.at (r : Ring) (i : Nat) : Slot := SMap.get Slot.zero r.slot i
def Ring.put (r : Ring) (i : Nat) (x : Slot) : Ring := { r with slot := SMap.set Slot.zero r.slot i x }

/-- A gang with a live lane (01 R20). -/
def Workgroup.liveGang (w : Workgroup) (g : Nat) : Bool :=
  decide (g < w.kernel.gangs) && (w.kernel.lanes &&& ~~~(SMap.get Gang.empty w.gangs g).exited) != 0

def Workgroup.live (w : Workgroup) : List Nat := (List.range w.kernel.gangs).filter w.liveGang

/-- Some COPY gang is live. -/
def Workgroup.copyLive (w : Workgroup) : Bool :=
  w.live.any (fun g => (SMap.get Gang.empty w.gangs g).role == .copy)

/-- What an arrival of a gang carries (19 R306). -/
def gangArrival (s : State) (core gang : Nat) : LastArr :=
  let g := s.gangAt core gang
  ⟨BitVec.ofNat 64 (gangAgent core gang), s.clockAt core, g.blame, g.top⟩

/-- Outstanding copy-engine commands that target a barrier. -/
def Workgroup.targeting (w : Workgroup) (b : Nat) : Nat :=
  (w.cq.filter (fun c => c.target == .barrier b)).length

/-- Outstanding commands that have captured a slot of a ring. -/
def Workgroup.targetingRing (w : Workgroup) (g : Nat) : Nat :=
  (w.cq.filter (fun c => match c.target with
    | .ring r _ => r == g
    | _ => false)).length

/-! ### Barriers -/

def pop16 (m : BitVec 16) : Nat := popcount 16 m.toNat

/-- The barrier status word (19 R291). -/
def Barrier.status (b : Barrier) : W64 :=
  BitVec.ofNat 64 (b.phase.toNat + (pop16 b.members + b.engines) * 2 ^ 16 + (pop16 b.arrived + b.engArrived) * 2 ^ 24 +
    b.pend * 2 ^ 32 + (if b.rows then 2 ^ 56 else 0) + (if b.err.isSome then 2 ^ 57 else 0))

/-- Completion (19 R295), checked after every arrival and landing. -/
def Barrier.check (b : Barrier) : Barrier :=
  if b.err.isNone && b.arrived == b.members && decide (b.engines ≤ b.engArrived) && b.pend == 0 then
    { b with phase := b.phase + 1, arrived := 0, engArrived := 0, comp := b.last, rel := [],
             relDone := SMap.set [] b.relDone b.phase.toNat b.rel }
  else b

/-- Whether phase `t` is complete (19 R296). -/
def Barrier.completed (b : Barrier) (t : BitVec 16) : Bool :=
  let d := (b.phase - t).toNat
  decide (1 ≤ d ∧ d ≤ 2 ^ 15)

/-- A split waits at a barrier, ring, CBAR or CWAIT (19 R297). -/
def Wait.blocks : Wait → Bool
  | .bwait _ _ | .stga _ _ | .stgw _ _ | .cwait _ _ | .cbar _ => true
  | _ => false

/-- A gang waits in the sense of 19 R297. -/
def Gang.waits (g : Gang) : Bool :=
  g.splits.all (fun sp => sp.lanes == 0 || sp.wait.blocks || sp.atJoin g || (match sp.wait with
    | .regang _ => true
    | _ => false)) && g.splits.any (fun sp => sp.wait.blocks)

/-- The fourth condition of 19 R297: every live gang waits, and no engine command is outstanding. -/
def Workgroup.deadlocked (w : Workgroup) : Bool :=
  w.live.all (fun g => (SMap.get Gang.empty w.gangs g).waits) && w.cq.isEmpty && w.mq.isEmpty

/-- The current phase of a barrier is orphaned by its members or its engines (19 R297, the first three conditions). -/
def Workgroup.abandoned (w : Workgroup) (b : Nat) : Bool :=
  let x := w.bar b
  (List.range w.kernel.gangs).any (fun g => x.members.getLsbD g && !x.arrived.getLsbD g && !w.liveGang g) ||
  (decide (w.targeting b < x.engines - x.engArrived) && !w.copyLive) ||
  (decide (0 < x.pend) && w.targeting b == 0 && !w.copyLive)

/-- TRAPA of a barrier trap: b in [4:0], t in [31:16] (19 R297). -/
def barTrapa (b : Nat) (t : Nat) : W64 := BitVec.ofNat 64 (b + t % 2 ^ 16 * 2 ^ 16)

/-- TRAPA of a ring trap: 16 + g in [4:0], the slot in [31:16] (19 R301). -/
def ringTrapa (g slot : Nat) : W64 := BitVec.ofNat 64 (16 + g + slot * 2 ^ 16)

/-- BINIT of a barrier or a ring (19 R292). -/
def execBinit (k : BitVec 2) (i : BitVec 4) (m e : BitVec 6) (s : State) : Res :=
  issue s (fun cx => do
    need (k != 3 && !(k == 2 && e != 0)) (illegalInstruction cx)
    need (!(k == 2 && decide (4 ≤ i.toNat))) (illegalOperand cx)
    let w := cx.wg
    let b := i.toNat
    if k = 2 then
      let n := (cx.g.sreg m.toNat).toNat
      need (decide (1 ≤ n ∧ n ≤ 8)) (illegalOperand cx)
      need (!(w.targetingRing b != 0 || w.gangs.any (fun g => g.2.allSplits.any (fun sp => match sp.wait with
        | .stga r _ | .stgw r _ => r == b
        | _ => false)))) (illegalOperand cx)
      pure (retire cx (s.updWg cx.core (fun w => w.setRing b ⟨n, [], 0, 0⟩)))
    else
      let mask := cx.g.sreg m.toNat
      let n := (cx.g.sreg e.toNat).toNat
      need (decide (mask.toNat < 2 ^ w.kernel.gangs)) (illegalOperand cx)
      need (decide (1 ≤ popcount 16 mask.toNat + n ∧ popcount 16 mask.toNat + n ≤ 255)) (illegalOperand cx)
      need (!(w.targeting b != 0 || w.gangs.any (fun g => g.2.allSplits.any (fun sp => match sp.wait with
        | .bwait r _ => r == b
        | _ => false)))) (illegalOperand cx)
      pure (retire cx (s.updWg cx.core (fun w => w.setBar b
        { w.bar b with members := mask.truncate 16, engines := n, rows := k == 1, phase := 0, arrived := 0,
                       engArrived := 0, pend := 0, err := none, last := LastArr.zero, rel := [], relDone := [] }))))

/-- The split of a gang can be released now: it is not stopped, and its gang waits for no service or debugger. -/
def Gang.canRelease (g : Gang) (sp : Split) : Bool := !sp.stopped && g.service.isNone && g.dbgStop.isNone

/-- A split that waits for a completed phase of a barrier passes it, with the completion record and the releases of its phase (19 R295, R307). -/
def Split.passBarrier (w : Workgroup) (core b : Nat) (g : Gang) (sp : Split) : Split :=
  match sp.wait with
  | .bwait b' t =>
    let x := w.bar b
    if b' = b ∧ g.canRelease sp ∧ x.err = none ∧ x.completed (BitVec.ofNat 16 t) then
      { sp with wait := .passed (objWord core 0 b) x.comp (SMap.get [] x.relDone (t % 2 ^ 16)) }
    else sp
  | _ => sp

/-- The event that changed a barrier releases every waiter whose phase is complete (19 R295); splits that a pre-emption has stopped look again after the restore (21 R331, 19 R307). -/
def passBarrier (core b : Nat) (s : State) : State :=
  let w := s.wgAt core
  if w.preempt then s
  else s.setWg core (w.mapGangs (fun _ g => g.mapSplits (Split.passBarrier w core b g)))

/-- Change a barrier, and release the waiters of a phase that it completes. -/
def updBarrier (core b : Nat) (f : Barrier → Barrier) (s : State) : State :=
  passBarrier core b (s.updWg core (fun w => w.setBar b (f (w.bar b))))

/-- A gang's arrival at a barrier (19 R293): a release at scope W, the arrival, the last-arriver record, completion. -/
def arrive (core gang b : Nat) (s : State) : State :=
  let s := releaseAt core gang 1 s
  let a := gangArrival s core gang
  let r := relOf s core gang 1
  updBarrier core b (fun x =>
    { x with arrived := x.arrived ||| BitVec.ofNat 16 (2 ^ gang), last := a, rel := x.rel ++ [r] }.check) s

/-- BARV (19 R293). -/
def execBarv (i : BitVec 4) (d : BitVec 6) (s : State) : Res :=
  issue s (fun cx => do
    let b := i.toNat
    let x := cx.wg.bar b
    need (x.members.getLsbD cx.gang) (illegalOperand cx)
    need (x.err.isSome || !x.arrived.getLsbD cx.gang) (raise .barrierOverflow)
    let s := s.setGang cx.core cx.gang (cx.g.setS d.toNat (x.phase.zeroExtend 64))
    pure (retire cx (if x.err.isSome then s else arrive cx.core cx.gang b s)))

/-- BEXP (19 R294). -/
def execBexp (i : BitVec 4) (a : BitVec 6) (s : State) : Res :=
  issue s (fun cx => do
    let n := (cx.g.sreg a.toNat).toNat
    let x := cx.wg.bar i.toNat
    need (decide (n < 2 ^ 24)) (illegalOperand cx)
    need (x.err.isSome || decide (x.pend + n < 2 ^ 24)) (raise .barrierOverflow)
    pure (retire cx (if x.err.isSome then s else s.updWg cx.core (fun w => w.setBar i.toNat { x with pend := x.pend + n }))))

/-- What a wait finds (19 R296, R301). -/
inductive WaitFinds where
  | trap (c : Cause)
  | done
  | wait
  deriving DecidableEq, Repr

/-- What a BWAIT on phase `t` finds; `dead` says that the fourth condition of 19 R297 holds. Only the current phase can be orphaned. -/
def bwaitFinds (w : Workgroup) (dead : Bool) (b t : Nat) : WaitFinds :=
  let x := w.bar b
  match x.err with
  | some c => .trap c
  | none =>
    if x.completed (BitVec.ofNat 16 t) then .done
    else if BitVec.ofNat 16 t = x.phase ∧ (w.abandoned b || dead) then .trap .barrierOrphan
    else .wait

/-- The acquire of a BWAIT that returns: every arrival of phase `t` (11 R204, R209). -/
def bwaitAcquire (core gang b t : Nat) (s : State) : State :=
  raceAcquire core gang (SMap.get [] ((s.wgAt core).bar b).relDone (t % 2 ^ 16)) s

/-- BWAIT (19 R296). The fourth condition of 19 R297 holds only once the split waits. -/
def execBwait (i : BitVec 4) (a : BitVec 6) (s : State) : Res :=
  issue s (fun cx =>
    let b := i.toNat
    let t := (cx.g.sreg a.toNat).toNat % 2 ^ 16
    match bwaitFinds cx.wg false b t with
    | .trap c => .error (.trap ⟨c, barTrapa b t, none, 0, [], false⟩)
    | .done => .ok (retire cx (bwaitAcquire cx.core cx.gang b t s))
    | .wait => .ok (waitAt cx (.bwait b t) s))

/-! ### Rings -/

def SlotState.code : SlotState → Nat
  | .empty => 0 | .filling => 1 | .full => 2 | .draining => 3

/-- The ring status word (19 R300). -/
def Ring.status (r : Ring) : W64 :=
  let ix := List.range r.slots
  BitVec.ofNat 64 (r.prod + r.cons * 2 ^ 8 + ix.foldl (fun n i => n + (r.at i).st.code * 2 ^ (16 + 2 * i)) 0 +
    ix.foldl (fun n i => n + (if (r.at i).phase then 2 ^ (40 + i) else 0)) 0 + r.slots * 2 ^ 48 +
    (if ix.any (fun i => (r.at i).err.isSome) then 2 ^ 57 else 0))

/-- BTEST (19 R299). -/
def execBtest (k : BitVec 2) (i : BitVec 4) (d : BitVec 6) (s : State) : Res :=
  issue s (fun cx => do
    need (k == 0 || k == 2) (illegalInstruction cx)
    need (!(k == 2 && decide (4 ≤ i.toNat))) (illegalOperand cx)
    pure (putScalar cx d.toNat (if k = 0 then (cx.wg.bar i.toNat).status else (cx.wg.ring i.toNat).status) s))

/-- A ring field above 3 raises ILLEGAL_OPERAND (19 R279); an uninitialised ring RING_MISUSE (19 R301). -/
def ringField (cx : Ctx) (i : BitVec 4) : Except Stop Ring := do
  need (decide (i.toNat < 4)) (illegalOperand cx)
  let r := cx.wg.ring i.toNat
  need (decide (0 < r.slots)) (raise .ringMisuse)
  pure r

/-- What an STGA finds (19 R301). -/
def stgaFinds (w : Workgroup) (dead : Bool) (g : Nat) : WaitFinds :=
  let r := w.ring g
  match (r.at r.prod).st with
  | .filling => .trap .ringMisuse
  | .empty => .done
  | _ => if dead then .trap .barrierOrphan else .wait

/-- STGA takes its slot: filling, the index to s[D], the acquire of the STGF that freed it. -/
def stgaTake (core gang g d : Nat) (s : State) : State :=
  let r := (s.wgAt core).ring g
  let x := r.at r.prod
  let s := raceAcquire core gang x.rel s
  let s := s.updWg core (fun w => w.setRing g (r.put r.prod { x with st := .filling }))
  s.updGang core gang (fun y => y.setS d (BitVec.ofNat 64 r.prod))

/-- A trap of a wait: BARRIER_ORPHAN and slot errors name the ring and the slot; RING_MISUSE states no value (21 R335). -/
def ringStop (c : Cause) (g slot : Nat) : Stop :=
  .trap ⟨c, if c = .ringMisuse then 0 else ringTrapa g slot, none, 0, [], false⟩

/-- STGA. -/
def execStga (i : BitVec 4) (d : BitVec 6) (s : State) : Res :=
  issue s (fun cx => do
    let r ← ringField cx i
    match stgaFinds cx.wg false i.toNat with
    | .trap c => throw (ringStop c i.toNat r.prod)
    | .done => pure (retire cx (stgaTake cx.core cx.gang i.toNat d.toNat s))
    | .wait => pure (waitAt cx (.stga i.toNat d.toNat) s))

/-- What an STGW finds (19 R301): a slot in error raises its cause. -/
def stgwFinds (w : Workgroup) (dead : Bool) (g : Nat) : WaitFinds :=
  let r := w.ring g
  match (r.at r.cons).st with
  | .draining => .trap .ringMisuse
  | .full =>
    match (r.at r.cons).err with
    | some e => .trap e.1
    | none => .done
  | _ => if dead then .trap .barrierOrphan else .wait

def stgwTake (core gang g d : Nat) (s : State) : State :=
  let r := (s.wgAt core).ring g
  let x := r.at r.cons
  let s := raceAcquire core gang x.rel s
  let s := s.updWg core (fun w => w.setRing g (r.put r.cons { x with st := .draining }))
  s.updGang core gang (fun y => y.setS d (BitVec.ofNat 64 r.cons))

/-- STGW. -/
def execStgw (i : BitVec 4) (d : BitVec 6) (s : State) : Res :=
  issue s (fun cx => do
    let r ← ringField cx i
    match stgwFinds cx.wg false i.toNat with
    | .trap c => throw (ringStop c i.toNat r.cons)
    | .done => pure (retire cx (stgwTake cx.core cx.gang i.toNat d.toNat s))
    | .wait => pure (waitAt cx (.stgw i.toNat d.toNat) s))

/-- The next index modulo the slot count (01 R24). -/
def Ring.next (r : Ring) (i : Nat) : Nat := (i + 1) % r.slots

/-- STGC. -/
def execStgc (i : BitVec 4) (s : State) : Res :=
  issue s (fun cx => do
    let r ← ringField cx i
    let x := r.at r.prod
    need (x.st == .filling) (raise .ringMisuse)
    let s := releaseAt cx.core cx.gang 1 s
    let x' := { x with st := .full, err := none, last := gangArrival s cx.core cx.gang, rel := [relOf s cx.core cx.gang 1] }
    pure (retire cx (s.updWg cx.core (fun w => w.setRing i.toNat { r.put r.prod x' with prod := r.next r.prod }))))

/-- STGF. -/
def execStgf (i : BitVec 4) (s : State) : Res :=
  issue s (fun cx => do
    let r ← ringField cx i
    let x := r.at r.cons
    need (x.st == .draining) (raise .ringMisuse)
    let s := releaseAt cx.core cx.gang 1 s
    let x' := { x with st := .empty, phase := !x.phase, err := none, last := gangArrival s cx.core cx.gang,
                       rel := [relOf s cx.core cx.gang 1] }
    pure (retire cx (s.updWg cx.core (fun w => w.setRing i.toNat { r.put r.cons x' with cons := r.next r.cons }))))

/-! ### CWAIT -/

/-- Counter `k` of a gang. -/
def Gang.counter (g : Gang) (k : Nat) : Nat := (SMap.get 0 g.c k).toNat

/-- The return of a CWAIT covers a command: it is older than the `n` youngest of its class (11 R206). -/
def Gang.covers (g : Gang) (k n cls number : Nat) : Bool := cls == k && decide (number + n ≤ SMap.get 0 g.cIssued k)

/-- A pending error of a command that the return of a CWAIT would cover (19 R303). Of several the spec names none: the model raises that of the command that retired first (DESIGN CHOICE, log 110). -/
def Gang.coveredErr (g : Gang) (k n : Nat) : Option CmdErr := g.cErr.find? (fun e => g.covers k n e.cls e.number)

/-- What a CWAIT finds: nothing to wait for, an error, or the wait. -/
def cwaitReady (g : Gang) (k n : Nat) : Bool := decide (g.counter k ≤ n)

/-- The releases that the return of a CWAIT acquires: those of the commands that it covers (11 R206). -/
def Gang.coveredRels (g : Gang) (k n : Nat) : List RelInfo :=
  (g.cRel.filter (fun e => g.covers k n e.cls e.number)).map (fun e => e.rel)

/-- A CWAIT returns: an acquire of the commands that it covers (11 R206). -/
def cwaitAcquire (core gang k n : Nat) (s : State) : State := raceAcquire core gang ((s.gangAt core gang).coveredRels k n) s

/-- An error is raised once. -/
def Gang.dropErr (g : Gang) (e : CmdErr) : Gang := { g with cErr := g.cErr.erase e }

/-- CWAIT (19 R303). -/
def execCwait (n : BitVec 2) (a : BitVec 6) (s : State) : Res :=
  issue s (fun cx =>
    let k := n.toNat
    let lim := (cx.g.sreg a.toNat).toNat
    if cwaitReady cx.g k lim then
      match cx.g.coveredErr k lim with
      | some e =>
        .ok (takeTrap { cx with g := cx.g.dropErr e } ⟨e.cause, e.addr, none, 0, [], false⟩
          (s.setGang cx.core cx.gang (cx.g.dropErr e)))
      | none => .ok (retire cx (cwaitAcquire cx.core cx.gang k lim s))
    else .ok (waitAt cx (.cwait k lim) s))

/-! ### CBAR -/

/-- Every live gang of every member workgroup has arrived (19 R304). -/
def cbarFull (s : State) (core : Nat) : Bool :=
  (s.members core).all (fun c => (s.wgAt c).live.all (fun g => (s.wgAt c).cbArr.getLsbD g))

/-- Object word of the cluster barrier of a core's cluster (19 R283). -/
def clusterObj (core : Nat) : Nat := objWord (dieOf core * Config.coresPerDie) 3 (core % Config.coresPerDie / 4)

/-- A split that waits for a completion of the cluster barrier passes it. -/
def Split.passCluster (w : Workgroup) (core : Nat) (g : Gang) (sp : Split) : Split :=
  match sp.wait with
  | .cbar n =>
    if n < w.cbDone ∧ g.canRelease sp then { sp with wait := .passed (clusterObj core) w.cbLast w.cbRelDone } else sp
  | _ => sp

/-- The cluster barrier completes in a workgroup of the node: its waiters are released (19 R304), but for a workgroup that a pre-emption has stopped. -/
def Workgroup.cbarDone (core : Nat) (w : Workgroup) : Workgroup :=
  let w := { w with cbArr := 0, cbDone := w.cbDone + 1, cbRelDone := w.cbRel, cbRel := [], clAccessed := false, clBarred := true }
  if w.preempt then w else w.mapGangs (fun _ g => g.mapSplits (Split.passCluster w core g))

/-- Complete the cluster barrier of a node when it is full. -/
def cbarCheck (core : Nat) (s : State) : State :=
  if cbarFull s core && (s.members core).any (fun c => (s.wgAt c).cbArr != 0) then
    (s.members core).foldl (fun s c => s.updWg c (Workgroup.cbarDone c)) s
  else s

/-- A gang's arrival at the cluster barrier: a release at scope C (11 R204). -/
def cbarArrive (core gang : Nat) (s : State) : State :=
  let s := releaseAt core gang 2 s
  let a := gangArrival s core gang
  let r := relOf s core gang 2
  let s := s.updWg core (fun w => { w with cbArr := w.cbArr ||| BitVec.ofNat 16 (2 ^ gang) })
  let s := (s.members core).foldl (fun s c => s.updWg c (fun w => { w with cbLast := a, cbRel := w.cbRel ++ [r] })) s
  cbarCheck core s

/-- The acquire of a CBAR that returns. -/
def cbarAcquire (core gang : Nat) (s : State) : State :=
  raceAcquire core gang (s.wgAt core).cbRelDone s

/-- CBAR (19 R304): the first split of a gang arrives, a later one joins the arrival. -/
def execCbar (s : State) : Res :=
  issue s (fun cx =>
    let n := cx.wg.cbDone
    let s := if cx.wg.cbArr.getLsbD cx.gang then s else cbarArrive cx.core cx.gang s
    .ok (if n < (s.wgAt cx.core).cbDone then retire cx (cbarAcquire cx.core cx.gang s)
         else waitAt cx (.cbar n) s))

/-! ### EMIT -/

/-- Append a record to a node's queue (19 R305): its bytes at QBASE, the agent, the clock and the blame. A release at scope V, which the workgroup launched with the record acquires. -/
def emitRecord (core gang node : Nat) (bs : List Byte) (s : State) : State :=
  let s := releaseAt core gang 4 s
  let w := s.wgAt core
  match s.nodeOf w.launch node with
  | none => s
  | some n =>
    let s := asAgent (w.agent gang) (writeDev (n.qbase.toNat + n.pushed % n.qsize * n.rsize) bs) s
    settle (s.setNode w.launch node { n with pushed := n.pushed + 1, waiting := n.waiting ++ [gangArrival s core gang],
                                             recKnow := n.recKnow ++ [knowOf s core gang] })

/-- The place in the order of arrival of a split that waits at an EMIT to a node. -/
def Split.ticket (node : Nat) (sp : Split) : Option Nat :=
  match sp.wait with
  | .emit n _ t _ => if n = node then some t else none
  | _ => none

/-- The splits that wait at an EMIT to a node of a launch, in their order of arrival: ticket, core, gang, index among the gang's splits, after which those parked in its dual-path stacks count (19 R305). -/
def State.emitQueue (s : State) (launch node : Nat) : List (Nat × Nat × Nat × Nat) :=
  sortBy (fun a b => decide (a.1 < b.1)) (s.cores.flatMap (fun e => match e.2.wg with
    | some w => if w.launch = launch then w.gangs.flatMap (fun g => (g.2.allSplits.zipIdx).filterMap (fun x =>
        (x.1.ticket node).map (fun t => (t, e.1, g.1, x.2)))) else []
    | none => []))

def State.emitters (s : State) (launch node : Nat) : List (Nat × Nat × Nat) := (s.emitQueue launch node).map (fun x => x.2)

/-- EMIT. -/
def execEmit (sr r : BitVec 6) (s : State) : Res :=
  issue s (fun cx => do
    let k := (cx.g.sreg sr.toNat).toNat
    let me ← match s.nodeOf cx.wg.launch cx.wg.node with
      | some n => pure n
      | none => throw (illegalOperand cx)
    let idx ← match me.succs[k]? with
      | some i => pure i
      | none => throw (illegalOperand cx)
    let n ← match s.nodeOf cx.wg.launch idx with
      | some n => pure n
      | none => throw (illegalOperand cx)
    need n.mode1 (illegalOperand cx)
    let a := cx.g.sreg r.toNat
    let xs : Accesses := [(lowLane cx.en, a)]
    spaceChecks s cx.core .load n.rsize 8 xs
    raceCheck s cx.core cx.gang .load n.rsize xs
    poisonCheck s cx.core n.rsize xs
    let bs := leBytes n.rsize (s.loadNum cx.core cx.gang 0 a n.rsize)
    let s := accessed cx.core n.rsize xs (readAsLoad cx.core cx.gang a n.rsize s)
    pure (if n.space && (s.emitters cx.wg.launch idx).isEmpty then retire cx (emitRecord cx.core cx.gang idx bs s)
      else waitAt cx (.emit idx bs n.tickets none) (s.setNode cx.wg.launch idx { n with tickets := n.tickets + 1 })))

/-! ### EDGRD -/

/-- The last-arriver record that an object word names for a gang of a core: barriers and ring slots of its workgroup and of the other workgroups of its cluster node, the node's cluster barrier, its own counters (19 R310). -/
def objRecord (s : State) (core gang : Nat) (x : Nat) : Option LastArr :=
  let idx := x % 2 ^ 16
  let c := dieOf core * Config.coresPerDie + bitsAt x 19 7
  if x ≥ 2 ^ 32 ∨ bitsAt x 16 3 ≠ 0 ∨ bitsAt x 26 2 ≠ dieOf core then none
  else
    match bitsAt x 28 4 with
    | 0 => if idx < 16 ∧ bitsAt x 19 7 < Config.coresPerDie ∧ c ∈ s.members core then some ((s.wgAt c).bar idx).last else none
    | 1 => if idx < 32 ∧ bitsAt x 19 7 < Config.coresPerDie ∧ c ∈ s.members core then
             some (((s.wgAt c).ring (idx / 8)).at (idx % 8)).last else none
    | 3 => if idx = core % Config.coresPerDie / 4 ∧ bitsAt x 19 7 = 0 then some (s.wgAt core).cbLast else none
    | 4 => if idx < 4 ∧ bitsAt x 19 7 = core % Config.coresPerDie then
             some (SMap.get LastArr.zero (s.gangAt core gang).cLast idx) else none
    | _ => none

/-- EDGRD (19 R310). -/
def execEdgrd (k : BitVec 2) (d b : BitVec 6) (s : State) : Res :=
  issue s (fun cx => do
    need (!(k == 0 && b != 0)) (illegalInstruction cx)
    if k = 0 then pure (putScalar cx d.toNat cx.g.blame s)
    else
      match objRecord s cx.core cx.gang (cx.g.sreg b.toNat).toNat with
      | none => throw (illegalOperand cx)
      | some r =>
        pure (putScalar cx d.toNat (if k = 1 then r.agent &&& 0xFFFFFFFF else if k = 2 then r.blame else r.clock) s))

/-! ### Releases (19 R307) -/

/-- A blocked split goes on after its wait; when it waited for at least one clock its edge is written (19 R307). -/
def releaseWait (core gang i : Nat) (obj : Nat) (from_ : LastArr) (s : State) : State :=
  let g := s.gangAt core gang
  match g.splits[i]? with
  | none => s
  | some sp =>
    let s := s.setGang core gang (g.release i)
    if sp.waitStart < (s.clockAt core).toNat then writeEdge core gang (srcOf core gang sp) obj from_ s else s

/-- A wait that ends in a trap. -/
def trapWait (core gang i : Nat) (t : Trap) (s : State) : State :=
  let g := s.gangAt core gang
  if t.cause.puone then
    match g.splits[i]? with
    | none => s
    | some sp =>
      let lane := lowLane sp.lanes
      s.setGang core gang { g.setSplit i { sp with pc := sp.waitFirst, wait := .none } with
        service := some { cause := t.cause, addr := t.addr, faults := t.faults, malformed := t.malformed, pc := sp.waitFirst,
                          trapl := traplOf gang g sp none lane, split := i, trapOff := sp.pc, plane := g.planeOf lane,
                          anchored := true, tag := sp.waitTag, since := s.time } }
  else deliverAt core gang i t.cause t.addr s

/-- The order in which splits of one gang take a trap of one clock: the lowest slice, path 0 first (01 R45). -/
def Split.trapRank (sp : Split) : Nat := 2 * (slicesOf sp.slices).headD 0 + sp.path.getD 0

/-- The trap that a waiting split finds, with TRAPA; `dead` says that the fourth condition of 19 R297 holds. -/
def Split.waitTrap (w : Workgroup) (dead : Bool) (sp : Split) : Option (Cause × W64) :=
  match sp.wait with
  | .bwait b t => match bwaitFinds w dead b t with
    | .trap c => some (c, barTrapa b t)
    | _ => none
  | .stga r _ => match stgaFinds w dead r with
    | .trap c => some (c, if c = .ringMisuse then 0 else ringTrapa r (w.ring r).prod)
    | _ => none
  | .stgw r _ => match stgwFinds w dead r with
    | .trap c => some (c, if c = .ringMisuse then 0 else ringTrapa r (w.ring r).cons)
    | _ => none
  | .failed c a => some (c, a)
  | _ => none

/-- The waiting splits of a gang that find a trap: index, split, cause, TRAPA. -/
def Gang.waitTraps (w : Workgroup) (dead : Bool) (g : Gang) : List (Nat × Split × Cause × W64) :=
  (g.splits.zipIdx).filterMap (fun x => if g.canRelease x.1 then (x.1.waitTrap w dead).map (fun t => (x.2, x.1, t)) else none)

/-- A gang whose waiting splits find traps takes one, in the split that 01 R45 chooses; the others wait on. -/
def gangTrap (core gang : Nat) (dead : Bool) (s : State) : State :=
  match firstBy (fun a b => decide (a.2.1.trapRank < b.2.1.trapRank)) ((s.gangAt core gang).waitTraps (s.wgAt core) dead) with
  | some (i, _, c, a) => trapWait core gang i ⟨c, a, none, 0, [], false⟩ s
  | none => s

/-- The fourth condition of 19 R297 holds: every gang that waits at a barrier or a ring that nothing can release traps at once. -/
def deadTraps (core : Nat) (s : State) : State :=
  (s.wgAt core).gangs.foldl (fun s e => gangTrap core e.1 true s) s

/-- A wait ends in a trap: that of its gang, or of every gang when all of them wait for ever. -/
def trapFound (core gang : Nat) (c : Cause) (s : State) : State :=
  if c = .barrierOrphan ∧ (s.wgAt core).deadlocked then deadTraps core s else gangTrap core gang false s

/-- Look again at the wait of a split (19 R296, R301, R303 to R305): it returns, traps, or waits on. A pre-emption keeps it where it waits (21 R331). -/
def wakeSplit (core gang i : Nat) (s : State) : State :=
  let g := s.gangAt core gang
  let w := s.wgAt core
  match g.splits[i]? with
  | none => s
  | some sp =>
    if !g.canRelease sp || w.preempt then s
    else
      match sp.waitTrap w w.deadlocked with
      | some (c, _) => trapFound core gang c s
      | none =>
        match sp.wait with
        | .passed obj by_ rels => releaseWait core gang i obj by_ (raceAcquire core gang rels s)
        | .bwait b t =>
          if bwaitFinds w w.deadlocked b t = .done then
            releaseWait core gang i (objWord core 0 b) (w.bar b).comp (bwaitAcquire core gang b t s)
          else s
        | .stga r d =>
          let slot := (w.ring r).prod
          if stgaFinds w w.deadlocked r = .done then
            releaseWait core gang i (objWord core 1 (8 * r + slot)) ((w.ring r).at slot).last (stgaTake core gang r d s)
          else s
        | .stgw r d =>
          let slot := (w.ring r).cons
          if stgwFinds w w.deadlocked r = .done then
            releaseWait core gang i (objWord core 1 (8 * r + slot)) ((w.ring r).at slot).last (stgwTake core gang r d s)
          else s
        | .cwait k n =>
          if cwaitReady g k n then
            match g.coveredErr k n with
            | some e => trapWait core gang i ⟨e.cause, e.addr, none, 0, [], false⟩ (s.setGang core gang (g.dropErr e))
            | none => releaseWait core gang i (objWord core 4 k) (SMap.get LastArr.zero g.cLast k) (cwaitAcquire core gang k n s)
          else s
        | .cbar n =>
          let s := cbarCheck core s
          if n < (s.wgAt core).cbDone then
            releaseWait core gang i (clusterObj core) (s.wgAt core).cbLast (cbarAcquire core gang s)
          else s
        | .emit node bs _ by_ =>
          match s.nodeOf w.launch node with
          | none => s
          | some n =>
            -- the edge comes first: the record carries the BLAME that it gives (19 R305, R307)
            if n.space && (s.emitters w.launch node).head? == some (core, gang, i) then
              emitRecord core gang node bs
                (releaseWait core gang i (objWord (n.dies.headD 0 * Config.coresPerDie) 5 node) (by_.getD n.freedBy) s)
            else s
        | _ => s

/-- Space has appeared in a node's queue: the EMITs that wait for it, as many as there is space for, name the launch that freed it in their edges, and go on in their order of arrival (19 R305). One that cannot go on now holds those behind it. -/
def emitSpace (launch node : Nat) (by_ : LastArr) (s : State) : State :=
  match s.nodeOf launch node with
  | none => s
  | some n =>
    let first := (s.emitQueue launch node).take (n.qsize - (n.pushed - n.freed))
    let name := fun (ticket : Nat) (sp : Split) => match sp.wait with
      | .emit k bs t none => if k = node ∧ t = ticket then { sp with wait := .emit k bs t (some by_) } else sp
      | _ => sp
    let s := first.foldl (fun s e => s.updGang e.2.1 e.2.2.1 (fun g => g.mapSplits (name e.1))) s
    first.foldl (fun s e => wakeSplit e.2.1 e.2.2.1 e.2.2.2 s) s

/-- BLOCKED_WAIT_RELEASE: the split at BWAIT, STGA, STGW, CWAIT, CBAR or EMIT looks again. -/
def execBlockedWaitRelease (core gang split : Nat) (s : State) : Res := .next (wakeSplit core gang split s)

end Sys2Proof.Machine
end

