-- ==== Sys2Proof/Machine/Copy.lean ====
section
/-! DEFINITION. The copy engine (19 R280 to R290): CPY and its formation, GATH and SCAT, the landing of units, faults and backing. -/

namespace Sys2Proof.Machine

/-! ### Checks shared by the engines' instructions -/

/-- ROLE (01 R21). -/
def needRole (cx : Ctx) (r : Role) : Except Stop Unit := need (cx.g.role == r) (raise .role)

/-- The conditions of a collective instruction (01 R22): fully reganged and undivided, every lane active, one occupied plane. -/
def collective (cx : Ctx) : Bool :=
  cx.g.splits.length == 1 && cx.sp.path.isNone && cx.en == cx.wg.kernel.lanes && (cx.g.occupied cx.en).length == 1

def needCollective (cx : Ctx) : Except Stop Unit := need (collective cx) (raise .collectiveIssue)

/-- The word-decided checks of K and IX of an engine command (19 R279). -/
def engineFields (cx : Ctx) (k : BitVec 2) (i : BitVec 4) : Except Stop Unit := do
  need (k != 3 && !(k == 0 && i != 0)) (illegalInstruction cx)
  need (!(k == 2 && decide (4 ≤ i.toNat))) (illegalOperand cx)

/-! ### Engine accesses -/

/-- The engines reach the on-chip physical map whatever the workgroup's privilege (11 R183), but an unprivileged workgroup's engines change no tile through it (17 R265, log 34). -/
def engineSpaceOk (s : State) (core : Nat) (acc : Acc) (a : W64) : Bool :=
  match spaceOf a with
  | .phys c win off =>
    s.enabledCore c && decide (off < windowSize win) && (acc == .load || win != 1 || (s.wgAt core).priv)
  | _ => spaceOk s core a

/-- The fault of an engine's access to one byte (19 R280). -/
def engineFault (s : State) (core : Nat) (acc : Acc) (a : W64) : Option CmdFault :=
  if !engineSpaceOk s core acc a then some ⟨a, .protection, false⟩
  else (walkFault s core acc a).map (fun f => ⟨a, f.1, f.2⟩)

/-- The faults of an engine's access of `n` bytes, one for each page that fails (17 R269). -/
def engineFaults (s : State) (core : Nat) (acc : Acc) (a : W64) (n : Nat) : List CmdFault :=
  (pageEnds a n).filterMap (engineFault s core acc)

/-- The byte that an engine finds at an address, for a command that knows `know`: as it stood after some write, where nothing orders the later ones before the command (11 R203, R205). -/
def State.engineByte (s : State) (core : Nat) (know : Know) (a : W64) : Byte :=
  s.seenByte (engineEye (s.wgAt core) know) (s.pickAt a) (placeOf s core a)

/-- The little-endian number that an engine finds in `n` bytes. -/
def State.engineNum (s : State) (core : Nat) (know : Know) (a : W64) (n : Nat) : Nat :=
  ((bytesOf a n).zipIdx).foldl (fun x b => x + (s.engineByte core know b.1).toNat * 2 ^ (8 * b.2)) 0

/-- The first byte of ranges that lies beyond device memory. -/
def beyondIn (s : State) (core : Nat) (rs : List (W64 × Nat)) : Option Nat :=
  rs.findSome? (fun r => (placesOf s core r.1 r.2).findSome? (fun p => match p with
    | .beyond pa => some pa
    | _ => none))

/-! ### Layout records (19 R284 to R287) -/

def field512 (d : BitVec 512) (lo n : Nat) : Nat := bitsAt d.toNat lo n

def lyCount (d : BitVec 512) (i : Nat) : Nat := field512 d (128 + 16 * i) 16
def lyOrder (d : BitVec 512) (j : Nat) : Nat := field512 d (382 + 2 * j) 2
def lyStride (d : BitVec 512) (i : Nat) : W64 := (BitVec.ofNat 32 (field512 d (200 + 32 * i) 32)).signExtend 64
def lyES (d : BitVec 512) : Nat := 2 ^ field512 d 378 2
def lyBC (d : BitVec 512) : Nat := field512 d 368 10 + 1
def lyBR (d : BitVec 512) : Nat := field512 d 360 8 + 1
def lySRow (d : BitVec 512) : Nat := field512 d 328 32
def lyColMajor (d : BitVec 512) : Bool := field512 d 380 1 == 1
def lyToStrided (d : BitVec 512) : Bool := field512 d 381 1 == 1
def lySwz (d : BitVec 512) : Nat := field512 d 390 2
def lySwp (d : BitVec 512) : Nat := field512 d 392 8
def lyTiled (d : BitVec 512) : W64 := BitVec.ofNat 64 (field512 d 64 64)
def lyStrd (d : BitVec 512) : W64 := BitVec.ofNat 64 (field512 d 0 64)
def lyBlocks (d : BitVec 512) : Nat := lyCount d 0 * lyCount d 1 * lyCount d 2 * lyCount d 3

/-- Elements of a tiled row, rows of a block, words of a row, pitch (19 R285). -/
def lyE (d : BitVec 512) : Nat := if lyColMajor d then lyBR d else lyBC d
def lyQ (d : BitVec 512) : Nat := if lyColMajor d then lyBC d else lyBR d
def lyRW (d : BitVec 512) : Nat := (lyE d * lyES d + 7) / 8
def lyPitch (d : BitVec 512) : Nat := if lySwz d = 1 then lyRW d + lySwp d else lyRW d

/-- Word number of word `w` of tiled row `q` (19 R286). -/
def lyWord (d : BitVec 512) (q w : Nat) : Nat :=
  match lySwz d with
  | 1 => q * (lyRW d + lySwp d) + w
  | 2 => q * lyRW d + (w ^^^ (q / 2 ^ lySwp d % 8))
  | _ => q * lyRW d + w

/-- A record that raises ILLEGAL_OPERAND (19 R287). -/
def lyIllegal (d : BitVec 512) : Bool :=
  field512 d 400 112 != 0 || field512 d 192 8 != 0 || lySwz d == 3 ||
  (List.range 4).any (fun i => lyCount d i == 0) ||
  !((List.range 4).all (fun x => (List.range 4).any (fun j => lyOrder d j == x))) ||
  decide (262144 < lyBlocks d * lyBR d * lyBC d * lyES d) ||
  (lySwz d == 2 && (decide (7 < lySwp d) || lyRW d % 8 != 0))

/-- A record that raises ALIGNMENT (19 R287). -/
def lyMisaligned (d : BitVec 512) : Bool :=
  (lyStrd d).toNat % lyES d != 0 || lySRow d % lyES d != 0 ||
  (List.range 4).any (fun i => (lyStride d i).toNat % lyES d != 0) ||
  (lyTiled d).toNat % (if lySwz d = 2 then 64 else 8) != 0

/-- Strided base of block `b`: the traversal order of its outer indices (19 R285). -/
def lyBase (d : BitVec 512) (b : Nat) : W64 :=
  ((List.range 4).foldl (fun (acc : W64 × Nat) j =>
    let i := lyOrder d j
    (acc.1 + BitVec.ofNat 64 (acc.2 % lyCount d i) * lyStride d i, acc.2 / lyCount d i)) (lyStrd d, b)).1

/-- Source and destination of each element of unit `u`, row `u mod Q` of block `u div Q` (19 R281, R285). -/
def cpyElems (d : BitVec 512) (u : Nat) : List (W64 × W64) :=
  let b := u / lyQ d
  let q := u % lyQ d
  (List.range (lyE d)).map (fun e =>
    let r := if lyColMajor d then e else q
    let c := if lyColMajor d then q else e
    let sa := lyBase d b + BitVec.ofNat 64 (r * lySRow d + c * lyES d)
    let ta := lyTiled d + BitVec.ofNat 64 (b * (8 * lyQ d * lyPitch d) + 8 * lyWord d q (e * lyES d / 8) + e * lyES d % 8)
    if lyToStrided d then (ta, sa) else (sa, ta))

/-! ### Descriptors of GATH and SCAT (19 R289) -/

def gdCount (d : BitVec 512) : Nat := field512 d 237 8 + 1
def gdRow (d : BitVec 512) : Nat := field512 d 225 12 + 1
def gdTstr (d : BitVec 512) : Nat := field512 d 192 32
def gdIdx (d : BitVec 512) : W64 := BitVec.ofNat 64 (field512 d 128 64)
def gdBuf (d : BitVec 512) : W64 := BitVec.ofNat 64 (field512 d 64 64)
def gdTable (d : BitVec 512) : W64 := BitVec.ofNat 64 (field512 d 0 64)

def gdIllegal (d : BitVec 512) : Bool :=
  field512 d 245 11 != 0 || field512 d 224 1 != 0 || gdRow d % 4 != 0 || decide (262144 < gdCount d * gdRow d) ||
  (gdIdx d).toNat / 2 ^ 56 != 0xFE || (gdBuf d).toNat / 2 ^ 56 != 0xFE

def gdMisaligned (d : BitVec 512) : Bool :=
  (gdTable d).toNat % 4 != 0 || gdTstr d % 4 != 0 || (gdIdx d).toNat % 4 != 0

/-- Row address in the table (19 R290). -/
def gdAddr (d : BitVec 512) (bias : W64) (x : W32) : W64 :=
  gdTable d + (x.zeroExtend 64 + bias) * BitVec.ofNat 64 (gdTstr d)

/-! ### Units -/

/-- Units of a command (19 R281). -/
def CopyCmd.units (c : CopyCmd) : Nat :=
  match c.kind with
  | .cpy => lyBlocks c.desc * lyQ c.desc
  | _ => gdCount c.desc

/-- Bytes of a unit, as byte mode counts them. -/
def CopyCmd.unitBytes (c : CopyCmd) : Nat :=
  match c.kind with
  | .cpy => lyE c.desc * lyES c.desc
  | _ => gdRow c.desc

/-- Source and destination ranges of a unit, with their length; a row whose index is all ones has none (19 R290). -/
def CopyCmd.moves (c : CopyCmd) (u : Nat) : List (W64 × W64 × Nat) :=
  match c.kind with
  | .cpy => (cpyElems c.desc u).map (fun x => (x.1, x.2, lyES c.desc))
  | .gath =>
    match c.idx[u]? with
    | some x => if x = BitVec.allOnes 32 then [] else
        [(gdAddr c.desc c.bias x, gdBuf c.desc + BitVec.ofNat 64 (u * gdRow c.desc), gdRow c.desc)]
    | none => []
  | .scat =>
    match c.idx[u]? with
    | some x => if x = BitVec.allOnes 32 then [] else
        [(gdBuf c.desc + BitVec.ofNat 64 (u * gdRow c.desc), gdAddr c.desc c.bias x, gdRow c.desc)]
    | none => []

/-- The gang in whose name a unit's writes are tagged (19 R280, R288). -/
def CopyCmd.owner (c : CopyCmd) (u : Nat) : Nat :=
  match c.kind with
  | .cpy =>
    let b := u / lyQ c.desc
    match c.parts.find? (fun p => decide (p.2.1 ≤ b ∧ b < p.2.1 + p.2.2)) with
    | some p => p.1
    | none => c.gang
  | _ => c.gang

def CopyCmd.has (c : CopyCmd) (u : Nat) : Bool := SMap.get false c.landed u

/-- Whether unit `u` may land next: CPY and SCAT land in ascending order, GATH in any (19 R290). -/
def CopyCmd.mayLand (c : CopyCmd) (u : Nat) : Bool :=
  decide (u < c.units) && !c.has u && (c.kind == .gath || (List.range u).all c.has)

/-- Agent id of a command (19 R282). -/
def CopyCmd.agent (core : Nat) (c : CopyCmd) : Nat :=
  engineAgent core c.gang (if c.kind == .cpy then 1 else 2) c.serial

/-- What an arrival of a command carries (19 R306). -/
def CopyCmd.arrival (s : State) (core : Nat) (c : CopyCmd) : LastArr :=
  ⟨BitVec.ofNat 64 (c.agent core), s.clockAt core, c.blame, c.top⟩

/-- Gangs whose counter counts a command (19 R288, R290). -/
def CopyCmd.gangs (c : CopyCmd) : List Nat :=
  match c.kind with
  | .cpy => c.parts.map (fun p => p.1)
  | _ => [c.gang]

def CopyCmd.cls (c : CopyCmd) : Nat := if c.kind == .cpy then 0 else 1

/-- Object word of a target, all ones for none (23 R355). -/
def Target.word (core : Nat) : Target → Nat
  | .none => 0xFFFFFFFF
  | .barrier b => objWord core 0 b
  | .ring g slot => objWord core 1 (8 * g + slot)

/-- CPY packet of a command (23 R354, R360): event 0 issue, 1 first byte, 2 last byte. -/
def emitCopy (core : Nat) (c : CopyCmd) (event src : Nat) (tag : Option (BitVec 16)) (s : State) : State :=
  let ends : W64 × W64 × Nat := match c.kind with
    | .cpy => if lyToStrided c.desc then (lyTiled c.desc, lyStrd c.desc, c.units * c.unitBytes)
              else (lyStrd c.desc, lyTiled c.desc, c.units * c.unitBytes)
    | .gath => (gdTable c.desc, gdBuf c.desc, c.units * c.unitBytes)
    | .scat => (gdBuf c.desc, gdTable c.desc, c.units * c.unitBytes)
  emitPacket core c.gang 6 9 event src tag (leBytes 4 (c.agent core) ++
    (if event = 0 then leBytes 8 ends.1.toNat ++ leBytes 8 ends.2.1.toNat ++ leBytes 4 ends.2.2 ++ leBytes 4 (c.target.word core) else [])) s

/-! ### Issue -/

/-- Capture the slot at PROD of a ring for a command (19 R302). -/
def captureSlot (w : Workgroup) (g : Nat) : Option (Target × Workgroup) :=
  let r := w.ring g
  if r.slots ≠ 0 ∧ (r.at r.prod).st = .filling then some (.ring g r.prod, w.setRing g { r with prod := r.next r.prod }) else none

/-- Count a command in a gang's counter (11 R206). -/
def Gang.countIssue (g : Gang) (k : Nat) : Gang :=
  { g with c := SMap.set 0 g.c k (SMap.get 0 g.c k + 1), cIssued := SMap.set 0 g.cIssued k (SMap.get 0 g.cIssued k + 1) }

/-- Queue a command: its number in its class, the counters of its gangs (19 R282, R288, R290). -/
def queueCopy (core : Nat) (c : CopyCmd) (s : State) : State :=
  let k := if c.kind == .cpy then 1 else 2
  let s := s.updWg core (fun w =>
    { w with cq := w.cq ++ [{ c with serial := SMap.get 0 w.serials k }],
             serials := SMap.set 0 w.serials k ((SMap.get 0 w.serials k + 1) % 2 ^ 16) })
  c.gangs.foldl (fun s g => s.updGang core g (fun x => x.countIssue c.cls)) s

/-- The access that reads the descriptor of GATH and SCAT. -/
def descAccess (cx : Ctx) (d : BitVec 6) : Accesses := [(lowLane cx.en, cx.g.sreg d.toNat)]

/-- The checks of GATH and SCAT before the queue wait, and the descriptor (19 R290). -/
def rowsChecks (s : State) (cx : Ctx) (k : BitVec 2) (i : BitVec 4) (d : BitVec 6) : Except Stop (BitVec 512) := do
  engineFields cx k i
  needRole cx .copy
  let xs := descAccess cx d
  spaceChecks s cx.core .load 32 32 xs
  raceCheck s cx.core cx.gang .load 32 xs
  poisonCheck s cx.core 32 xs
  let desc : BitVec 512 := BitVec.ofNat 512 (s.loadNum cx.core cx.gang 0 (cx.g.sreg d.toNat) 32)
  need (!gdIllegal desc) (illegalOperand cx)
  need (!gdMisaligned desc) (raise .alignment)
  pure desc

/-- GATH and SCAT (19 R290). With the queue full the instruction waits at issue: it has not issued (19 R280). In a workgroup that ends the command is discarded as the queued ones are (21 R340). -/
def rowsOp (kind : CopyKind) (k : BitVec 2) (i : BitVec 4) (d b : BitVec 6) (s : State) : Res :=
  issue s (fun cx => do
    let desc ← rowsChecks s cx k i d
    let xs := descAccess cx d
    let read := fun (s : State) => accessed cx.core 32 xs (readAsLoad cx.core cx.gang (cx.g.sreg d.toNat) 32 s)
    if cx.wg.ending then pure (retire cx (read s))
    else if 32 ≤ cx.wg.cq.length then pure s
    else
      let (t, w) ← (if k = 2 then
          match captureSlot cx.wg i.toNat with
          | some x => pure x
          | none => throw (raise .ringMisuse)
        else pure (if k = 1 then .barrier i.toNat else .none, cx.wg))
      let c : CopyCmd := { kind := kind, target := t, desc := desc, bias := cx.g.sreg b.toNat, gang := cx.gang, parts := [],
                           serial := SMap.get 0 cx.wg.serials 2, blame := cx.g.blame, top := cx.g.top, state := .queued, idx := [], landed := [],
                           faults := [], err := none, low := 0, lacks := [], lackAt := 0, since := 0,
                           know := knowOf s cx.core cx.gang, started := false }
      let s := read (s.setWg cx.core w)
      pure (retire cx (queueCopy cx.core c (emitCopy cx.core c 0 cx.src cx.tag s))))

def execGath (k : BitVec 2) (i : BitVec 4) (d b : BitVec 6) (s : State) : Res := rowsOp .gath k i d b s
def execScat (k : BitVec 2) (i : BitVec 4) (d b : BitVec 6) (s : State) : Res := rowsOp .scat k i d b s

/-! ### CPY and its formation (19 R288) -/

/-- A gang that has issued its CPY of the expected sequence: gang, split, s[R], s[L], K, IX, and when it began to wait. -/
structure Former where
  gang : Nat
  split : Nat
  r : W64
  l : W64
  k : Nat
  ix : Nat
  since : Nat
  deriving DecidableEq, Repr

/-- The CPY of the expected sequence that a gang waits at. -/
def formerOf (w : Workgroup) (gang : Nat) : Option Former :=
  (((SMap.get Gang.empty w.gangs gang).splits).zipIdx).findSome? (fun x => match x.1.wait with
    | .forming r l q k ix => if q = w.cpySeq ∧ !x.1.stopped then some ⟨gang, x.2, r, l, k, ix, x.1.waitStart⟩ else none
    | _ => none)

/-- Live COPY gangs. -/
def Workgroup.copyGangs (w : Workgroup) : List Nat :=
  w.live.filter (fun g => (SMap.get Gang.empty w.gangs g).role == .copy)

/-- The formers, when every live COPY gang has issued its CPY and the queue has room; none in a workgroup that ends (21 R340), nor in one that a pre-emption stops where it waits (21 R331). -/
def formers (w : Workgroup) : Option (List Former) :=
  let fs := w.copyGangs.filterMap (formerOf w)
  if fs.length = w.copyGangs.length ∧ fs ≠ [] ∧ w.cq.length < 32 ∧ !w.ending ∧ !w.preempt then some fs else none

/-- The forming gang: the one whose CPY completed the formation, which is the last that was issued; where that gang's split waits no more, the one that began to wait last (log 79). -/
def formingOf (w : Workgroup) (fs : List Former) : Option Former :=
  match fs.find? (fun f => f.gang == w.cpyLast) with
  | some f => some f
  | none => fs.foldl (fun best f => match best with
    | none => some f
    | some b => if b.since ≤ f.since then some f else some b) none

/-- The slices cover blocks 0 to nb − 1 exactly once. -/
def coverExactly (nb : Nat) (fs : List Former) : Bool :=
  let parts := fs.map (fun f => (bitsAt f.l.toNat 0 32, bitsAt f.l.toNat 32 32))
  decide ((parts.map (fun p => p.2)).sum = nb) && parts.all (fun p => decide (p.2 = 0 ∨ p.1 + p.2 ≤ nb)) &&
  (parts.zipIdx).all (fun p => (parts.zipIdx).all (fun q =>
    p.2 == q.2 || decide (p.1.2 = 0 ∨ q.1.2 = 0 ∨ p.1.1 + p.1.2 ≤ q.1.1 ∨ q.1.1 + q.1.2 ≤ p.1.1)))

/-- The word a split stands at, in its lowest occupied plane. -/
def State.wordOf (s : State) (core : Nat) (g : Gang) (sp : Split) : W32 := (s.peek core sp.pc ((g.occupied sp.lanes).headD 0)).getD 0

/-- Raise a trap in every former (19 R288). The word in TRAPA of an ILLEGAL_OPERAND is the gang's own. -/
def trapFormers (core : Nat) (fs : List Former) (c : Cause) (s : State) : State :=
  fs.foldl (fun s f =>
    let g := s.gangAt core f.gang
    let word := (g.splits[f.split]?).elim 0 (s.wordOf core g)
    deliverAt core f.gang f.split c (if c = .illegalOperand then word.zeroExtend 64 else 0) s) s

/-- Form a CPY when it can be formed. -/
def formCheck (core : Nat) (s : State) : State :=
  let w := s.wgAt core
  match formers w with
  | none => s
  | some fs =>
    match formingOf w fs with
    | none => s
    | some f =>
      let g := s.gangAt core f.gang
      let xs : Accesses := [(lowLane ((g.splits[f.split]?).elim 0 (fun sp => sp.lanes)), f.r)]
      let checks : Except Stop Unit := do
        spaceChecks s core .load 64 64 xs
        raceCheck s core f.gang .load 64 xs
        poisonCheck s core 64 xs
      match checks with
      | .error (.trap t) => trapWait core f.gang f.split t s
      | .error (.fault _) => s
      | .ok () =>
        let d : BitVec 512 := BitVec.ofNat 512 (s.loadNum core f.gang 0 f.r 64)
        if lyIllegal d then trapFormers core [f] .illegalOperand s
        else if lyMisaligned d then trapFormers core [f] .alignment s
        else if !(fs.all (fun x => x.r == f.r && x.k == f.k && x.ix == f.ix)) || !coverExactly (lyBlocks d) fs then
          trapFormers core fs .illegalOperand s
        else
          match (if f.k = 2 then captureSlot w f.ix else some (if f.k = 1 then .barrier f.ix else .none, w)) with
          | none => trapFormers core fs .ringMisuse s
          | some (t, w') =>
            let c : CopyCmd := { kind := .cpy, target := t, desc := d, bias := 0, gang := f.gang,
                                 parts := fs.map (fun x => (x.gang, bitsAt x.l.toNat 0 32, bitsAt x.l.toNat 32 32)),
                                 serial := SMap.get 0 w.serials 1, blame := g.blame, top := g.top, state := .queued, idx := [], landed := [],
                                 faults := [], err := none, low := 0, lacks := [], lackAt := 0, since := 0,
                                 know := fs.foldl (fun k x => k.join (knowOf s core x.gang)) [], started := false }
            let s := s.setWg core { w' with cpySeq := w.cpySeq + 1 }
            let s := accessed core 64 xs (readAsLoad core f.gang f.r 64 s)
            let sp := g.splits[f.split]?
            let s := queueCopy core c (emitCopy core c 0 (sp.elim 0 (srcOf core f.gang)) (sp.bind (fun x => x.waitTag)) s)
            fs.foldl (fun s x => s.updGang core x.gang (fun g => g.release x.split)) s

/-- CPY (19 R288). -/
def execCpy (k : BitVec 2) (i : BitVec 4) (r l q : BitVec 6) (s : State) : Res :=
  issue s (fun cx => do
    engineFields cx k i
    needRole cx .copy
    needCollective cx
    let n := cx.g.sreg q.toNat
    need (decide (cx.wg.cpySeq.toNat ≤ n.toNat)) (illegalOperand cx)
    let s := if n = cx.wg.cpySeq then s.updWg cx.core (fun w => { w with cpyLast := cx.gang }) else s
    pure (formCheck cx.core (waitAt cx (.forming (cx.g.sreg r.toNat) (cx.g.sreg l.toNat) n k.toNat i.toNat) s)))

/-! ### Running (19 R280, R281, R290) -/

/-- Replace the head of the copy queue. -/
def setCopyHead (core : Nat) (c : CopyCmd) (s : State) : State :=
  s.updWg core (fun w => { w with cq := match w.cq with
    | _ :: r => c :: r
    | [] => [] })

/-- One more error of a command: the first stays for CWAIT, with the lowest address of its cause (19 R303, 21 R315). -/
def addError (r : Option (Cause × W64) × W64) (e : Cause × W64) : Option (Cause × W64) × W64 :=
  match r.1 with
  | none => (some e, e.2)
  | some f => (r.1, if f.1 = e.1 ∧ e.2.toNat < r.2.toNat then e.2 else r.2)

def CopyCmd.addErrors (c : CopyCmd) (es : List (Cause × W64)) : CopyCmd :=
  let r := es.foldl addError (c.err, c.low)
  { c with err := r.1, low := r.2 }

/-- COPY_COMMAND_START: the head of the queue starts, unless a pre-emption is due (21 R331); GATH and SCAT read their index vector. -/
def execCopyCommandStart (core : Nat) (s : State) : Res :=
  match (s.wgAt core).cq with
  | c :: _ =>
    if c.state = .queued ∧ !(s.wgAt core).preempt then
      if c.kind = .cpy ∨ c.idx ≠ [] then .next (setCopyHead core { c with state := .running, started := true } s)
      else
        let addrs := (List.range (gdCount c.desc)).map (fun i => gdIdx c.desc + BitVec.ofNat 64 (4 * i))
        match addrs.flatMap (fun a => engineFaults s core .load a 4), beyondIn s core (addrs.map (fun a => (a, 4))) with
        | _, some pa => .fault (.physicalAddress pa)
        | [], none =>
          let idx := addrs.map (fun a => BitVec.ofNat 32 (s.engineNum core c.know a 4))
          let bad := addrs.filter (fun a => (bytesOf a 4).any (fun b => s.poisonAt (placeOf s core b)))
          .next (setCopyHead core { c.addErrors (bad.map (fun a => (Cause.integrity, a))) with state := .running, idx := idx, started := true } s).draw
        | fs, none => .next (setCopyHead core { c with state := .faulted, faults := fs, since := s.time, started := true } s)
    else .next s
  | [] => .next s

/-- The faults that unit `u` of a command meets. -/
def unitFaults (s : State) (core : Nat) (c : CopyCmd) (u : Nat) : List CmdFault :=
  (c.moves u).flatMap (fun m => engineFaults s core .load m.1 m.2.2 ++ engineFaults s core .store m.2.1 m.2.2)

/-- The writes of a unit: places, bytes, and whether each byte is poisoned. -/
def unitWrites (s : State) (core : Nat) (c : CopyCmd) (u : Nat) : List (Place × Byte × Bool) :=
  (c.moves u).flatMap (fun m => (List.range m.2.2).map (fun i =>
    let src := m.1 + BitVec.ofNat 64 i
    (placeOf s core (m.2.1 + BitVec.ofNat 64 i), s.engineByte core c.know src, s.poisonAt (placeOf s core src))))

/-- The places of a unit's writes that come poisoned. -/
def poisonedOf (ws : List (Place × Byte × Bool)) : List Place := (ws.filter (fun x => x.2.2)).map (fun x => x.1)

/-- The pages without backing of a unit's writes (15 R244). -/
def unbackedUnit (s : State) (ws : List (Place × Byte × Bool)) : List (Nat × Nat) :=
  unbackedBy s (ws.map (fun x => (x.1, x.2.1))) (poisonedOf ws)

/-- The pages for which a unit's write operations find no backing (15 R249). -/
def lacking (s : State) (ws : List (Place × Byte × Bool)) : List (Nat × Nat) := frameless s (unbackedUnit s ws)

/-- The lowest address of a write that finds no backing; `dests` are the addresses of the writes `ws`. -/
def lackAddr (s : State) (lacks : List (Nat × Nat)) (dests : List W64) (ws : List (Place × Byte × Bool)) : W64 :=
  let fails := (dests.zip ws).filterMap (fun x =>
    if x.2.1.inPages lacks && !(unbackedUnit s [x.2]).isEmpty then some x.1.toNat else none)
  BitVec.ofNat 64 (fails.foldl min (fails.headD 0))

/-- Tag a unit's scratchpad bytes in the name of a gang (19 R280). -/
def engineTags (core gang : Nat) (ws : List (Place × Byte × Bool)) (s : State) : State :=
  padTag core gang (padOffs core (ws.map (fun x => x.1))) false s

/-- Perform a unit's writes in the name of the commands of a class of a gang, one write operation to each page; poison goes with the data (11 R216); a page whose differs bits cannot be corrected is not written (log 82). -/
def performUnit (core cls gang : Nat) (ws : List (Place × Byte × Bool)) (s : State) : State :=
  let ws := ws.filter (fun x => !s.badPage x.1)
  engineTags core gang ws (asAgent ((s.wgAt core).agent (engineSlot cls gang)) (writeWords (ws.map (fun x => (x.1, x.2.1))) (poisonedOf ws)) s)

/-- A landing at a barrier (19 R281, R298). -/
def Barrier.land (b : Barrier) (bytes : Nat) : Barrier :=
  let n := if b.rows then 1 else bytes
  if b.err.isSome then b
  else if b.pend < n then { b with err := some .barrierOverflow }
  else { b with pend := b.pend - n }

/-- An engine arrival (19 R295, R298), with the releases it carries. -/
def Barrier.engineArrive (b : Barrier) (a : LastArr) (rel : List RelInfo) : Barrier :=
  if b.err.isSome then b
  else if b.engines ≤ b.engArrived then { b with err := some .barrierOverflow }
  else { b with engArrived := b.engArrived + 1, last := a, rel := b.rel ++ rel }

/-- An engine error at a command's target: the barrier or slot enters its error state (11 R216, 15 R249, 19 R298). -/
def Barrier.fail (b : Barrier) (e : Option (Cause × W64)) : Barrier :=
  match e with
  | some (c, _) => { b with err := some (b.err.getD c) }
  | none => b

/-- A release of the writes of a command of a class, as of gang `g` (11 R204, R206): what the gangs `gs` that issued it knew and what their commands have written, with a count of race detection. -/
def commandRelease (s : State) (core cls : Nat) (gs : List Nat) (know : Know) (g : Nat) (count : W32) : RelInfo :=
  let w := s.wgAt core
  ⟨w.launch, w.node, w.rank, g, count, 1, w.clusterGroup, dieOf core,
    gs.foldl (fun k h => k.upTo (w.agent (engineSlot cls h)) s.writes) know⟩

/-- The gangs of a command release at its arrival or commit (11 R209, 19 R288); the releases it carries. -/
def engineRelease (core : Nat) (c : CopyCmd) (s : State) : State × List RelInfo :=
  let s := c.gangs.foldl (fun s g => raceRelease core g s) s
  (s, c.gangs.map (fun g => commandRelease s core c.cls c.gangs c.know g (s.gangAt core g).rc))

/-- What a retirement leaves with a gang beside its counter: the last arriver, the error of a command without a target with the lowest address of its cause, the releases that a CWAIT acquires, and the gang that issued or formed the command. -/
structure Retired where
  last : LastArr
  err : Option (Cause × W64)
  low : W64
  rels : List RelInfo
  gang : Nat
  deriving DecidableEq, Repr

/-- A command of a gang retires: the counter falls, its last-arriver record follows (11 R206, 19 R303, R306); an error of a command without a target stays for CWAIT. -/
def Gang.countRetire (g : Gang) (k : Nat) (r : Retired) : Gang :=
  let number := SMap.get 0 g.cIssued k + 1 - (SMap.get 0 g.c k).toNat
  { g with c := SMap.set 0 g.c k (SMap.get 0 g.c k - 1), cLast := SMap.set LastArr.zero g.cLast k r.last,
           cErr := match r.err with
             | some (c, ad) => g.cErr ++ [⟨k, number, c, ad, r.low, r.gang⟩]
             | none => g.cErr,
           cRel := g.cRel ++ r.rels.map (fun x => ⟨k, number, x⟩) }

/-- A split at a CWAIT on counter `k` looks at the counter that has fallen: it passes, with the record of the retirement that brought the counter to its limit and the releases that it acquires, or takes an error that it covers (19 R303). What the gang still holds of errors goes from split to split. -/
def Split.passCounter (core k : Nat) (g : Gang) (errs : List CmdErr) (sp : Split) : List CmdErr × Split :=
  let g := { g with cErr := errs }
  match sp.wait with
  | .cwait k' n =>
    if k' = k ∧ g.canRelease sp ∧ cwaitReady g k n then
      match g.coveredErr k n with
      | some e => ((g.dropErr e).cErr, { sp with wait := .failed e.cause e.addr })
      | none => (errs, { sp with wait := .passed (objWord core 4 k) (SMap.get LastArr.zero g.cLast k) (g.coveredRels k n) })
    else (errs, sp)
  | _ => (errs, sp)

/-- The splits of a gang that wait for counter `k`, those parked in its dual-path stacks among them, look at it. -/
def Gang.passCounter (core k : Nat) (g : Gang) : Gang :=
  let r := g.thread (Split.passCounter core k g) g.cErr
  { r.2 with cErr := r.1 }

/-- A command of a gang retires: its counter falls, and the waits for it end; a split that a pre-emption has stopped looks again after the restore (21 R331). -/
def gangRetire (core gang k : Nat) (r : Retired) (s : State) : State :=
  let hold := (s.wgAt core).preempt
  s.updGang core gang (fun g => if hold then g.countRetire k r else (g.countRetire k r).passCounter core k)

/-- The releases that a CWAIT acquires of a command (11 R206): those that an arrival or a commit has made, `rels`; else in a checked workgroup those of the gangs that formed a collective copy; else one without a count, as a gang needs none of its own. -/
def retireReleases (core : Nat) (c : CopyCmd) (rels : List RelInfo) (s : State) : State × List RelInfo :=
  if !rels.isEmpty then (s, rels)
  else if (s.wgAt core).kernel.schk && decide (1 < c.gangs.length) then engineRelease core c s
  else (s, [commandRelease s core c.cls c.gangs c.know c.gang 0])

/-- The head command retires (19 R281). -/
def retireCopy (core : Nat) (c : CopyCmd) (rels : List RelInfo) (s : State) : State :=
  let a := c.arrival s core
  let s := s.updWg core (fun w => { w with cq := w.cq.drop 1 })
  let (s, rels) := retireReleases core c rels s
  let r : Retired := ⟨a, if c.target = .none then c.err else none, c.low, rels, c.gang⟩
  formCheck core (c.gangs.foldl (fun s g => gangRetire core g c.cls r s) s)

/-- SRC of a gang as its first split gives it. -/
def gangSrc (core gang : Nat) (g : Gang) : Nat :=
  match g.splits with
  | sp :: _ => srcOf core gang sp
  | [] => core % Config.coresPerDie * 2 ^ 9 + gang * 2 ^ 5

/-- Record the landing of a unit at the target, and with the last one the arrival or commit, and the retirement (19 R281). When a pre-emption is due the command stops with this landing (19 R280). -/
def landed (core : Nat) (c : CopyCmd) (u : Nat) (s : State) : State :=
  let src := gangSrc core c.gang (s.gangAt core c.gang)
  let c := { c with landed := SMap.set false c.landed u true, state := if (s.wgAt core).preempt then .queued else .running }
  let first := (List.range c.units).countP c.has == 1
  let final := (List.range c.units).all c.has
  let s := if first then emitCopy core c 1 src none s else s
  let s := setCopyHead core c s
  if !final then
    match c.target with
    | .barrier b => updBarrier core b (fun x => ((x.land c.unitBytes).fail c.err).check) s
    | _ => s
  else
    let s := emitCopy core c 2 src none s
    let (s, rel) := if c.target = .none then (s, []) else engineRelease core c s
    let a := c.arrival s core
    let s := match c.target with
      | .none => s
      | .barrier b => updBarrier core b (fun x => (((x.land c.unitBytes).fail c.err).engineArrive a rel).check) s
      | .ring g slot => s.updWg core (fun w =>
          let r := w.ring g
          w.setRing g (r.put slot { r.at slot with st := .full, err := c.err, last := a, rel := rel }))
    retireCopy core c rel s

/-- The integrity errors that unit `u` meets: poisoned data that it reads, and pages whose differs bits cannot be corrected that it writes (11 R216, 15 R246). -/
def unitErrors (s : State) (core : Nat) (c : CopyCmd) (u : Nat) : List (Cause × W64) :=
  ((c.moves u).flatMap (fun m =>
    (bytesOf m.1 m.2.2).filter (fun a => s.poisonAt (placeOf s core a)) ++
      (bytesOf m.2.1 m.2.2).filter (fun a => s.badPage (placeOf s core a)))).map (fun a => (.integrity, a))

/-- UNIT_LAND: unit `u` of the running head command lands; a write that finds no backing waits (15 R249). -/
def execUnitLand (core u : Nat) (s : State) : Res :=
  match (s.wgAt core).cq with
  | c :: _ =>
    if c.state = .running ∧ c.mayLand u ∧ unitFaults s core c u = [] then
      let ws := unitWrites s core c u
      match (c.moves u).findSome? (fun m => beyondIn s core [(m.1, m.2.2), (m.2.1, m.2.2)]) with
      | some pa => .fault (.physicalAddress pa)
      | none =>
        match lacking s ws with
        | [] => .next (landed core (c.addErrors (unitErrors s core c u)) u (performUnit core c.cls (c.owner u) ws s).draw)
        | ps =>
          let at_ := lackAddr s ps ((c.moves u).flatMap (fun m => bytesOf m.2.1 m.2.2)) ws
          .next (setCopyHead core { c with state := .backing, lacks := ps, lackAt := at_, since := s.time } s)
    else .next s
  | [] => .next s

/-- COPY_FAULT: unit `u` of the running head command faults; the command stops for service (19 R280). -/
def execCopyFault (core u : Nat) (s : State) : Res :=
  match (s.wgAt core).cq with
  | c :: _ =>
    match unitFaults s core c u with
    | [] => .next s
    | fs =>
      if c.state = .running ∧ c.mayLand u then .next (setCopyHead core { c with state := .faulted, faults := fs, since := s.time } s).draw
      else .next s
  | [] => .next s

end Sys2Proof.Machine
end

