-- ==== Sys2Proof/Machine/Float.lean ====
section
/-! DEFINITION. Exact binary values and their one rounding (03 R50, R51, R65 to R68), the L6 codes (03 R53 to R55) and the sticky flag bits (03 R80). -/

namespace Sys2Proof.Machine

/-! ### Flags (03 R80) -/

def flIX : Nat := 1
def flUF : Nat := 2
def flOF : Nat := 4
def flDZ : Nat := 8
def flIV : Nat := 16
def flSAT : Nat := 32

/-- A rounded or converted result with the flags it sets. -/
abbrev Flagged := Nat × Nat

/-! ### Formats (03 R50) -/

/-- A floating-point format by the widths of its fields. -/
structure FFmt where
  ew : Nat
  fw : Nat
  deriving DecidableEq, Repr

def fF32 : FFmt := ⟨8, 23⟩
def fF16 : FFmt := ⟨5, 10⟩
def fBF16 : FFmt := ⟨8, 7⟩

def FFmt.bias (f : FFmt) : Nat := 2 ^ (f.ew - 1) - 1
def FFmt.width (f : FFmt) : Nat := 1 + f.ew + f.fw
/-- Exponent of the unit of a subnormal. -/
def FFmt.emin (f : FFmt) : Int := 1 - (f.bias : Int) - (f.fw : Int)
def FFmt.signBit (f : FFmt) : Nat := 2 ^ (f.ew + f.fw)
def FFmt.infBits (f : FFmt) : Nat := (2 ^ f.ew - 1) * 2 ^ f.fw
/-- The canonical NaN (03 R51). -/
def FFmt.nan (f : FFmt) : Nat := f.infBits + 2 ^ (f.fw - 1)
/-- The largest finite magnitude. -/
def FFmt.maxBits (f : FFmt) : Nat := f.infBits - 1
def FFmt.signed (f : FFmt) (neg : Bool) (mag : Nat) : Nat := if neg then f.signBit + mag else mag

/-- A decoded value: `fin neg m e` is (−1)^neg × m × 2^e. -/
inductive FVal where
  | nan (signalling : Bool)
  | inf (neg : Bool)
  | fin (neg : Bool) (m : Nat) (e : Int)
  deriving DecidableEq, Repr

def FFmt.neg (f : FFmt) (x : Nat) : Bool := x / f.signBit % 2 == 1

/-- Decode the bits of a format. -/
def FFmt.decode (f : FFmt) (x : Nat) : FVal :=
  let neg := f.neg x
  let ex := x / 2 ^ f.fw % 2 ^ f.ew
  let fr := x % 2 ^ f.fw
  if ex = 2 ^ f.ew - 1 then (if fr = 0 then .inf neg else .nan (decide (fr < 2 ^ (f.fw - 1))))
  else if ex = 0 then .fin neg fr f.emin
  else .fin neg (2 ^ f.fw + fr) ((ex : Int) - (f.bias : Int) - (f.fw : Int))

def FVal.isNan : FVal → Bool
  | .nan _ => true
  | _ => false

/-- IV of a signalling NaN operand (03 R51). -/
def FVal.ivOf : FVal → Nat
  | .nan true => flIV
  | _ => 0

def FVal.isZero : FVal → Bool
  | .fin _ 0 _ => true
  | _ => false

def FVal.isNeg : FVal → Bool
  | .nan _ => false
  | .inf n => n
  | .fin n _ _ => n

/-- Whether bits encode a subnormal. -/
def FFmt.subnormal (f : FFmt) (x : Nat) : Bool := x / 2 ^ f.fw % 2 ^ f.ew == 0 && x % 2 ^ f.fw != 0

/-! ### Rounding (03 R65, R66) -/

/-- Rounding modes, encoded as MODE.RM. -/
inductive RM where
  | rne | rz | rd | ru
  deriving DecidableEq, Repr

def RM.ofCode (n : Nat) : RM :=
  match n % 4 with
  | 0 => .rne | 1 => .rz | 2 => .rd | _ => .ru

/-- Whether the magnitude `q + rem / 2^sh` rounds up. -/
def roundUp (rm : RM) (neg : Bool) (q rem sh : Nat) : Bool :=
  match rm with
  | .rne => decide (2 ^ sh < 2 * rem) || (2 * rem == 2 ^ sh && q % 2 == 1)
  | .rz => false
  | .rd => neg && rem != 0
  | .ru => !neg && rem != 0

/-- Round m × 2^e at the unit 2^q: the integer multiple, and whether it is inexact. -/
def roundAt (rm : RM) (neg : Bool) (m : Nat) (e q : Int) : Nat × Bool :=
  if q ≤ e then (m * 2 ^ (e - q).toNat, false)
  else
    let sh := (q - e).toNat
    let d := m / 2 ^ sh
    let r := m % 2 ^ sh
    (if roundUp rm neg d r sh then d + 1 else d, r != 0)

/-- The result of an overflow (03 R66). -/
def overflowBits (f : FFmt) (rm : RM) (neg : Bool) : Nat :=
  f.signed neg (match rm with
    | .rne => f.infBits
    | .rz => f.maxBits
    | .rd => if neg then f.infBits else f.maxBits
    | .ru => if neg then f.maxBits else f.infBits)

/-- Round the exact value (−1)^neg × m × 2^e once to a format; tininess is detected after rounding (03 R80). -/
def roundTo (f : FFmt) (rm : RM) (neg : Bool) (m : Nat) (e : Int) : Flagged :=
  if m = 0 then (f.signed neg 0, 0)
  else
    let top : Int := (Nat.log2 m : Int) + e
    let q : Int := max (top - (f.fw : Int)) f.emin
    let (r, inexact) := roundAt rm neg m e q
    let ex : Int := if r < 2 ^ f.fw then 0
      else q + (f.fw : Int) + (f.bias : Int) + (if 2 ^ (f.fw + 1) ≤ r then 1 else 0)
    let fr : Nat := if r < 2 ^ f.fw then r else if 2 ^ (f.fw + 1) ≤ r then 0 else r - 2 ^ f.fw
    if (2 : Int) ^ f.ew - 1 ≤ ex then (overflowBits f rm neg, flOF ||| flIX)
    else
      -- the value rounded with an unbounded exponent range lies below the smallest normal
      let free := (roundAt rm neg m e (top - (f.fw : Int))).1
      let topFree : Int := if 2 ^ (f.fw + 1) ≤ free then top + 1 else top
      let tiny := decide (topFree < 1 - (f.bias : Int))
      (f.signed neg (ex.toNat * 2 ^ f.fw + fr), (if inexact then flIX else 0) ||| (if tiny && inexact then flUF else 0))

/-- Flush a result that is subnormal after rounding (03 R67). -/
def flushResult (f : FFmt) (ftz : Bool) (x : Flagged) : Flagged :=
  if ftz && f.subnormal x.1 then (f.signed (f.neg x.1) 0, x.2 ||| flUF ||| flIX) else x

/-- Read a subnormal operand as zero under FTZ (03 R67). -/
def flushOperand (f : FFmt) (ftz : Bool) (x : Nat) : Nat :=
  if ftz && f.subnormal x then f.signed (f.neg x) 0 else x

/-! ### Exact sums and products -/

/-- An exact number n × 2^e. -/
structure Dyadic where
  n : Int
  e : Int
  deriving DecidableEq, Repr

def signedInt (neg : Bool) (m : Nat) : Int := if neg then -(m : Int) else m

/-- Exact sum. -/
def Dyadic.add (a b : Dyadic) : Dyadic :=
  let e := min a.e b.e
  ⟨a.n * 2 ^ (a.e - e).toNat + b.n * 2 ^ (b.e - e).toNat, e⟩

/-- Round an exact number; `zeroNeg` is the sign of an exact zero. -/
def roundDyadic (f : FFmt) (rm : RM) (zeroNeg : Bool) (x : Dyadic) : Flagged :=
  if x.n = 0 then (f.signed zeroNeg 0, 0) else roundTo f rm (decide (x.n < 0)) x.n.natAbs x.e

/-- An operand of a sum: a product or an addend, with the flags it has set. -/
def FVal.dyadic : FVal → Dyadic
  | .fin neg m e => ⟨signedInt neg m, e⟩
  | _ => ⟨0, 0⟩

/-- The product of two values: 0 × ∞ is NaN with IV; a NaN operand gives NaN (03 R51, R76). -/
def FVal.mul (a b : FVal) : FVal × Nat :=
  let iv := a.ivOf ||| b.ivOf
  match a, b with
  | .nan _, _ => (.nan false, iv)
  | _, .nan _ => (.nan false, iv)
  | .inf n, .fin _ 0 _ => let _ := n; (.nan false, flIV)
  | .fin _ 0 _, .inf _ => (.nan false, flIV)
  | .inf n, .inf n' => (.inf (n != n'), 0)
  | .inf n, .fin n' _ _ => (.inf (n != n'), 0)
  | .fin n _ _, .inf n' => (.inf (n != n'), 0)
  | .fin n m e, .fin n' m' e' => (.fin (n != n') (m * m') (e + e'), 0)

/-- The sum of values before rounding: NaN, an infinity, or an exact number, with the common sign when every addend is a zero of that sign. -/
inductive FSum where
  | nan
  | inf (neg : Bool)
  | num (x : Dyadic) (zeros : Option Bool)
  deriving DecidableEq, Repr

/-- Add values exactly; ∞ + (−∞) is NaN with IV (03 R76, 09 R165), beside a NaN among them too. -/
def sumValues (vs : List FVal) : FSum × Nat :=
  let clash := vs.contains (.inf false) && vs.contains (.inf true)
  if clash || vs.any FVal.isNan then (.nan, vs.foldl (fun f v => f ||| v.ivOf) (if clash then flIV else 0))
  else if vs.contains (.inf false) then (.inf false, 0)
  else if vs.contains (.inf true) then (.inf true, 0)
  else (.num (vs.foldl (fun d v => d.add v.dyadic) ⟨0, 0⟩)
    (if vs.all (fun v => v.isZero && v.isNeg) then some true
     else if vs.all (fun v => v.isZero && !v.isNeg) then some false else none), 0)

/-- Round a sum once. An exact zero keeps the common sign of its addends, else it is +0, or −0 under RD (IEEE 754-2019, 03 R50). -/
def FSum.round (f : FFmt) (rm : RM) : FSum → Flagged
  | .nan => (f.nan, 0)
  | .inf n => (f.signed n f.infBits, 0)
  | .num x z => roundDyadic f rm (z.getD (decide (rm = RM.rd))) x

/-- IEEE sum of two operands in a rounding mode. -/
def addBits (f : FFmt) (rm : RM) (a b : Nat) : Flagged :=
  let (t, fl) := sumValues [f.decode a, f.decode b]
  let r := t.round f rm
  (r.1, r.2 ||| fl)

/-! ### L6 codes and scales (03 R53 to R55) -/

/-- The table T (03 R54). -/
def l6T : Nat → Nat
  | 0 => 0x8000
  | 1 => 0x9838
  | 2 => 0xB505
  | _ => 0xD744

/-- The field l of a code, −16 to 15. -/
def l6L (code : Nat) : Int := if code % 32 < 16 then (code % 32 : Nat) else ((code % 32 : Nat) : Int) - 32

def l6Zero (code : Nat) : Bool := code % 32 == 16
def l6Neg (code : Nat) : Bool := code / 32 % 2 == 1

/-- The magnitude of l as an exact number: T[f] × 2^(q − 15) (03 R54). -/
def l6Mag (l : Int) : Nat × Int := (l6T (l % 4).toNat, l / 4 - 15)

/-- The product of two codes, in units of 2^−23 (03 R71, R72). -/
def l6Product (a b : Nat) : Int :=
  if l6Zero a || l6Zero b then 0
  else
    let s := l6L a + l6L b
    signedInt (l6Neg a != l6Neg b) (l6T (s % 4).toNat * 2 ^ (s / 4 + 8).toNat)

end Sys2Proof.Machine
end

