-- ==== Sys2Proof/Machine/Flags.lean ====
section
/-! DEFINITION. The FLAGS register (03 R80, R81): flags are ORed in, never cleared. -/

namespace Sys2Proof.Machine

/-- OR flag bits into FLAGS. -/
def Gang.orFlags (g : Gang) (f : Nat) : Gang := { g with flags := g.flags ||| BitVec.ofNat 32 f }

/-- FLAGS and MODE hold only their defined bits (03 R65, R80). -/
def flagsMask : W32 := 0x3F
def modeMask : W32 := 0x7

/-- MODE.FTZ and MODE.RM (03 R65). -/
def Gang.ftz (g : Gang) : Bool := g.mode.getLsbD 2
def Gang.rm (g : Gang) : RM := RM.ofCode g.mode.toNat

end Sys2Proof.Machine
end

