-- ==== Sys2Proof/Machine/Operands.lean ====
section
/-! DEFINITION. Operands of the vector instructions (05 R88, R95, R96, R100, R101): sources, elements, the common format (03 R60 to R63), latches (01 R37 to R39), and how an issue writes its results. -/

namespace Sys2Proof.Machine

/-! ### Formats and elements (03 R57) -/

/-- Width of an element of a format. -/
def Tag.width : Tag → Nat
  | .f16x2 | .bf16x2 | .s16x2 | .n16x2 => 16
  | .s8x4 | .n8x4 | .l6x4 => 8
  | .s64 | .n64 => 64
  | _ => 32

def Tag.wide (t : Tag) : Bool := t == .s64 || t == .n64
def Tag.signed (t : Tag) : Bool := t == .s32 || t == .s16x2 || t == .s8x4 || t == .s64
def Tag.natural (t : Tag) : Bool := t == .n32 || t == .n16x2 || t == .n8x4 || t == .n64
def Tag.integer (t : Tag) : Bool := t.signed || t.natural

/-- The floating-point format of the elements. -/
def Tag.float : Tag → Option FFmt
  | .f32 => some fF32
  | .f16x2 => some fF16
  | .bf16x2 => some fBF16
  | _ => none

/-- The N format of the same element width (09 R156). -/
def Tag.toNatural : Tag → Tag
  | .s16x2 | .n16x2 | .f16x2 | .bf16x2 => .n16x2
  | .s8x4 | .n8x4 => .n8x4
  | .s64 | .n64 => .n64
  | _ => .n32

/-- Elements of `w` bits of a lane value, lowest first; a 64-bit value is one element. -/
def elems (w x : Nat) : List Nat := if w = 64 then [x % 2 ^ 64] else (List.range (32 / w)).map (fun i => bitsAt x (w * i) w)

/-- The lane value of a list of elements. -/
def joinElems (w : Nat) (es : List Nat) : Nat := (es.zipIdx).foldl (fun n x => n + x.1 % 2 ^ w * 2 ^ (w * x.2)) 0

/-- An integer converted exactly into every element of a format (03 R60, R62); B32, INVALID and L6X4 take it zero-extended. -/
def Tag.ofInt (t : Tag) (k : Nat) : Nat :=
  match t.float with
  | some f => joinElems t.width (List.replicate (32 / t.width) (roundTo f .rne false k 0).1)
  | none =>
    if t.integer && !t.wide then joinElems t.width (List.replicate (32 / t.width) k) else k

/-! ### Sources (05 R95) -/

/-- A source of format A. -/
inductive Src where
  | reg (r : Nat)
  | latch (i : Nat)
  | lane
  | slice
  | plane
  | inl (k : Nat)
  | bcast (n : Nat)
  | imm (x : W64)
  deriving DecidableEq, Repr

/-- Decode a source field; a latch is a source of latch-class instructions only (01 R37). -/
def srcOfField (cx : Ctx) (latches : Bool) (f : BitVec 8) : Except Stop Src :=
  let n := f.toNat
  if n < 0x80 then .ok (.reg n)
  else if n < 0x84 then if latches then .ok (.latch (n - 0x80)) else .error (illegalOperand cx)
  else if n = 0x84 then .ok .lane
  else if n = 0x85 then .ok .slice
  else if n = 0x86 then .ok .plane
  else if n < 0x90 then .error (illegalOperand cx)
  else if n < 0xC0 then .ok (.inl (n - 0x90))
  else .ok (.bcast (n - 0xC0))

/-- Source B, which the immediate replaces; its field must then be zero (05 R100). -/
def srcB (cx : Ctx) (latches : Bool) (f : BitVec 8) : Except Stop Src :=
  match cx.imm with
  | some i => if f = 0 then .ok (.imm i) else .error (illegalInstruction cx)
  | none => srcOfField cx latches f

def Src.isLatch : Src → Bool
  | .latch _ => true
  | _ => false

def Src.isReg : Src → Bool
  | .reg _ => true
  | _ => false

/-- A source that carries a tag. -/
def Src.tagged (x : Src) : Bool := x.isLatch || x.isReg

/-- REG_BLOCK of a source (05 R96). -/
def Src.block (cx : Ctx) : Src → Except Stop Unit
  | .reg r => regBlock cx r
  | _ => .ok ()

/-- A register in a lane: INTEGRITY when its parity fails (11 R216). -/
def readReg (cx : Ctx) (r l : Nat) : Except Stop VCell :=
  let x := cx.g.cell r l
  if x.bad then .error (.trap (Trap.at .integrity l (BitVec.ofNat 64 (r * 256 + l)))) else .ok x

/-- A latch entry in a lane, in the plane of the issue; an invalid one raises LATCH_INVALID (01 R39), one whose parity fails INTEGRITY, with the latch's source code 0x80 + i in the place of the register's number (11 R216, log 83). -/
def readLatch (cx : Ctx) (i l : Nat) : Except Stop Latch :=
  match cx.g.latch (cx.plane.getD 0) i l with
  | some x => if x.bad then .error (.trap (Trap.at .integrity l (BitVec.ofNat 64 ((0x80 + i) * 256 + l)))) else .ok x
  | none => .error (.trap (Trap.lanewise .latchInvalid l))

/-- What a source holds in a lane: its tag when it carries one, and its bits; for a source without a tag, how it converts. -/
inductive Val where
  /-- bits with a tag, and the register they come from -/
  | tagged (bits : W32) (tag : Tag) (reg : Option Nat)
  /-- an integer, to be converted exactly -/
  | int (k : Nat)
  /-- uninterpreted bits: 32 in a 32-bit format, 64 in a 64-bit one -/
  | raw (x : W64)
  deriving DecidableEq, Repr

/-- Read a source in a lane. -/
def Src.read (cx : Ctx) (l : Nat) : Src → Except Stop Val
  | .reg r => do let x ← readReg cx r l; pure (.tagged x.bits x.tag (some r))
  | .latch i => do let x ← readLatch cx i l; pure (.tagged x.bits x.tag none)
  | .lane => .ok (.int l)
  | .slice => .ok (.int (l / 4))
  | .plane => .ok (.int (cx.g.planeOf l))
  | .inl k => .ok (.int k)
  | .bcast n => .ok (.raw (cx.g.sreg n))
  | .imm x => .ok (.raw x)

def Val.tag? : Val → Option Tag
  | .tagged _ t _ => some t
  | _ => none

/-- The value's bits [31:0], without conversion (09 R168, R171, R172). -/
def Val.low : Val → Nat
  | .tagged b _ _ => b.toNat
  | .int k => k
  | .raw x => x.toNat % 2 ^ 32

/-- The bits of a value as a source of a format (03 R60, R62). -/
def Val.inFormat (t : Tag) : Val → Nat
  | .tagged b _ _ => b.toNat
  | .int k => t.ofInt k
  | .raw x => if t.wide then x.toNat else x.toNat % 2 ^ 32

/-- The 64 bits of a register pair (03 R63): an even register, and, where tags are checked, one tag. -/
def readPair (cx : Ctx) (check : Bool) (r l : Nat) : Except Stop Nat := do
  need (r % 2 == 0) (illegalOperand cx)
  let lo ← readReg cx r l
  let hi ← readReg cx (r + 1) l
  need (!check || lo.tag == hi.tag) (.trap (Trap.lanewise .formatTag l))
  pure (lo.bits.toNat + hi.bits.toNat * 2 ^ 32)

/-- A value in a format, a pair where the format has 64 bits; a latch is no source of a 64-bit issue (03 R63). -/
def Val.get (cx : Ctx) (check : Bool) (t : Tag) (l : Nat) (v : Val) : Except Stop Nat :=
  match v with
  | .tagged b _ r =>
    if t.wide then
      match r with
      | some r => readPair cx check r l
      | none => .error (illegalOperand cx)
    else .ok b.toNat
  | v => .ok (v.inFormat t)

/-- The registers of a 64-bit issue (03 R63): N = 0, an even destination and even sources, no latch; all before any pair's tags. -/
def wideShape (cx : Ctx) (n : BitVec 1) (d : Nat) (t : Tag) (vs : List Val) : Except Stop Unit :=
  need (!t.wide || (n == 0 && d % 2 == 0 && vs.all (fun v => match v with
    | .tagged _ _ (some r) => r % 2 == 0
    | .tagged _ _ none => false
    | _ => true))) (illegalOperand cx)

/-- FORMAT_TAG in a lane. -/
def badTag (l : Nat) : Stop := .trap (Trap.lanewise .formatTag l)

/-- The common format of a lane (03 R60): every tagged source carries one tag, neither B32 nor INVALID; `dflt` when none does. -/
def commonFormat (l : Nat) (dflt : Tag) (tags : List Tag) : Except Stop Tag :=
  match tags with
  | [] => .ok dflt
  | t :: ts => if ts.all (fun u => u == t) && t != .b32 && t != .invalid then .ok t else .error (badTag l)

/-! ### Writing results -/

/-- What an issue gives in a lane: registers with bits and tags, the value for x0, a predicate bit, flags. -/
structure LaneOut where
  lane : Nat
  regs : List (Nat × W32 × Tag)
  x0 : Option Latch
  bit : Bool
  flags : Nat
  deriving DecidableEq, Repr

/-- Result bits of a format in register `d`: one register, or a pair that never enters a latch (03 R63). With N = 1 the registers are not written (01 R38). -/
def outOf (cx : Ctx) (n : BitVec 1) (d : Nat) (t : Tag) (l x flags : Nat) : Except Stop LaneOut :=
  if t.wide then do
    need (n == 0 && d % 2 == 0) (illegalOperand cx)
    pure ⟨l, [(d, BitVec.ofNat 32 x, t), (d + 1, BitVec.ofNat 32 (x / 2 ^ 32), t)], none, false, flags⟩
  else
    .ok ⟨l, if n = 1 then [] else [(d, BitVec.ofNat 32 x, t)], some ⟨BitVec.ofNat 32 x, t, false⟩, false, flags⟩

/-- A latch holds what a register would (03 R58). -/
def Latch.clean (x : Latch) : Latch := { x with bits := x.tag.clean x.bits }

/-- The latches of one lane after a latch-class issue (01 R38). -/
def latchLane (reads : Bool) (plane l : Nat) (x0 : Option Latch) (x : SMap (Option Latch)) : SMap (Option Latch) :=
  let k := fun i => 32 * (4 * plane + i) + l
  let old := fun i => if reads then SMap.get none x (k i) else none
  SMap.setAll none x [(k 0, x0), (k 1, old 0), (k 2, old 1), (k 3, old 2)]

/-- The split as a latch-class issue leaves it: prefixes used up, its chain counted (01 R39). -/
def Split.chained (sp : Split) (cx : Ctx) (reads : Bool) (clock : Nat) : Split :=
  let n := cx.plane.getD 0
  { sp with pfx := SMap.set none sp.pfx cx.key none, lastIssue := sp.stamped cx.g cx.plane clock,
            chain := SMap.set 0 sp.chain n (if reads then SMap.get 0 sp.chain n + 1 else 1) }

/-- Retire a latch-class issue with its results (01 R38, R39, 09 R155): all sources have been read. Lanes of the issue outside E leave x0 invalid. -/
def commitVec (cx : Ctx) (reads : Bool) (outs : List LaneOut) (s : State) : State :=
  let clock := (s.clockAt cx.core).toNat
  let n := cx.plane.getD 0
  let g := s.gangAt cx.core cx.gang
  let g := outs.foldl (fun g o => o.regs.foldl (fun g r => g.setV r.1 o.lane r.2.1 r.2.2) g) g
  let g := outs.foldl (fun g o => g.orFlags o.flags) g
  let x0 := fun l => match outs.find? (fun o => o.lane == l) with
    | some o => o.x0.map Latch.clean
    | none => none
  let g := { g with x := (lanesOf cx.lanes).foldl (fun x l => latchLane reads n l (x0 l) x) g.x, lastIssue := clock }
  s.setGang cx.core cx.gang (g.setSplit cx.split (Split.step g (cx.sp.chained cx reads clock) cx.plane))

/-- The seventeenth latch-reading issue of a chain (01 R39). -/
def chainOk (cx : Ctx) (reads : Bool) : Except Stop Unit :=
  need (!(reads && decide (16 < SMap.get 0 cx.sp.chain (cx.plane.getD 0)))) (raise .latchInvalid)

/-- The N bit of a latch-class instruction: D is zero with it (05 R88); one that reads the register D names cannot have it (05 R96). -/
def suppressOk (cx : Ctx) (n : BitVec 1) (d : BitVec 7) (third : Bool) : Except Stop Unit := do
  need (n == 0 || d == 0) (illegalInstruction cx)
  need (n == 0 || !third) (illegalOperand cx)

/-! ### The MOD prefix (05 R101, 03 R69) -/

/-- The fields of a MOD. -/
structure ModF where
  sat : Bool
  clamp : Bool
  nega : Bool
  negb : Bool
  absa : Bool
  absb : Bool
  negr : Bool
  exp2 : Int
  rnd : Nat
  deriving DecidableEq, Repr

def ModF.of (m : BitVec 24) : ModF :=
  { sat := m.getLsbD 23, clamp := m.getLsbD 22, nega := m.getLsbD 21, negb := m.getLsbD 20, absa := m.getLsbD 19,
    absb := m.getLsbD 18, negr := m.getLsbD 17, exp2 := (BitVec.ofNat 6 (m.toNat / 2 ^ 11)).toInt, rnd := bitsAt m.toNat 9 2 }

/-- The fields that an instruction admits (09 R153), as a mask of the payload. -/
def mdSAT : Nat := 0x800000
def mdCLAMP : Nat := 0x400000
def mdNEGA : Nat := 0x200000
def mdNEGB : Nat := 0x100000
def mdABSA : Nat := 0x080000
def mdABSB : Nat := 0x040000
def mdNEGR : Nat := 0x020000
def mdEXP2 : Nat := 0x01F800
def mdRND : Nat := 0x000600
def mdSigns : Nat := mdNEGA + mdNEGB + mdABSA + mdABSB
def mdAll : Nat := 0xFFFE00

/-- ILLEGAL_OPERAND for a field that is not admitted. -/
def modOk (cx : Ctx) (allowed : Nat) : Except Stop Unit :=
  need (cx.modw.toNat &&& (mdAll - allowed) == 0) (illegalOperand cx)

def Ctx.md (cx : Ctx) : ModF := ModF.of cx.modw

/-- The rounding of the instruction (03 R69). -/
def Ctx.round (cx : Ctx) : RM := if cx.md.rnd = 0 then cx.g.rm else RM.ofCode cx.md.rnd

end Sys2Proof.Machine
end

