-- ==== Sys2Proof/Machine/Vector.lean ====
section
/-! DEFINITION. Vector integer instructions (09 R156 to R160). -/

namespace Sys2Proof.Machine

/-- The parts of a latch-class issue that every format-A instruction of two sources shares: the operands decided by the words, REG_BLOCK, the chain, and then the lanes of E in ascending order. `third` says that D names a third source. -/
def vec2 (n : BitVec 1) (d : BitVec 7) (a b : BitVec 8) (third : Bool) (mods : Nat)
    (lane : Ctx → Nat → Val → Val → Except Stop LaneOut) (s : State) : Res :=
  issue s (fun cx => do
    need (n == 0 || d == 0) (illegalInstruction cx)
    let sb ← srcB cx true b
    let sa ← srcOfField cx true a
    suppressOk cx n d third
    modOk cx mods
    regBlock cx d.toNat
    sa.block cx
    sb.block cx
    let reads := sa.isLatch || sb.isLatch
    chainOk cx reads
    let outs ← cx.ls.mapM (fun l => do
      let va ← sa.read cx l
      let vb ← sb.read cx l
      lane cx l va vb)
    pure (commitVec cx reads outs s))

/-- The same for an instruction whose field B is unused. -/
def vec1 (n : BitVec 1) (d : BitVec 7) (a : BitVec 8) (mods : Nat)
    (lane : Ctx → Nat → Val → Except Stop LaneOut) (s : State) : Res :=
  issue s (fun cx => do
    need (n == 0 || d == 0) (illegalInstruction cx)
    let sa ← srcOfField cx true a
    modOk cx mods
    regBlock cx d.toNat
    sa.block cx
    chainOk cx sa.isLatch
    let outs ← cx.ls.mapM (fun l => do
      let va ← sa.read cx l
      lane cx l va)
    pure (commitVec cx sa.isLatch outs s))

/-! ### Integer elements -/

/-- An element as an integer of its format. -/
def intOf (w : Nat) (signed : Bool) (x : Nat) : Int :=
  if signed ∧ 2 ^ (w - 1) ≤ x % 2 ^ w then ((x % 2 ^ w : Nat) : Int) - 2 ^ w else ((x % 2 ^ w : Nat) : Int)

/-- The bits of an integer modulo 2^w. -/
def wrapInt (w : Nat) (x : Int) : Nat := (x % 2 ^ w).toNat

/-- Range of an element. -/
def intMin (w : Nat) (signed : Bool) : Int := if signed then -(2 ^ (w - 1)) else 0
def intMax (w : Nat) (signed : Bool) : Int := if signed then 2 ^ (w - 1) - 1 else 2 ^ w - 1

/-- Saturate to the element range; SAT where it changed the value (03 R69). -/
def satInt (w : Nat) (signed : Bool) (x : Int) : Int × Nat :=
  if x < intMin w signed then (intMin w signed, flSAT)
  else if intMax w signed < x then (intMax w signed, flSAT) else (x, 0)

/-- The result of an exact integer under MOD (03 R69): NEGR, CLAMP, SAT, then the wrap. -/
def finishInt (m : ModF) (w : Nat) (signed : Bool) (x : Int) : Nat × Nat :=
  let x := if m.negr then -x else x
  let x := if m.clamp && decide (x < 0) then 0 else x
  let (x, f) := if m.sat then satInt w signed x else (x, 0)
  (wrapInt w x, f)

/-- Magnitude and negation of a source (03 R69), exact. -/
def signInt (abs neg : Bool) (x : Int) : Int :=
  let x := if abs then (x.natAbs : Int) else x
  if neg then -x else x

/-- An integer operation on elements: the MOD fields, width, signedness, the elements' bits a and b, and the exact integers of a, b and the old d after the sign fields of MOD. -/
abbrev IntOp := ModF → Nat → Bool → Nat → Nat → Int → Int → Int → Nat × Nat

/-- Sign fields of MOD on a natural format raise ILLEGAL_OPERAND (09 R153). -/
def signsOk (cx : Ctx) (t : Tag) : Except Stop Unit :=
  let m := cx.md
  need (!(t.natural && (m.nega || m.negb || m.absa || m.absb || m.negr))) (illegalOperand cx)

/-- The elements of an integer operation. -/
def intElems (m : ModF) (t : Tag) (op : IntOp) (a b d : Nat) : Nat × Nat :=
  let w := t.width
  let rs := ((elems w a).zip ((elems w b).zip (elems w d))).map (fun x =>
    op m w t.signed x.1 x.2.1 (signInt m.absa m.nega (intOf w t.signed x.1)) (signInt m.absb m.negb (intOf w t.signed x.2.1))
      (intOf w t.signed x.2.2))
  (joinElems w (rs.map (fun r => r.1)), rs.foldl (fun f r => f ||| r.2) 0)

/-- The common integer format of a lane (03 R60, R61). -/
def intFormat (cx : Ctx) (l : Nat) (tags : List Tag) : Except Stop Tag := do
  let t ← commonFormat l .s32 tags
  need t.integer (badTag l)
  signsOk cx t
  pure t

/-- A lane of an integer instruction of two sources; `nat` gives the result the N format of its width. -/
def intLane2 (n : BitVec 1) (d : BitVec 7) (third nat : Bool) (op : IntOp) (cx : Ctx) (l : Nat) (va vb : Val) :
    Except Stop LaneOut := do
  let old ← (if third then (readReg cx d.toNat l).map some else .ok none)
  let t ← intFormat cx l (va.tag?.toList ++ vb.tag?.toList ++ (old.map (fun x => x.tag)).toList)
  wideShape cx n d.toNat t [va, vb]
  let a ← va.get cx true t l
  let b ← vb.get cx true t l
  let z ← match old with
    | some x => if t.wide then readPair cx true d.toNat l else pure x.bits.toNat
    | none => pure 0
  let r := intElems cx.md t op a b z
  outOf cx n d.toNat (if nat then t.toNatural else t) l r.1 r.2

/-- A lane of an integer instruction of one source; its result is natural. -/
def intLane1 (n : BitVec 1) (d : BitVec 7) (op : IntOp) (cx : Ctx) (l : Nat) (va : Val) : Except Stop LaneOut := do
  let t ← intFormat cx l va.tag?.toList
  wideShape cx n d.toNat t [va]
  let a ← va.get cx true t l
  let r := intElems cx.md t op a 0 0
  outOf cx n d.toNat t.toNatural l r.1 r.2

/-! ### Element operations (09 R156, R157) -/

def opAdd : IntOp := fun m w sg _ _ x y _ => finishInt m w sg (x + y)
def opSub : IntOp := fun m w sg _ _ x y _ => finishInt m w sg (x - y)
def opMul : IntOp := fun m w sg _ _ x y _ => finishInt m w sg (x * y)
def opMad : IntOp := fun m w sg _ _ x y z => finishInt m w sg (x * y + z)
def opMulh : IntOp := fun _ w _ _ _ x y _ => (wrapInt w (x * y / 2 ^ w), 0)
def opShl : IntOp := fun _ w _ a b _ _ _ => (a * 2 ^ (b % w) % 2 ^ w, 0)
def opShr : IntOp := fun _ w _ a b _ _ _ => (a / 2 ^ (b % w), 0)
def opSra : IntOp := fun _ w _ a b _ _ _ => (wrapInt w (intOf w true a / 2 ^ (b % w)), 0)
def opMin : IntOp := fun _ w _ _ _ x y _ => (wrapInt w (min x y), 0)
def opMax : IntOp := fun _ w _ _ _ x y _ => (wrapInt w (max x y), 0)
def opAbsd : IntOp := fun _ w _ _ _ x y _ => (wrapInt w ((x - y).natAbs : Int), 0)
def opClz : IntOp := fun _ w _ a _ _ _ _ => (clz w a, 0)
def opPop : IntOp := fun _ w _ a _ _ _ _ => (popcount w a, 0)

/-- MOD fields of VADD, VSUB, VMUL and VMAD (09 R153). -/
def mdArith : Nat := mdSigns + mdNEGR + mdCLAMP + mdSAT

def execVadd (n : BitVec 1) (d : BitVec 7) (a b : BitVec 8) (s : State) : Res :=
  vec2 n d a b false mdArith (intLane2 n d false false opAdd) s
def execVsub (n : BitVec 1) (d : BitVec 7) (a b : BitVec 8) (s : State) : Res :=
  vec2 n d a b false mdArith (intLane2 n d false false opSub) s
def execVmul (n : BitVec 1) (d : BitVec 7) (a b : BitVec 8) (s : State) : Res :=
  vec2 n d a b false mdArith (intLane2 n d false false opMul) s
def execVmulh (n : BitVec 1) (d : BitVec 7) (a b : BitVec 8) (s : State) : Res :=
  vec2 n d a b false 0 (intLane2 n d false false opMulh) s
def execVmad (n : BitVec 1) (d : BitVec 7) (a b : BitVec 8) (s : State) : Res :=
  vec2 n d a b true mdArith (intLane2 n d true false opMad) s
def execVshl (n : BitVec 1) (d : BitVec 7) (a b : BitVec 8) (s : State) : Res :=
  vec2 n d a b false 0 (intLane2 n d false false opShl) s
def execVshr (n : BitVec 1) (d : BitVec 7) (a b : BitVec 8) (s : State) : Res :=
  vec2 n d a b false 0 (intLane2 n d false false opShr) s
def execVsra (n : BitVec 1) (d : BitVec 7) (a b : BitVec 8) (s : State) : Res :=
  vec2 n d a b false 0 (intLane2 n d false false opSra) s
def execVmin (n : BitVec 1) (d : BitVec 7) (a b : BitVec 8) (s : State) : Res :=
  vec2 n d a b false mdSigns (intLane2 n d false false opMin) s
def execVmax (n : BitVec 1) (d : BitVec 7) (a b : BitVec 8) (s : State) : Res :=
  vec2 n d a b false mdSigns (intLane2 n d false false opMax) s
def execVabsd (n : BitVec 1) (d : BitVec 7) (a b : BitVec 8) (s : State) : Res :=
  vec2 n d a b false mdSigns (intLane2 n d false true opAbsd) s
def execVclz (n : BitVec 1) (d : BitVec 7) (a : BitVec 8) (s : State) : Res := vec1 n d a 0 (intLane1 n d opClz) s
def execVpop (n : BitVec 1) (d : BitVec 7) (a : BitVec 8) (s : State) : Res := vec1 n d a 0 (intLane1 n d opPop) s

/-! ### Bit fields (09 R158) -/

/-- VBFE of one lane. -/
def bfe (t : Tag) (a b : Nat) : Nat :=
  let pos := b % 32
  let len := min (bitsAt b 8 6) 32
  let f := bitsAt a pos len
  if t == .s32 && decide (len ≠ 0) then wrapInt 32 (intOf len true f) else f

/-- VBFI of one lane. -/
def bfi (old a b : Nat) : Nat :=
  let pos := b % 32
  let len := min (bitsAt b 8 6) 32
  let mask := (2 ^ len - 1) * 2 ^ pos % 2 ^ 32
  (old &&& (2 ^ 32 - 1 - mask)) ||| (a * 2 ^ pos % 2 ^ 32 &&& mask)

/-- The common format of a bit-field instruction: S32 or N32. -/
def fieldFormat (cx : Ctx) (l : Nat) (va vb : Val) : Except Stop Tag := do
  let t ← intFormat cx l (va.tag?.toList ++ vb.tag?.toList)
  need (t == .s32 || t == .n32) (badTag l)
  pure t

def execVbfe (n : BitVec 1) (d : BitVec 7) (a b : BitVec 8) (s : State) : Res :=
  vec2 n d a b false 0 (fun cx l va vb => do
    let t ← fieldFormat cx l va vb
    outOf cx n d.toNat t l (bfe t (va.inFormat t) (vb.inFormat t)) 0) s

def execVbfi (n : BitVec 1) (d : BitVec 7) (a b : BitVec 8) (s : State) : Res :=
  vec2 n d a b true 0 (fun cx l va vb => do
    let old ← readReg cx d.toNat l
    let t ← fieldFormat cx l va vb
    outOf cx n d.toNat t l (bfi old.bits.toNat (va.inFormat t) (vb.inFormat t)) 0) s

/-! ### Bitwise, selection, moves (03 R62, 09 R159) -/

/-- The result tag of R62: source A's, else source B's, else B32. -/
def bitTag (va vb : Val) : Tag :=
  match va.tag? with
  | some t => t
  | none => vb.tag?.getD .b32

/-- A lane of VAND, VOR or VXOR; no tag is checked. -/
def bitLane (n : BitVec 1) (d : BitVec 7) (f : Nat → Nat → Nat) (cx : Ctx) (l : Nat) (va vb : Val) : Except Stop LaneOut := do
  let t := bitTag va vb
  wideShape cx n d.toNat t [va, vb]
  let x ← va.get cx false t l
  let y ← vb.get cx false t l
  outOf cx n d.toNat t l (f x y) 0

def execVand (n : BitVec 1) (d : BitVec 7) (a b : BitVec 8) (s : State) : Res :=
  vec2 n d a b false 0 (bitLane n d (fun x y => x &&& y)) s
def execVor (n : BitVec 1) (d : BitVec 7) (a b : BitVec 8) (s : State) : Res :=
  vec2 n d a b false 0 (bitLane n d (fun x y => x ||| y)) s
def execVxor (n : BitVec 1) (d : BitVec 7) (a b : BitVec 8) (s : State) : Res :=
  vec2 n d a b false 0 (bitLane n d (fun x y => x ^^^ y)) s

/-- The 32 bits a source contributes to VSEL. -/
def Val.bits32 (t : Tag) (v : Val) : Nat := v.inFormat t % 2 ^ 32

/-- A 32-bit result, whatever its tag (09 R159). -/
def out32 (n : BitVec 1) (d : Nat) (t : Tag) (l x flags : Nat) : LaneOut :=
  ⟨l, if n = 1 then [] else [(d, BitVec.ofNat 32 x, t)], some ⟨BitVec.ofNat 32 x, t, false⟩, false, flags⟩

def execVsel (n : BitVec 1) (d : BitVec 7) (a b : BitVec 8) (s : State) : Res :=
  vec2 n d a b true 0 (fun cx l va vb => do
    let c ← readReg cx d.toNat l
    let t := bitTag va vb
    pure (out32 n d.toNat t l (if c.bits ≠ 0 then va.bits32 t else vb.bits32 t) 0)) s

/-- Tag of a VMOV of a source without a tag. -/
def moveTag : Src → Tag
  | .inl _ => .s32
  | .bcast _ | .imm _ => .b32
  | _ => .n32

def execVmov (n : BitVec 1) (d : BitVec 7) (a : BitVec 8) (s : State) : Res :=
  vec1 n d a 0 (fun cx l va => do
    let sa ← srcOfField cx true a
    pure (out32 n d.toNat (va.tag?.getD (moveTag sa)) l va.low 0)) s

/-! ### VCMP (09 R160) -/

/-- REL of VCMP: 6 and 7 have none. -/
def intRel (rel : Nat) (x y : Int) : Bool :=
  match rel with
  | 0 => decide (x = y) | 1 => decide (x ≠ y) | 2 => decide (x < y) | 3 => decide (x ≤ y) | 4 => decide (y < x) | _ => decide (y ≤ x)

/-- Retire a comparison: its predicate in the lanes of E, and 0 or 1 tagged N32 in x0; a 64-bit issue leaves x0 invalid (03 R63). -/
def commitCmp (cx : Ctx) (p : Nat) (reads : Bool) (outs : List LaneOut) (s : State) : State :=
  let bits := maskOf ((outs.filter (fun o => o.bit)).map (fun o => o.lane))
  commitVec cx reads outs (s.updGang cx.core cx.gang (fun g => g.setP p cx.en bits))

/-- The result of a comparison in a lane. -/
def cmpOut (wide any : Bool) (l : Nat) (rs : List Bool) (flags : Nat) : LaneOut :=
  let r := if any then rs.any (fun x => x) else rs.all (fun x => x)
  ⟨l, [], if wide then none else some ⟨if r then 1 else 0, .n32, false⟩, r, flags⟩

/-- The parts that VCMP and FCMP share. -/
def cmpOp (p : BitVec 3) (a b : BitVec 8) (legal : Bool) (lane : Ctx → Nat → Val → Val → Except Stop LaneOut) (s : State) : Res :=
  issue s (fun cx => do
    need legal (illegalInstruction cx)
    let sb ← srcB cx true b
    let sa ← srcOfField cx true a
    modOk cx mdSigns
    sa.block cx
    sb.block cx
    let reads := sa.isLatch || sb.isLatch
    chainOk cx reads
    let outs ← cx.ls.mapM (fun l => do
      let va ← sa.read cx l
      let vb ← sb.read cx l
      lane cx l va vb)
    pure (commitCmp cx p.toNat reads outs s))

def execVcmp (y : BitVec 1) (r p : BitVec 3) (a b : BitVec 8) (s : State) : Res :=
  cmpOp p a b (decide (r.toNat < 6)) (fun cx l va vb => do
    let t ← intFormat cx l (va.tag?.toList ++ vb.tag?.toList)
    wideShape cx 0 0 t [va, vb]
    let x ← va.get cx true t l
    let z ← vb.get cx true t l
    let m := cx.md
    let w := t.width
    let rs := ((elems w x).zip (elems w z)).map (fun e =>
      intRel r.toNat (signInt m.absa m.nega (intOf w t.signed e.1)) (signInt m.absb m.negb (intOf w t.signed e.2)))
    pure (cmpOut t.wide (y == 1) l rs 0)) s

end Sys2Proof.Machine
end

