-- ==== Sys2Proof/Machine/VecFloat.lean ====
section
/-! DEFINITION. Vector floating-point instructions (09 R161 to R165, 03 R65 to R69). -/

namespace Sys2Proof.Machine

/-! ### One element -/

/-- What an element operation works with: the format, the MOD fields, the rounding and MODE.FTZ. -/
structure FEnv where
  f : FFmt
  m : ModF
  rm : RM
  ftz : Bool
  deriving DecidableEq, Repr

/-- Magnitude and negation of an operand (03 R69): the sign bit is cleared or flipped. -/
def signBits (f : FFmt) (abs neg : Bool) (x : Nat) : Nat :=
  let x := if abs then x % f.signBit else x
  if neg then (if f.neg x then x - f.signBit else x + f.signBit) else x

/-- Operand A or B as a value: sign fields, then FTZ. -/
def FEnv.a (v : FEnv) (x : Nat) : FVal := v.f.decode (flushOperand v.f v.ftz (signBits v.f v.m.absa v.m.nega x))
def FEnv.b (v : FEnv) (x : Nat) : FVal := v.f.decode (flushOperand v.f v.ftz (signBits v.f v.m.absb v.m.negb x))

/-- The value with its sign changed. -/
def FVal.negate : FVal → FVal
  | .nan q => .nan q
  | .inf n => .inf (!n)
  | .fin n m e => .fin (!n) m e

/-- NEGR, CLAMP and SAT on a rounded result (03 R69). -/
def finishFloat (f : FFmt) (m : ModF) (r : Flagged) : Flagged :=
  let nan := (f.decode r.1).isNan
  let x := if m.negr && !nan then signBits f false true r.1 else r.1
  let x := if m.clamp then (if nan || f.neg x then 0 else min x (f.bias * 2 ^ f.fw)) else x
  if m.sat && decide (r.2 / flOF % 2 = 1) && x % f.signBit == f.infBits then (x - 1, r.2 ||| flSAT) else (x, r.2)

/-- An exact number times 2^k. -/
def FSum.scale (k : Int) : FSum → FSum
  | .num x z => .num ⟨x.n, x.e + k⟩ z
  | t => t

/-- Round a sum of values once, after EXP2, with the flags of the values; then FTZ and the rest of MOD. -/
def FEnv.finish (v : FEnv) (vals : List FVal) (fl : Nat) : Flagged :=
  let (t, f1) := sumValues vals
  let r := (t.scale v.m.exp2).round v.f v.rm
  finishFloat v.f v.m (flushResult v.f v.ftz (r.1, r.2 ||| f1 ||| fl))

def fAdd (v : FEnv) (a b _ : Nat) : Flagged := v.finish [v.a a, v.b b] 0
def fSub (v : FEnv) (a b _ : Nat) : Flagged := v.finish [v.a a, (v.b b).negate] 0
def fMul (v : FEnv) (a b _ : Nat) : Flagged := let p := (v.a a).mul (v.b b); v.finish [p.1] p.2
def fFma (v : FEnv) (a b d : Nat) : Flagged :=
  let p := (v.a a).mul (v.b b)
  v.finish [p.1, v.f.decode (flushOperand v.f v.ftz d)] p.2

/-- The order of bits that are no NaN, −0 below +0 (03 R68). -/
def FFmt.key (f : FFmt) (x : Nat) : Int := if f.neg x then -((x % f.signBit : Nat) : Int) - 1 else (x : Int)

/-- FMIN and FMAX of two elements (03 R68). -/
def minMax (f : FFmt) (ftz max : Bool) (a b : Nat) : Flagged :=
  let x := flushOperand f ftz a
  let y := flushOperand f ftz b
  let vx := f.decode x
  let vy := f.decode y
  if vx.isNan || vy.isNan then (f.nan, vx.ivOf ||| vy.ivOf)
  else (if decide (f.key x ≤ f.key y) != max then x else y, 0)

def fMinMax (max : Bool) (v : FEnv) (a b _ : Nat) : Flagged :=
  finishFloat v.f v.m (minMax v.f v.ftz max (signBits v.f v.m.absa v.m.nega a) (signBits v.f v.m.absb v.m.negb b))

/-! ### Lanes -/

/-- The common floating-point format of a lane (03 R60, R61). -/
def floatFormat (l : Nat) (tags : List Tag) : Except Stop (Tag × FFmt) := do
  let t ← commonFormat l .f32 tags
  match t.float with
  | some f => pure (t, f)
  | none => throw (badTag l)

def Ctx.fenv (cx : Ctx) (f : FFmt) : FEnv := ⟨f, cx.md, cx.round, cx.g.ftz⟩

/-- The elements of a floating-point operation. -/
def floatElems (f : FFmt) (op : Nat → Nat → Nat → Flagged) (a b d : Nat) : Flagged :=
  let w := f.width
  let rs := ((elems w a).zip ((elems w b).zip (elems w d))).map (fun x => op x.1 x.2.1 x.2.2)
  (joinElems w (rs.map (fun r => r.1)), rs.foldl (fun f r => f ||| r.2) 0)

/-- A lane of a floating-point instruction of two sources, or three. -/
def floatLane (n : BitVec 1) (d : BitVec 7) (third : Bool) (op : FEnv → Nat → Nat → Nat → Flagged) (cx : Ctx) (l : Nat)
    (va vb : Val) : Except Stop LaneOut := do
  let old ← (if third then (readReg cx d.toNat l).map some else .ok none)
  let (t, f) ← floatFormat l (va.tag?.toList ++ vb.tag?.toList ++ (old.map (fun x => x.tag)).toList)
  let z := (old.map (fun x => x.bits.toNat)).getD 0
  let r := floatElems f (op (cx.fenv f)) (va.inFormat t) (vb.inFormat t) z
  outOf cx n d.toNat t l r.1 r.2

/-- MOD fields of FMIN and FMAX, and of the approximations (09 R153). -/
def mdMinMax : Nat := mdSigns + mdNEGR + mdCLAMP
def mdApprox : Nat := mdNEGA + mdABSA + mdNEGR + mdEXP2 + mdCLAMP + mdSAT

def execFadd (n : BitVec 1) (d : BitVec 7) (a b : BitVec 8) (s : State) : Res :=
  vec2 n d a b false mdAll (floatLane n d false fAdd) s
def execFsub (n : BitVec 1) (d : BitVec 7) (a b : BitVec 8) (s : State) : Res :=
  vec2 n d a b false mdAll (floatLane n d false fSub) s
def execFmul (n : BitVec 1) (d : BitVec 7) (a b : BitVec 8) (s : State) : Res :=
  vec2 n d a b false mdAll (floatLane n d false fMul) s
def execFfma (n : BitVec 1) (d : BitVec 7) (a b : BitVec 8) (s : State) : Res :=
  vec2 n d a b true mdAll (floatLane n d true fFma) s
def execFmin (n : BitVec 1) (d : BitVec 7) (a b : BitVec 8) (s : State) : Res :=
  vec2 n d a b false mdMinMax (floatLane n d false (fMinMax false)) s
def execFmax (n : BitVec 1) (d : BitVec 7) (a b : BitVec 8) (s : State) : Res :=
  vec2 n d a b false mdMinMax (floatLane n d false (fMinMax true)) s

/-! ### FCMP (09 R162) -/

/-- The value order of bits that are no NaN; the zeros are equal. -/
def FFmt.order (f : FFmt) (x : Nat) : Int := if f.neg x then -((x % f.signBit : Nat) : Int) else (x : Int)

/-- A relation of FCMP: with a NaN only NE and UN hold. -/
def floatRel (f : FFmt) (rel : Nat) (x y : Nat) : Bool :=
  let un := (f.decode x).isNan || (f.decode y).isNan
  let a := f.order x
  let b := f.order y
  match rel with
  | 0 => !un && decide (a = b) | 1 => un || decide (a ≠ b) | 2 => !un && decide (a < b) | 3 => !un && decide (a ≤ b)
  | 4 => !un && decide (b < a) | 5 => !un && decide (b ≤ a) | 6 => un | _ => !un

def execFcmp (y : BitVec 1) (r p : BitVec 3) (a b : BitVec 8) (s : State) : Res :=
  cmpOp p a b true (fun cx l va vb => do
    let (t, f) ← floatFormat l (va.tag?.toList ++ vb.tag?.toList)
    let v := cx.fenv f
    let ea := fun x => flushOperand f v.ftz (signBits f v.m.absa v.m.nega x)
    let eb := fun x => flushOperand f v.ftz (signBits f v.m.absb v.m.negb x)
    let es := (elems f.width (va.inFormat t)).zip (elems f.width (vb.inFormat t))
    pure (cmpOut false (y == 1) l (es.map (fun e => floatRel f r.toNat (ea e.1) (eb e.2)))
      (es.foldl (fun fl e => fl ||| (f.decode (ea e.1)).ivOf ||| (f.decode (eb e.2)).ivOf) 0))) s

/-! ### FCLASS (09 R164) -/

/-- The class of an element. -/
def classOf (f : FFmt) (x : Nat) : Nat :=
  match f.decode x with
  | .nan sig => if sig then 8 else 9
  | .inf n => if n then 0 else 7
  | .fin n 0 _ => if n then 3 else 4
  | .fin n _ _ => if f.subnormal x then (if n then 2 else 5) else (if n then 1 else 6)

def execFclass (n : BitVec 1) (d : BitVec 7) (a : BitVec 8) (s : State) : Res :=
  vec1 n d a 0 (fun cx l va => do
    let (t, f) ← floatFormat l va.tag?.toList
    outOf cx n d.toNat t.toNatural l
      (joinElems f.width ((elems f.width (va.inFormat t)).map (fun x => 2 ^ classOf f x))) 0) s

/-! ### FDOT2 (09 R165) -/

/-- The format of the halves: A and B tagged F16X2, or both BF16X2; an untagged source takes the other's. -/
def dotFormat (l : Nat) (va vb : Val) : Except Stop (Tag × FFmt) :=
  match va.tag?.toList ++ vb.tag?.toList with
  | [] => .error (badTag l)
  | t :: ts =>
    if ts.all (fun u => u == t) && (t == .f16x2 || t == .bf16x2) then
      match t.float with
      | some f => .ok (t, f)
      | none => .error (badTag l)
    else .error (badTag l)

def execFdot2 (n : BitVec 1) (d : BitVec 7) (a b : BitVec 8) (s : State) : Res :=
  vec2 n d a b true mdAll (fun cx l va vb => do
    let old ← readReg cx d.toNat l
    let (t, f) ← dotFormat l va vb
    need (old.tag == .f32) (badTag l)
    let v := cx.fenv f
    let ps := ((elems 16 (va.inFormat t)).zip (elems 16 (vb.inFormat t))).map (fun e => (v.a e.1).mul (v.b e.2))
    let r := (cx.fenv fF32).finish (ps.map (fun p => p.1) ++ [fF32.decode (flushOperand fF32 v.ftz old.bits.toNat)])
      (ps.foldl (fun fl p => fl ||| p.2) 0)
    outOf cx n d.toNat .f32 l r.1 r.2) s

/-! ### The approximate functions (09 R163) -/

/-- floor of the square root of `x < 4^n`. -/
def isqrt : Nat → Nat → Nat
  | 0, _ => 0
  | n + 1, x =>
    let r := 2 * isqrt n (x / 4)
    if (r + 1) * (r + 1) ≤ x then r + 1 else r

/-- 2^(f / 2^96) in units of 2^−96, for f below 2^96, by the roots 2^(1/2), 2^(1/4), … -/
def exp2Frac (f : Nat) : Nat :=
  ((List.range 96).foldl (fun (st : Nat × Nat) i =>
    let c := isqrt 100 (st.1 * 2 ^ 96)
    (c, if f / 2 ^ (95 - i) % 2 = 1 then st.2 * c / 2 ^ 96 else st.2)) (2 * 2 ^ 96, 2 ^ 96)).2

/-- The fraction bits of log2 of m / 2^160 in [1, 2), 80 of them. -/
def log2Frac (m : Nat) : Nat :=
  ((List.range 80).foldl (fun (st : Nat × Nat) _ =>
    let y := st.1 * st.1 / 2 ^ 160
    if 2 * 2 ^ 160 ≤ y then (y / 2, 2 * st.2 + 1) else (y, 2 * st.2)) (m, 0)).2

/-- The function's value of a finite operand (−1)^neg m 2^e (m ≠ 0, but for FEXP2), close enough to tell on which side of a bound an F32 value lies (log 10), and whether it is exact. -/
def approxExact (op : Nat) (neg : Bool) (m : Nat) (e : Int) : Dyadic × Bool :=
  match op with
  | 0x67 =>
    let n := 2 ^ 200 / m
    (⟨signedInt neg n, -200 - e⟩, decide (n * m = 2 ^ 200))
  | 0x68 =>
    let (m', e') := if e % 2 = 0 then (m, e) else (2 * m, e - 1)
    let n := isqrt 220 (2 ^ 400 / m')
    (⟨n, -200 - e' / 2⟩, decide (n * n * m' = 2 ^ 400))
  | 0x69 =>
    -- the operand in units of 2^−96, cut down, so that 2^a stays below 1 for every a < 0; kept within ±2^20
    let v := signedInt neg m
    let x : Int := if 0 ≤ e + 96 then (if 64 < e then (if neg then -2 ^ 116 else 2 ^ 116) else v * 2 ^ (e + 96).toNat) else v / 2 ^ (-(e + 96)).toNat
    let x := max (-2 ^ 116) (min x (2 ^ 116))
    let n := x / 2 ^ 96
    let f := (x % 2 ^ 96).toNat
    let whole := decide (0 ≤ e) || decide (m % 2 ^ (-e).toNat = 0)
    -- the fraction is cut off, and an inexact value is irrational: half a unit more keeps it off every bound
    if whole then (⟨1, n⟩, true) else (⟨2 * (exp2Frac f : Int) + 1, n - 97⟩, false)
  | _ =>
    let k := Nat.log2 m
    let whole := decide (m = 2 ^ k)
    (⟨(k + e) * 2 ^ 80 + (if whole then 0 else (log2Frac (m * 2 ^ 160 / 2 ^ k) : Int)), -80⟩, whole)

/-- |x| ≤ |y|. -/
def Dyadic.leAbs (x y : Dyadic) : Bool :=
  let e := min x.e y.e
  decide (x.n.natAbs * 2 ^ (x.e - e).toNat ≤ y.n.natAbs * 2 ^ (y.e - e).toNat)

/-- Exponent of the unit in the last place of a format at a number. -/
def ulpExp (f : FFmt) (x : Dyadic) : Int := max ((Nat.log2 x.n.natAbs : Int) + x.e - (f.fw : Int)) f.emin

/-- The allowed error: 1 or 2 ulp, or for FLOG2 of an operand in [0.5, 2] an absolute error, which EXP2 scales with the result (DESIGN CHOICE, log 76). -/
def approxBound (op : Nat) (f : FFmt) (k : Int) (x : Dyadic) : Dyadic :=
  let near := op == 0x6A && (Dyadic.leAbs ⟨x.n, x.e - k⟩ ⟨1, 0⟩)
  if near then ⟨1, (if f == fF32 then -22 else if f == fF16 then -9 else -6) + k⟩
  else ⟨if op == 0x67 || op == 0x68 then 1 else 2, ulpExp f x⟩

/-- Bits that a device may return: finite and within the bound. -/
def approxOk (op : Nat) (f : FFmt) (k : Int) (x : Dyadic) (bits : Nat) : Bool :=
  match f.decode bits with
  | .fin n m e =>
    decide (bits < 2 ^ f.width) && Dyadic.leAbs ((Dyadic.mk (signedInt n m) e).add ⟨-x.n, x.e⟩) (approxBound op f k x)
  | _ => false

/-- The result of an approximate function of a finite operand with a finite value: exact where it is, else the device's bits within the bound, overflow as in IEEE 754. Of MODE the bits depend on FTZ alone: RM is ignored. -/
def approxFin (op : Nat) (t : Tag) (v : FEnv) (a mod : Nat) (neg : Bool) (m : Nat) (e : Int) : Flagged :=
  let (x, exact) := approxExact op neg m e
  let x : Dyadic := ⟨x.n, x.e + v.m.exp2⟩
  let r := roundDyadic v.f .rne false x
  if r.2 / flOF % 2 = 1 then r
  else if exact && decide (r.2 = 0) then (r.1, if v.f.subnormal r.1 then flUF else 0)
  else
    let c := Config.approx op t.code a mod (if v.ftz then 1 else 0)
    let bits := if approxOk op v.f v.m.exp2 x c then c else r.1
    (bits, flIX ||| (if v.f.subnormal bits || bits % v.f.signBit == 0 then flUF else 0))

/-- An approximate function of one element. -/
def approxElem (op : Nat) (t : Tag) (v : FEnv) (mod a : Nat) : Flagged :=
  let f := v.f
  let special : Flagged := match op, v.a a with
    | _, .nan q => (f.nan, if q then flIV else 0)
    | 0x67, .inf n => (f.signed n 0, 0)
    | 0x67, .fin n 0 _ => (f.signed n f.infBits, flDZ)
    | 0x68, .inf n => if n then (f.nan, flIV) else (0, 0)
    | 0x68, .fin n 0 _ => (f.signed n f.infBits, flDZ)
    | 0x69, .inf n => (if n then 0 else f.infBits, 0)
    | 0x6A, .inf n => if n then (f.nan, flIV) else (f.infBits, 0)
    | 0x6A, .fin _ 0 _ => (f.signed true f.infBits, flDZ)
    | _, .fin n m e =>
      if n && (op == 0x68 || op == 0x6A) then (f.nan, flIV) else approxFin op t v a mod n m e
    | _, .inf n => (f.signed n f.infBits, 0)
  finishFloat f v.m (flushResult f v.ftz special)

/-- FRCP, FRSQ, FEXP2 or FLOG2, by opcode. -/
def approxOp (op : Nat) (n : BitVec 1) (d : BitVec 7) (a : BitVec 8) (s : State) : Res :=
  vec1 n d a mdApprox (fun cx l va => do
    let (t, f) ← floatFormat l va.tag?.toList
    let rs := (elems f.width (va.inFormat t)).map (approxElem op t (cx.fenv f) cx.modw.toNat)
    outOf cx n d.toNat t l (joinElems f.width (rs.map (fun r => r.1))) (rs.foldl (fun fl r => fl ||| r.2) 0)) s

def execFrcp (n : BitVec 1) (d : BitVec 7) (a : BitVec 8) (s : State) : Res := approxOp 0x67 n d a s
def execFrsq (n : BitVec 1) (d : BitVec 7) (a : BitVec 8) (s : State) : Res := approxOp 0x68 n d a s
def execFexp2 (n : BitVec 1) (d : BitVec 7) (a : BitVec 8) (s : State) : Res := approxOp 0x69 n d a s
def execFlog2 (n : BitVec 1) (d : BitVec 7) (a : BitVec 8) (s : State) : Res := approxOp 0x6A n d a s

end Sys2Proof.Machine
end

