-- ==== Sys2Proof/Machine/Convert.lean ====
section
/-! DEFINITION. Conversions and tags (09 R166 to R171, 03 R70, R78, R79). -/

namespace Sys2Proof.Machine

/-! ### One element (03 R70) -/

/-- What an element is: a floating-point value, or an integer of a width. -/
inductive Elem where
  | float (f : FFmt)
  | int (w : Nat) (signed : Bool)
  deriving DecidableEq, Repr

/-- The elements of a format that CVT, PACK and UNPK convert. -/
def Tag.elem (t : Tag) : Option Elem :=
  match t.float with
  | some f => some (.float f)
  | none => if t.integer then some (.int t.width t.signed) else none

def Elem.isFloat : Elem → Bool
  | .float _ => true
  | _ => false

/-- SAT on a conversion to floating point (03 R69). -/
def satFloat (f : FFmt) (sat : Bool) (r : Flagged) : Flagged := finishFloat f { ModF.of 0 with sat := sat } r

/-- A value to an integer: rounded, saturated to the nearest limit, NaN gives 0 (03 R70). -/
def toIntElem (rm : RM) (w : Nat) (signed : Bool) (x : FVal) : Flagged :=
  match x with
  | .nan _ => (0, flIV)
  | .inf n => (wrapInt w (if n then intMin w signed else intMax w signed), flIV)
  | .fin neg m e =>
    let (r, inexact) := roundAt rm neg m e 0
    let (y, f) := satInt w signed (signedInt neg r)
    if f = 0 then (wrapInt w y, if inexact then flIX else 0) else (wrapInt w y, flIV)

/-- Convert one element. An integer in a wider format of the other signedness keeps the low bits of the target width, and saturates under SAT, as R70 says for the same width (DESIGN CHOICE, log 75). -/
def convElem (rm : RM) (ftz sat : Bool) (src dst : Elem) (x : Nat) : Flagged :=
  match src, dst with
  | .float f, .float g =>
    match f.decode (flushOperand f ftz x) with
    | .nan q => (g.nan, if q then flIV else 0)
    | .inf n => (g.signed n g.infBits, 0)
    | .fin neg m e => satFloat g sat (flushResult g ftz (roundTo g rm neg m e))
  | .float f, .int w sg => toIntElem rm w sg (f.decode (flushOperand f ftz x))
  | .int w sg, .float g =>
    let y := intOf w sg x
    satFloat g sat (flushResult g ftz (roundTo g rm (decide (y < 0)) y.natAbs 0))
  | .int w sg, .int w' sg' =>
    let y := intOf w sg x
    let (y, f) := if sat then satInt w' sg' y else (y, 0)
    (wrapInt w' y, f)

/-- Convert a list of elements; the flags of all are ORed. -/
def convElems (rm : RM) (ftz sat : Bool) (src dst : Elem) (xs : List Nat) : List Nat × Nat :=
  let rs := xs.map (convElem rm ftz sat src dst)
  (rs.map (fun r => r.1), rs.foldl (fun f r => f ||| r.2) 0)

/-! ### L6 (03 R54, R70, R78, R79) -/

/-- An L6 code with a scale as F32, rounded RNE; of the rounding's flags it sets UF and IX alone (03 R70). -/
def l6ToF32 (ftz : Bool) (e code : Nat) : Flagged :=
  if e = 0xFF then (fF32.nan, flIV)
  else if l6Zero code then (fF32.signed (l6Neg code) 0, 0)
  else
    let (m, k) := l6Mag (l6L code)
    let r := roundTo fF32 .rne (l6Neg code) m (k + (e : Int) - 127)
    flushResult fF32 ftz (r.1, r.2 &&& (flUF ||| flIX))

/-- x ≤ y for exact numbers. -/
def Dyadic.le (x y : Dyadic) : Bool :=
  let e := min x.e y.e
  decide (x.n * 2 ^ (x.e - e).toNat ≤ y.n * 2 ^ (y.e - e).toNat)

/-- D(l) in units of 2^−19. -/
def l6D (l : Int) : Nat := l6T (l % 4).toNat * 2 ^ (l / 4 + 4).toNat

/-- The code of sign `s` with field l, or the zero code of that sign. -/
def l6Code (s : Bool) (l : Int) : Nat := (if s then 32 else 0) + (BitVec.ofInt 5 l).toNat

/-- The nearest l to a magnitude between D(−15) / 2 and D(15); a tie goes to the even l. -/
def l6Nearest (y : Dyadic) : Int :=
  -15 + ((List.range 30).countP (fun i =>
    let l : Int := (i : Int) - 15
    let mid : Dyadic := ⟨l6D l + l6D (l + 1), -20⟩
    mid.le y && (!(y.le mid) || decide ((l + 1) % 2 = 0)) : Nat → Bool) : Nat)

/-- CVTL6 of one F32 value with a scale (03 R78). -/
def toL6 (e x : Nat) : Flagged :=
  let neg := fF32.neg x
  let z := l6Code neg (-16)
  if e = 0xFF then (z, flIV)
  else
    match fF32.decode x with
    | .nan _ => (z, flIV)
    | .inf n => (l6Code n 15, flSAT)
    | .fin n m k =>
      let y : Dyadic := ⟨m, k - ((e : Int) - 127)⟩
      if m = 0 then (z, 0)
      else if y.le ⟨l6D (-15), -20⟩ then (z, flUF)
      else if !(y.le ⟨l6D 15, -19⟩) then (l6Code n 15, flSAT)
      else (l6Code n (l6Nearest y), 0)

/-- The block scale of a list of F32 values (03 R79). -/
def blockScale (xs : List Nat) : Nat :=
  if xs.any (fun x => (fF32.decode x).isNan) then 0xFF
  else
    let m := xs.foldl (fun m x => max m (x % 2 ^ 31)) 0
    match fF32.decode m with
    | .fin _ 0 _ => 0
    | .fin _ m e => (max 0 (min 254 ((Nat.log2 m : Int) + e - 3 + 127))).toNat
    | _ => 254

/-! ### Selectors (09 R166) -/

/-- A format selector: an inline integer or a scalar broadcast, of value 0 to 15. All 64 bits of a scalar are its value, for 09 R166 gives no width (DESIGN CHOICE, log 118). -/
def selector (cx : Ctx) (b : BitVec 8) : Except Stop Tag := do
  let n := b.toNat
  need (decide (0x90 ≤ n)) (illegalOperand cx)
  let x := if n < 0xC0 then n - 0x90 else (cx.g.sreg (n - 0xC0)).toNat
  need (decide (x < 16)) (illegalOperand cx)
  pure (Tag.ofCode x)

/-- A source that must be a vector register or a latch (09 R167, R171). -/
def regOrLatch (cx : Ctx) (a : BitVec 8) : Except Stop Src := do
  let x ← srcOfField cx true a
  need x.tagged (illegalOperand cx)
  pure x

/-- A source that must be a vector register, with `k` registers from it on (09 R152, R168, R170). -/
def regRange (cx : Ctx) (a : BitVec 8) (k : Nat) : Except Stop Nat := do
  need (decide (a.toNat + k ≤ 128)) (illegalOperand cx)
  regBlock cx (a.toNat + k - 1)
  pure a.toNat

/-! ### CVT (09 R167) -/

/-- Source and target lie in one group. -/
def sameGroup (s t : Tag) : Bool := s.elem.isSome && t.elem.isSome && s.width == t.width

/-- RND only where the source or the target is a floating-point format (09 R153). -/
def rndOk (cx : Ctx) (s t : Elem) : Except Stop Unit := need (cx.md.rnd == 0 || s.isFloat || t.isFloat) (illegalOperand cx)

/-- A lane of CVT to format `t`. -/
def cvtLane (n : BitVec 1) (d : BitVec 7) (t : Tag) (cx : Ctx) (l : Nat) (va : Val) : Except Stop LaneOut := do
  let st := va.tag?.getD .b32
  match st.elem, t.elem with
  | none, _ => throw (badTag l)
  | some se, some te =>
    need (sameGroup st t) (illegalOperand cx)
    rndOk cx se te
    wideShape cx n d.toNat st [va]
    let x ← va.get cx true st l
    if st == t then outOf cx n d.toNat t l x 0
    else
      let r := convElems cx.round cx.g.ftz cx.md.sat se te (elems st.width x)
      outOf cx n d.toNat t l (joinElems t.width r.1) r.2
  | _, none => throw (illegalOperand cx)

def execCvt (n : BitVec 1) (d : BitVec 7) (a b : BitVec 8) (s : State) : Res :=
  issue s (fun cx => do
    need (n == 0 || d == 0) (illegalInstruction cx)
    let sa ← regOrLatch cx a
    let t ← selector cx b
    modOk cx (mdSAT + mdRND)
    need t.elem.isSome (illegalOperand cx)
    regBlock cx d.toNat
    sa.block cx
    chainOk cx sa.isLatch
    let outs ← cx.ls.mapM (fun l => do
      let va ← sa.read cx l
      cvtLane n d t cx l va)
    pure (commitVec cx sa.isLatch outs s))

/-! ### CVTL6 and L6SCL (09 R168, R169) -/

/-- Registers v[A] to v[A+3], tagged F32 in a lane. -/
def f32Quad (cx : Ctx) (a l : Nat) : Except Stop (List Nat) :=
  (List.range 4).mapM (fun i => do
    let x ← readReg cx (a + i) l
    need (x.tag == .f32) (badTag l)
    pure x.bits.toNat)

def execCvtl6 (n : BitVec 1) (d : BitVec 7) (a b : BitVec 8) (s : State) : Res :=
  issue s (fun cx => do
    need (n == 0 || d == 0) (illegalInstruction cx)
    let sb ← srcB cx true b
    need (decide (a.toNat < 128)) (illegalOperand cx)
    modOk cx 0
    let r ← regRange cx a 4
    regBlock cx d.toNat
    sb.block cx
    chainOk cx sb.isLatch
    let ins ← cx.ls.mapM (fun l => do
      let xs ← f32Quad cx r l
      let vb ← sb.read cx l
      need (decide (vb.low ≤ 0xFF)) (.trap ⟨.illegalOperand, cx.word.zeroExtend 64, some l, 0, [], false⟩)
      pure (l, xs, vb.low))
    let outs := ins.map (fun i =>
      let rs := i.2.1.map (toL6 i.2.2)
      out32 n d.toNat .l6x4 i.1 (joinElems 8 (rs.map (fun r => r.1))) (rs.foldl (fun f r => f ||| r.2) 0))
    pure (commitVec cx sb.isLatch outs s))

def execL6scl (n : BitVec 1) (d : BitVec 7) (a : BitVec 8) (s : State) : Res :=
  issue s (fun cx => do
    need (n == 0 || d == 0) (illegalInstruction cx)
    need (decide (a.toNat < 128)) (illegalOperand cx)
    modOk cx 0
    let r ← regRange cx a 4
    regBlock cx d.toNat
    let ins ← cx.ls.mapM (fun l => do
      let xs ← f32Quad cx r l
      pure (l, xs))
    let outs := cx.ls.map (fun l =>
      out32 n d.toNat .n32 l (blockScale ((ins.filter (fun i => i.1 / 8 == l / 8)).flatMap (fun i => i.2))) 0)
    pure (commitVec cx false outs s))

/-! ### TAGSET and TAGGET (09 R171) -/

def execTagset (n : BitVec 1) (d : BitVec 7) (a b : BitVec 8) (s : State) : Res :=
  issue s (fun cx => do
    need (n == 0 || d == 0) (illegalInstruction cx)
    let sa ← srcOfField cx true a
    let t ← selector cx b
    modOk cx 0
    need (t != .rsvD && t != .rsvE) (illegalOperand cx)
    need (!t.wide || (n == 0 && sa.isReg && a.toNat % 2 == 0 && d.toNat % 2 == 0)) (illegalOperand cx)
    regBlock cx d.toNat
    sa.block cx
    chainOk cx sa.isLatch
    let outs ← cx.ls.mapM (fun l => do
      let va ← sa.read cx l
      if t.wide then
        let x ← readPair cx false a.toNat l
        outOf cx n d.toNat t l x 0
      else pure (out32 n d.toNat t l va.low 0))
    pure (commitVec cx sa.isLatch outs s))

def execTagget (n : BitVec 1) (d : BitVec 7) (a : BitVec 8) (s : State) : Res :=
  issue s (fun cx => do
    need (n == 0 || d == 0) (illegalInstruction cx)
    let sa ← regOrLatch cx a
    modOk cx 0
    regBlock cx d.toNat
    sa.block cx
    chainOk cx sa.isLatch
    let outs ← cx.ls.mapM (fun l => do
      let va ← sa.read cx l
      pure (out32 n d.toNat .n32 l (va.tag?.getD .b32).code 0))
    pure (commitVec cx sa.isLatch outs s))

/-! ### PACK and UNPK (09 R170) -/

/-- Every lane of E carries one tag in the registers, else the instruction raises FORMAT_TAG (09 R170, R173, 17 R276). -/
def oneTag (cx : Ctx) (rs : List Nat) : Except Stop Tag :=
  let t := (cx.g.cell (rs.headD 0) (lowLane cx.en)).tag
  if cx.ls.all (fun l => rs.all (fun r => (cx.g.cell r l).tag == t)) then .ok t else .error (raise .formatTag)

/-- PACK's pairs. -/
def packs (s t : Tag) : Bool :=
  ((s == .f32 || s == .s32 || s == .n32) && (t == .f16x2 || t == .bf16x2 || t == .s16x2 || t == .n16x2)) ||
  ((s == .s16x2 || s == .n16x2) && (t == .s8x4 || t == .n8x4))

/-- UNPK's pairs, but for L6X4. -/
def unpacks (s t : Tag) : Bool :=
  ((s == .f16x2 || s == .bf16x2 || s == .s16x2 || s == .n16x2) && (t == .f32 || t == .s32 || t == .n32)) ||
  ((s == .s8x4 || s == .n8x4) && (t == .s16x2 || t == .n16x2))

def execPack (n : BitVec 1) (d : BitVec 7) (a b : BitVec 8) (s : State) : Res :=
  issue s (fun cx => do
    need (n == 0 || d == 0) (illegalInstruction cx)
    need (decide (a.toNat < 128)) (illegalOperand cx)
    let t ← selector cx b
    modOk cx (mdSAT + mdRND)
    let r ← regRange cx a 2
    regBlock cx d.toNat
    let st ← oneTag cx [r, r + 1]
    need (packs st t) (illegalOperand cx)
    match st.elem, t.elem with
    | some se, some te =>
      rndOk cx se te
      let outs ← cx.ls.mapM (fun l => do
        let lo ← readReg cx r l
        let hi ← readReg cx (r + 1) l
        let x := convElems cx.round cx.g.ftz cx.md.sat se te (elems st.width lo.bits.toNat ++ elems st.width hi.bits.toNat)
        pure (out32 n d.toNat t l (joinElems t.width x.1) x.2))
      pure (commitVec cx false outs s)
    | _, _ => throw (illegalOperand cx))

/-- Results in several registers from v[D] on; x0 takes the first (09 R170). -/
def outRange (d l : Nat) (t : Tag) (xs : List Nat) (flags : Nat) : LaneOut :=
  ⟨l, (xs.zipIdx).map (fun x => (d + x.2, BitVec.ofNat 32 x.1, t)), some ⟨BitVec.ofNat 32 (xs.headD 0), t, false⟩, false, flags⟩

/-- UNPK of an L6X4 register with the scale B (09 R170). -/
def unpkL6 (cx : Ctx) (d : BitVec 7) (r : Nat) (b : BitVec 8) (s : State) : Except Stop State := do
  need (decide (d.toNat + 4 ≤ 128)) (illegalOperand cx)
  let sb ← srcOfField cx true b
  regBlock cx (d.toNat + 3)
  sb.block cx
  chainOk cx sb.isLatch
  let outs ← cx.ls.mapM (fun l => do
    let x ← readReg cx r l
    let vb ← sb.read cx l
    need (decide (vb.low ≤ 0xFF)) (.trap ⟨.illegalOperand, cx.word.zeroExtend 64, some l, 0, [], false⟩)
    let rs := (elems 8 x.bits.toNat).map (fun c => l6ToF32 cx.g.ftz vb.low (c % 64))
    pure (outRange d.toNat l .f32 (rs.map (fun r => r.1)) (rs.foldl (fun f r => f ||| r.2) 0)))
  pure (commitVec cx sb.isLatch outs s)

def execUnpk (n : BitVec 1) (d : BitVec 7) (a b : BitVec 8) (s : State) : Res :=
  issue s (fun cx => do
    need (n == 0 || d == 0) (illegalInstruction cx)
    need (n == 0) (illegalOperand cx)
    need (decide (a.toNat < 128 ∧ ¬(0x87 ≤ b.toNat ∧ b.toNat < 0x90))) (illegalOperand cx)
    modOk cx 0
    need (decide (d.toNat + 2 ≤ 128)) (illegalOperand cx)
    let r ← regRange cx a 1
    regBlock cx (d.toNat + 1)
    let st ← oneTag cx [r]
    if st == .l6x4 then unpkL6 cx d r b s
    else
      let t ← selector cx b
      need (unpacks st t) (illegalOperand cx)
      match st.elem, t.elem with
      | some se, some te =>
        let outs ← cx.ls.mapM (fun l => do
          let x ← readReg cx r l
          let y := convElems cx.round cx.g.ftz false se te (elems st.width x.bits.toNat)
          let h := 32 / t.width
          pure (outRange d.toNat l t [joinElems t.width (y.1.take h), joinElems t.width (y.1.drop h)] y.2))
        pure (commitVec cx false outs s)
      | _, _ => throw (illegalOperand cx))

end Sys2Proof.Machine
end

