-- ==== Sys2Proof/Machine/Lane.lean ====
section
/-! DEFINITION. Lane operations (09 R172 to R174). They are not latch-class. -/

namespace Sys2Proof.Machine

/-- Write cells of register `d` and retire. -/
def putCells (cx : Ctx) (d : Nat) (cells : List (Nat × VCell)) (s : State) : State :=
  retire cx (s.setGang cx.core cx.gang (cells.foldl (fun g x => g.setV d x.1 x.2.bits x.2.tag) cx.g))

/-- Lanes of the gang, L (09 R172). -/
def Ctx.lanesL (cx : Ctx) : Nat := 4 * cx.wg.kernel.slices

/-- A lane of the source register, as the register stands; B32 zero beyond L (09 R172). -/
def sourceLane (cx : Ctx) (r m : Nat) : Except Stop VCell :=
  if m < cx.lanesL then readReg cx r m else .ok ⟨0, .b32, false⟩

/-- A field that must name v0 to v127 (09 R172). -/
def vecField (cx : Ctx) (a : BitVec 8) : Except Stop Nat := do
  need (decide (a.toNat < 128)) (illegalOperand cx)
  pure a.toNat

/-- VSHFL. -/
def execVshfl (d : BitVec 7) (a b : BitVec 8) (s : State) : Res :=
  issue s (fun cx => do
    let sb ← srcB cx false b
    let r ← vecField cx a
    regBlock cx d.toNat
    regBlock cx r
    sb.block cx
    let cells ← cx.ls.mapM (fun l => do
      let m ← sb.read cx l
      let x ← sourceLane cx r m.low
      pure (l, x))
    pure (putCells cx d.toNat cells s))

/-- The uniform source B of VROT and VBCST: inline, scalar or immediate. -/
def uniformB (cx : Ctx) (b : BitVec 8) : Except Stop W64 := do
  let sb ← srcB cx false b
  match sb with
  | .inl k => pure (BitVec.ofNat 64 k)
  | .bcast n => pure (cx.g.sreg n)
  | .imm x => pure x
  | _ => throw (illegalOperand cx)

/-- VROT: lane l takes lane (l + n) mod L; the operand's bits are a natural number, an immediate a sign-extended one. -/
def execVrot (d : BitVec 7) (a b : BitVec 8) (s : State) : Res :=
  issue s (fun cx => do
    let n ← uniformB cx b
    let r ← vecField cx a
    regBlock cx d.toNat
    regBlock cx r
    let n : Nat := if cx.imm.isSome then (n.toInt % (cx.lanesL : Int)).toNat else n.toNat % cx.lanesL
    let cells ← cx.ls.mapM (fun l => do
      let x ← sourceLane cx r ((l + n) % cx.lanesL)
      pure (l, x))
    pure (putCells cx d.toNat cells s))

/-- VBCST. The lane `m` is compared whole with L, all 64 bits of a scalar: 09 R172 gives its width nowhere (DESIGN CHOICE, log 118). -/
def execVbcst (d : BitVec 7) (a b : BitVec 8) (s : State) : Res :=
  issue s (fun cx => do
    let m ← uniformB cx b
    let r ← vecField cx a
    regBlock cx d.toNat
    regBlock cx r
    need (decide (m.toNat < cx.lanesL)) (illegalOperand cx)
    let x ← sourceLane cx r m.toNat
    pure (putCells cx d.toNat (cx.ls.map (fun l => (l, x))) s))

/-! ### Reductions and scans (09 R173) -/

/-- Whether an operation accepts a format. -/
def redAccepts (op : Nat) (t : Tag) : Bool :=
  if op < 3 then t.integer else if op < 6 then true else t.float.isSome

/-- The identity of an operation, one element. -/
def redIdentity (op : Nat) (t : Tag) : Nat :=
  let w := t.width
  let f := t.float.getD fF32
  match op with
  | 1 => wrapInt w (intMax w t.signed)
  | 2 => wrapInt w (intMin w t.signed)
  | 3 => 2 ^ w - 1
  | 7 => f.infBits
  | 8 => f.signed true f.infBits
  | _ => 0

/-- One step on elements, with its flags. -/
def redStep (op : Nat) (t : Tag) (rm : RM) (ftz : Bool) (x y : Nat) : Flagged :=
  let w := t.width
  let f := t.float.getD fF32
  match op with
  | 0 => ((x + y) % 2 ^ w, 0)
  | 1 => (wrapInt w (min (intOf w t.signed x) (intOf w t.signed y)), 0)
  | 2 => (wrapInt w (max (intOf w t.signed x) (intOf w t.signed y)), 0)
  | 3 => (x &&& y, 0)
  | 4 => (x ||| y, 0)
  | 5 => (x ^^^ y, 0)
  | 6 => flushResult f ftz (addBits f rm (flushOperand f ftz x) (flushOperand f ftz y))
  | 7 => minMax f ftz false x y
  | _ => minMax f ftz true x y

/-- Width of the elements of a reduction: L6X4, B32 and INVALID combine as bits. -/
def redWidth (t : Tag) : Nat := if t.wide then 64 else if t == .l6x4 then 32 else t.width

/-- Combine lanes in order: the running value after each lane, the first lane's taken exactly, and the flags. A NaN of the first lane is taken exactly too, with its payload and without IV: 09 R173 says so of the lane, and 03 R51 speaks of NaNs that an operation produces (DEDUCED, log 117). -/
def redRun (op : Nat) (t : Tag) (rm : RM) (ftz : Bool) (xs : List Nat) : List Nat × Nat :=
  let w := redWidth t
  let st := xs.foldl (fun (st : List Nat × Option (List Nat) × Nat) x =>
    let es := elems w x
    match st.2.1 with
    | none => (st.1 ++ [x], some es, st.2.2)
    | some acc =>
      let rs := (acc.zip es).map (fun p => redStep op t rm ftz p.1 p.2)
      let acc := rs.map (fun r => r.1)
      (st.1 ++ [joinElems w acc], some acc, rs.foldl (fun f r => f ||| r.2) st.2.2)) (([], none, 0) : List Nat × Option (List Nat) × Nat)
  (st.1, st.2.2)

/-- The identity of a whole lane. -/
def redIdentityLane (op : Nat) (t : Tag) : Nat :=
  let w := redWidth t
  joinElems w (List.replicate (if w = 64 then 1 else 32 / w) (if w = t.width then redIdentity op t else if op = 3 then 2 ^ w - 1 else 0))

/-- VRED and VSCAN: `pick` chooses, from the identity and the running values, what each lane of E takes. -/
def redOp (d : BitVec 7) (a : BitVec 8) (o : BitVec 4) (pick : Nat → List Nat → List Nat) (s : State) : Res :=
  issue s (fun cx => do
    let op := o.toNat
    need (decide (op < 9)) (illegalInstruction cx)
    let r ← vecField cx a
    regBlock cx d.toNat
    regBlock cx r
    let t ← oneTag cx [r]
    need (redAccepts op t) (badTag (lowLane cx.en))
    need (!t.wide || d.toNat % 2 == 0) (illegalOperand cx)
    let xs ← cx.ls.mapM (fun l => if t.wide then readPair cx true r l else (readReg cx r l).map (fun x => x.bits.toNat))
    let (run, fl) := redRun op t cx.g.rm cx.g.ftz xs
    let vals := cx.ls.zip (pick (redIdentityLane op t) run)
    let g := vals.foldl (fun g x =>
      let g := g.setV d.toNat x.1 (BitVec.ofNat 32 x.2) t
      if t.wide then g.setV (d.toNat + 1) x.1 (BitVec.ofNat 32 (x.2 / 2 ^ 32)) t else g) cx.g
    pure (retire cx (s.setGang cx.core cx.gang (g.orFlags fl))))

/-- VRED: the last running value in every lane. -/
def execVred (d : BitVec 7) (a : BitVec 8) (o : BitVec 4) (s : State) : Res :=
  redOp d a o (fun _ run => List.replicate run.length (run.getLastD 0)) s

/-- VSCAN, inclusive or exclusive. -/
def execVscan (d : BitVec 7) (a : BitVec 8) (e : BitVec 1) (o : BitVec 4) (s : State) : Res :=
  redOp d a o (fun z run => if e = 1 then z :: run else run) s

/-! ### VCMPT and VBAL (09 R174) -/

def execVcmpt (d : BitVec 7) (a : BitVec 8) (p : BitVec 3) (s : State) : Res :=
  issue s (fun cx => do
    let r ← vecField cx a
    regBlock cx d.toNat
    regBlock cx r
    let sel := cx.ls.filter (fun l => (cx.g.preg p.toNat).getLsbD l)
    let xs ← sel.mapM (readReg cx r)
    pure (putCells cx d.toNat (cx.ls.zip xs) s))

def execVbal (d : BitVec 7) (p : BitVec 3) (m : BitVec 1) (s : State) : Res :=
  issue s (fun cx => do
    regBlock cx d.toNat
    let sel := cx.ls.filter (fun l => (cx.g.preg p.toNat).getLsbD l)
    let count := fun l => if m = 1 then sel.length else (sel.filter (fun k => decide (k < l))).length
    pure (putCells cx d.toNat (cx.ls.map (fun l => (l, ⟨BitVec.ofNat 32 (count l), .n32, false⟩))) s))

end Sys2Proof.Machine
end

