-- ==== Sys2Proof/Machine/Prefix.lean ====
section
/-! DEFINITION. Prefix words (05 R97 to R102). -/

namespace Sys2Proof.Machine

/-- The group already holds a prefix of the kind. -/
def Pfx.holds (p : Pfx) : PKind → Bool
  | .stall => p.stall
  | .reuse => p.reuse
  | .trace => p.trace.isSome
  | .ord => p.ord.isSome
  | .join => p.join.isSome
  | .imm => p.imm.isSome
  | .imm2 => p.imm2.isSome
  | .mod => p.mod_.isSome

/-- The word stands in the order of R97: HINTs, JOIN last of them, IMM, IMM2 after IMM, MOD; none twice. -/
def inOrder (p : Option Pfx) (k : PKind) : Bool :=
  match p with
  | none => k != .imm2
  | some p => !p.holds k && (if k = .imm2 then p.last == 2 else if k.rank = 0 then p.last == 0 else decide (p.last < k.rank))

/-- Opcodes of format A (05 R103). -/
def formatA (op : Nat) : Bool :=
  (0x10 ≤ op && op ≤ 0x13) || (0x18 ≤ op && op ≤ 0x1F) || latchOp op || (0x78 ≤ op && op ≤ 0x7E)

/-- Opcodes that take an immediate: those with a source B, or format M (05 R98, R100, 07 R138, R144, R146, 09 R154). UNPK is none: its B is a selector, and the scale of an L6X4 source alone (DESIGN CHOICE, log 91). -/
def takesImm (op : Nat) : Bool :=
  op == 0x1D || (0x20 ≤ op && op ≤ 0x35 && op != 0x31 && op != 0x33 && op != 0x34) || (0x40 ≤ op && op ≤ 0x4D) ||
  (0x50 ≤ op && op ≤ 0x52) || op == 0x54 || (0x60 ≤ op && op ≤ 0x66) || op == 0x6C || op == 0x71 ||
  (0x78 ≤ op && op ≤ 0x7A) || (0xA0 ≤ op && op ≤ 0xAE) || op == 0xB1

/-- Major opcodes with an instruction (05 R104). -/
def assigned (op : Nat) : Bool :=
  op ≤ 0x0A || (0x10 ≤ op && op ≤ 0x35) || (0x40 ≤ op && op ≤ 0x54) || (0x60 ≤ op && op ≤ 0x6C) || (0x70 ≤ op && op ≤ 0x76) ||
  (0x78 ≤ op && op ≤ 0x7E) || (0x80 ≤ op && op ≤ 0x83) || (0xA0 ≤ op && op ≤ 0xB4) || (0xC0 ≤ op && op ≤ 0xC9) ||
  (0xD0 ≤ op && op ≤ 0xEA) || (0xF0 ≤ op && op ≤ 0xF3)

/-- An instruction admits a prefix (05 R98); an unassigned opcode raises its own trap. -/
def admits (op : Nat) (k : PKind) : Bool :=
  !assigned op ||
  match k with
  | .stall | .trace => true
  | .reuse => formatA op
  | .ord => 0xAC ≤ op && op ≤ 0xAE
  | .join => op == 0x02
  | .imm | .imm2 => takesImm op
  | .mod => latchOp op

/-- The instruction of the group admits the prefix; the lookahead reads no more than the group (05 R97), in the plane of the issue, or for an anchored group in the lowest occupied plane. -/
def admitted (s : State) (cx : Ctx) (k : PKind) : Bool :=
  match s.groupInstr cx.core cx.wordPlane 9 (cx.sp.pc + 1) with
  | some (_, w) => admits (opcodeOf w) k
  | none => true

/-- The prefixes of a group that begins at the issue's word. -/
def Pfx.fresh (pc : Nat) : Pfx := ⟨pc, 0, false, false, none, none, none, none, none, none, []⟩

/-- The group after one more word. -/
def Pfx.push (p : Pfx) (k : PKind) : Pfx := { p with last := k.rank, kinds := p.kinds ++ [k] }

/-- Issue a prefix: it waits for its instruction with the issue's plane; no latch changes and no chain ends (01 R38, R39). -/
def prefixOpn (k : PKind) (legal : Bool) (upd : Pfx → Pfx) (stall : Option Nat) (s : State) : Res :=
  issue s (fun cx => do
    need (inOrder cx.pfx k) (illegalInstruction cx)
    need legal (illegalInstruction cx)
    need (admitted s cx k) (illegalInstruction cx)
    let clock := (s.clockAt cx.core).toNat
    let p := upd ((cx.pfx.getD (Pfx.fresh cx.sp.pc)).push k)
    let g := { cx.g with lastIssue := clock }
    let sp := { cx.sp with pfx := SMap.set none cx.sp.pfx cx.key (some p), lastIssue := cx.sp.stamped cx.g cx.plane clock,
                           stall := match stall with
                             | some n => clock + n
                             | none => cx.sp.stall }
    pure (s.setGang cx.core cx.gang (g.setSplit cx.split (Split.step g sp cx.plane))))

/-- IMM (05 R100). -/
def execImm (i : BitVec 24) (s : State) : Res := prefixOpn .imm true (fun p => { p with imm := some i }) none s

/-- IMM2 (05 R100). -/
def execImm2 (i : BitVec 24) (s : State) : Res := prefixOpn .imm2 true (fun p => { p with imm2 := some i }) none s

/-- MOD (05 R101). -/
def execMod (st cl na nb aa ab nr : BitVec 1) (e : BitVec 6) (m : BitVec 2) (s : State) : Res :=
  prefixOpn .mod true (fun p => { p with mod_ := some (BitVec.ofNat 24
    (st.toNat * 2 ^ 23 + cl.toNat * 2 ^ 22 + na.toNat * 2 ^ 21 + nb.toNat * 2 ^ 20 + aa.toNat * 2 ^ 19 + ab.toNat * 2 ^ 18 +
      nr.toNat * 2 ^ 17 + e.toNat * 2 ^ 11 + m.toNat * 2 ^ 9)) }) none s

/-- HINT.JOIN (05 R102, 01 R41). -/
def execHintJoin (j : BitVec 20) (s : State) : Res := prefixOpn .join true (fun p => { p with join := some j }) none s

/-- HINT.STALL: the split's next word issues no sooner than n clocks later. -/
def execHintStall (n : BitVec 8) (s : State) : Res :=
  prefixOpn .stall true (fun p => { p with stall := true }) (some n.toNat) s

/-- HINT.REUSE: timing only. -/
def execHintReuse (a b : BitVec 1) (s : State) : Res :=
  let _ := a; let _ := b
  prefixOpn .reuse true (fun p => { p with reuse := true }) none s

/-- HINT.TRACE (23 R351). -/
def execHintTrace (t : BitVec 16) (s : State) : Res := prefixOpn .trace true (fun p => { p with trace := some t }) none s

/-- HINT.ORD: orders 1 to 4 and scopes 0 to 5 (05 R102). -/
def execHintOrd (o sc : BitVec 3) (s : State) : Res :=
  prefixOpn .ord (decide (1 ≤ o.toNat ∧ o.toNat ≤ 4 ∧ sc.toNat ≤ 5)) (fun p => { p with ord := some (o, sc) }) none s

end Sys2Proof.Machine
end

