-- ==== Sys2Proof/Machine/Atomic.lean ====
section
/-! DEFINITION. Atomics (13 R228 to R232, 11 R196 to R198): ATOM, ABND and ACAS, with the releases and acquires they carry (11 R201, R209). -/

namespace Sys2Proof.Machine

/-- Orders of HINT.ORD (05 R102): 1 ACQ, 2 REL, 3 AR, 4 SC; none is relaxed. -/
def Ctx.ordOf (cx : Ctx) : Nat := ((cx.pfx.bind (fun p => p.ord)).map (fun o => o.1.toNat)).getD 0
def Ctx.scopeOf (cx : Ctx) : Nat := ((cx.pfx.bind (fun p => p.ord)).map (fun o => o.2.toNat)).getD 0
def Ctx.acquires (cx : Ctx) : Bool := cx.ordOf == 1 || cx.ordOf == 3 || cx.ordOf == 4
def Ctx.releases (cx : Ctx) : Bool := cx.ordOf == 2 || cx.ordOf == 3 || cx.ordOf == 4

/-! ### Operands -/

/-- A lane of an atomic: its number, whether it is 8 bytes wide, the values its registers hold. -/
structure ALane where
  lane : Nat
  wide : Bool
  tag : Tag
  /-- operand, bound or compare value -/
  x : Nat
  /-- new value of ACAS -/
  y : Nat
  deriving DecidableEq, Repr

def ALane.bytes (a : ALane) : Nat := if a.wide then 8 else 4

/-- Registers a lane uses: one value or two, each one register or a pair (13 R218). -/
def aRegs (two wide : Bool) : Nat := (if two then 2 else 1) * (if wide then 2 else 1)

/-- Whether every register of a lane carries the tag of the first. -/
def aTags (g : Gang) (v n l : Nat) : Bool := (List.range n).all (fun i => (g.cell (v + i) l).tag == (g.cell v l).tag)

/-- The value in `v`, or in the pair from `v`, in a lane. -/
def aValue (g : Gang) (wide : Bool) (v l : Nat) : Nat :=
  (g.cell v l).bits.toNat + if wide then (g.cell (v + 1) l).bits.toNat * 2 ^ 32 else 0

/-- The lanes of an atomic, after the checks of its registers over all lanes of E (13 R228, 11 R214): ILLEGAL_OPERAND, REG_BLOCK, FORMAT_TAG. -/
def atomicLanes (cx : Ctx) (v x : Nat) (two : Bool) (accepts : Tag → Bool) : Except Stop (List ALane) := do
  let wide := fun l => (cx.g.cell v l).tag.wide
  let n := fun l => aRegs two (wide l)
  need (cx.ls.all (fun l => !(wide l && v % 2 == 1) && decide (v + n l ≤ 128))) (illegalOperand cx)
  if x = 127 then pure () else regBlock cx x
  cx.ls.forM (fun l => regBlock cx (v + n l - 1))
  match cx.ls.find? (fun l => !(accepts (cx.g.cell v l).tag && aTags cx.g v (n l) l)) with
  | some l => throw (badTag l)
  | none => pure (cx.ls.map (fun l =>
      let h := if wide l then 2 else 1
      ⟨l, wide l, (cx.g.cell v l).tag, aValue cx.g (wide l) v l, if two then aValue cx.g (wide l) (v + h) l else 0⟩))

/-- The address of each lane; the unit of X = 127 is the lane's width (13 R218). -/
def atomicAddrs (cx : Ctx) (sr : BitVec 6) (x : BitVec 7) (as : List ALane) : Accesses :=
  as.map (fun a =>
    let off : W64 := if x.toNat = 127 then BitVec.ofNat 64 (a.lane * a.bytes) else (cx.g.raw x.toNat a.lane).bits.signExtend 64
    (a.lane, cx.g.sreg sr.toNat + off + (cx.imm).getD 0))

/-- The registers a lane reads (13 R219). -/
def atomicRegs (v x : Nat) (two : Bool) (as : List ALane) (l : Nat) : List Nat :=
  let wide := (as.find? (fun a => a.lane == l)).elim false (fun a => a.wide)
  xRegs x ++ (List.range (aRegs two wide)).map (fun i => v + i)

/-- Pages of default regions that the lanes name (15 R247). -/
def namedPages (s : State) (core : Nat) (xs : Accesses) : List (Nat × W64 × Nat × Nat) :=
  xs.filterMap (fun x => match placeOf s core x.2 with
    | .page i n _ => some (x.1, x.2, i, n)
    | _ => none)

/-! ### One lane -/

/-- The releases that the issue's writes carry: its own, and those of earlier release fences (11 R201, R209). -/
def Ctx.carried (cx : Ctx) (s : State) : List RelInfo :=
  (if cx.releases && cx.scopeOf != 0 then [relOf s cx.core cx.gang cx.scopeOf] else []) ++ (s.gangAt cx.core cx.gang).relFence

/-- The host's stores that fall before a lane's AtomicOp on its memory (11 R198). -/
def hostBetween (ps : List Place) (lane : Nat) (s : State) : State :=
  if ps.any Place.onHost then
    asAgent outer (fun s => (s.between.filter (fun b => b.1 == lane)).foldl (fun s b => (writePlaces [(.host b.2.1, b.2.2)] [] s).1) s) s
  else s

/-- What the lanes of an atomic meet, each at its places, as they are performed in turn: the releases that the values they read carry, and whether some lane writes (13 R228). -/
def foresee (op : ALane → Nat → Option Nat) : List (ALane × List Place) → Provs → State → List RelInfo × Bool
  | [], _, _ => ([], false)
  | (x, ps) :: rest, pv, s =>
    let s := hostBetween ps x.lane s
    let here := ps.headD .none
    let rels := s.relAt here ps.length
    match op x (s.numAt ps) with
    | none =>
      let r := foresee op rest pv s
      (rels ++ r.1, r.2)
    | some new =>
      let w := writePlaces (placed ps new) pv s
      let r := foresee op rest w.2 (w.1.setRelAt here ps.length rels)
      (rels ++ r.1, true)

/-- An acquire takes up the releases that the values its lanes read carry and whose scopes and its own meet (11 R200, R209); the release of an AR or SC atomic follows it and carries them on. -/
def atomicAcquire (cx : Ctx) (rels : List RelInfo) (s : State) : State :=
  if cx.acquires then raceAcquire cx.core cx.gang (rels.filter (RelInfo.meets cx.wg cx.core cx.scopeOf)) s else s

/-- One lane's read and write at the places `ps` of its address `a` (13 R228). The write, if any, keeps the releases of the value before it and adds the issue's own (11 R202). -/
def atomicLane (cx : Ctx) (op : ALane → Nat → Option Nat) (a : W64) (ps : List Place) (x : ALane)
    (st : State × Provs × List (ALane × Nat)) : State × Provs × List (ALane × Nat) :=
  let s := hostBetween ps x.lane st.1
  let old := s.numAt ps
  let here := ps.headD .none
  let rels := s.relAt here ps.length
  let s := s.updGang cx.core cx.gang (fun g => { g with seen := rels.foldl addRelease g.seen })
  let s := ps.foldl (fun s p => s.noteRead (gangEye s cx.core cx.gang) s.writes p) s
  match op x old with
  | none => (s, st.2.1, st.2.2 ++ [(x, old)])
  | some new =>
    let ws := placed ps new
    let r := writePlaces ws st.2.1 (emitDv cx x.lane a ws s)
    let s := tagWrite cx a ps true r.1
    (s.setRelAt here ps.length ((cx.carried s).foldl addRelease rels), r.2, st.2.2 ++ [(x, old)])

/-- The release of the issue, when some lane writes (13 R228, 11 R209). -/
def atomicRelease (cx : Ctx) (writes : Bool) (s : State) : State :=
  if cx.releases && writes then releaseAt cx.core cx.gang cx.scopeOf s else s

/-- The old values into the data registers, their tags unchanged. -/
def atomicResults (g : Gang) (v : Nat) (rs : List (ALane × Nat)) : Gang :=
  rs.foldl (fun g r =>
    let g := g.setV v r.1.lane (BitVec.ofNat 32 r.2) r.1.tag
    if r.1.wide then g.setV (v + 1) r.1.lane (BitVec.ofNat 32 (r.2 / 2 ^ 32)) r.1.tag else g) g

/-- An atomic instruction. `op` gives what a lane writes over an old value, if anything. -/
def atomicOp (v : BitVec 7) (sr : BitVec 6) (x : BitVec 7) (two host : Bool) (accepts : Tag → Bool) (op : ALane → Nat → Option Nat)
    (legal : Bool) (s : State) : Res :=
  issue s (fun cx => do
    need legal (illegalInstruction cx)
    let as ← atomicLanes cx v.toNat x.toNat two accepts
    let xs := atomicAddrs cx sr x as
    let w := fun l => ((as.find? (fun a => a.lane == l)).map ALane.bytes).getD 4
    spaceChecksBy s cx.core (.atomic host) w w xs
    let (s', ps) ← provision s (namedPages s cx.core xs)
    raceCheckBy s cx.core cx.gang (.atomic host) w xs
    integrityCheck s cx (.atomic host) (atomicRegs v.toNat x.toNat two as) w xs
    let ax := as.zip (xs.map (fun x => x.2))
    let met := foresee op (ax.map (fun a => (a.1, placesOf s cx.core a.2 a.1.bytes))) ps s'
    let s' := atomicRelease cx met.2 (atomicAcquire cx met.1 s')
    let (s', ps, rs) := ax.foldl (fun st a => atomicLane cx op a.2 (placesOf s cx.core a.2 a.1.bytes) a.1 st) (s', ps, [])
    let s' := { returnProvs ps s' with between := [] }
    let s' := s'.updGang cx.core cx.gang (fun g =>
      let g := atomicResults g v.toNat rs
      { g with loads := g.loads ++ [⟨v.toNat, if as.any (fun a => a.wide) then 2 else 1, cx.en, true, false, hostAccess s cx.core 4 xs⟩] })
    pure (retire cx (accessed cx.core 1 xs s')))

/-! ### The operations -/

/-- 4-byte integer tags of ATOM (13 R229), and the pairs. -/
def atomInt (t : Tag) : Bool := t == .b32 || t == .s32 || t == .n32 || t == .s64 || t == .n64

/-- Tags of ATOM.XCHG and ACAS: 0x0 to 0xA, and the pairs. -/
def atomAny (t : Tag) : Bool := decide (t.code ≤ 0xC)

/-- Tags that an operation of ATOM accepts (13 R229). -/
def atomAccepts (f : Nat) (t : Tag) : Bool :=
  if f < 9 then atomInt t else if f = 9 then atomAny t else t.float.isSome

/-- The new value of ATOM (13 R229, R230). -/
def atomNew (f : Nat) (a : ALane) (old : Nat) : Nat :=
  let w := 8 * a.bytes
  let d := a.x
  match f with
  | 0 => (old + d) % 2 ^ w
  | 1 => (old + (2 ^ w - d)) % 2 ^ w
  | 2 => if intOf w true d < intOf w true old then d else old
  | 3 => min old d
  | 4 => if intOf w true old < intOf w true d then d else old
  | 5 => max old d
  | 6 => old &&& d
  | 7 => old ||| d
  | 8 => old ^^^ d
  | 9 => d
  | _ =>
    match a.tag.float with
    | some fm => (floatElems fm (fun x y _ => addBits fm .rne x y) old d 0).1
    | none => old

/-- ATOM always writes. -/
def execAtom (v : BitVec 7) (sr : BitVec 6) (x : BitVec 7) (f : BitVec 4) (s : State) : Res :=
  atomicOp v sr x false (f == 0 || f == 9) (atomAccepts f.toNat) (fun a old => some (atomNew f.toNat a old)) (decide (f.toNat < 11)) s

/-- ABND: old + 1 where old is below the bound (13 R231). -/
def abndNew (a : ALane) (old : Nat) : Option Nat :=
  let w := 8 * a.bytes
  let less := if a.tag.signed then decide (intOf w true old < intOf w true a.x) else decide (old < a.x)
  if less then some ((old + 1) % 2 ^ w) else none

def execAbnd (v : BitVec 7) (sr : BitVec 6) (x : BitVec 7) (s : State) : Res :=
  atomicOp v sr x false false atomInt abndNew true s

/-- ACAS: the new value where old equals the compare value, bit for bit (13 R232). -/
def acasNew (a : ALane) (old : Nat) : Option Nat := if old = a.x then some a.y else none

def execAcas (v : BitVec 7) (sr : BitVec 6) (x : BitVec 7) (s : State) : Res :=
  atomicOp v sr x true true atomAny acasNew true s

end Sys2Proof.Machine
end

