-- ==== Sys2Proof/Machine/Query.lean ====
section
/-! DEFINITION. Queries of default regions (15 R253 to R255): PGENUM, PGSTAT and RGINFO. -/

namespace Sys2Proof.Machine

/-- The first of `n` pages of a region, from page `p` on, whose differs bits cannot be corrected (15 R246). -/
def badAmong (s : State) (n : Nat) (p : Option (Nat × Nat)) : Option Nat :=
  p.bind (fun q => (List.range n).find? (fun k => s.badPage (.page q.1 (q.2 + k) 0)))

/-- A query of the page that holds s[A]: 0 where that is no global virtual address; TRANSLATION, PROTECTION or INTEGRITY of the walk. It reads the state of `n` pages; one whose differs bits cannot be corrected raises INTEGRITY with the address s[A] moved to it (15 R246; DEDUCED, log 82). `f` answers from the region's page, if the page is in one. -/
def queryOp (legal : Bool) (n : Nat) (d a : BitVec 6) (f : State → Option (Nat × Nat) → Nat) (s : State) : Res :=
  issue s (fun cx => do
    need legal (illegalInstruction cx)
    let x := cx.g.sreg a.toNat
    match spaceOf x with
    | .global va =>
      let xs : Accesses := [(lowLane cx.en, x)]
      match walkFault s cx.core .load x with
      | some r => throw (.trap ⟨r.1, x, some (lowLane cx.en), 0, xs, r.2⟩)
      | none =>
        match s.translate cx.core cx.wg.asid (va / 65536) with
        | .beyond pa => throw (.fault (.physicalAddress pa))
        | _ =>
          let page := (placeOf s cx.core x).pageOf
          match badAmong s n page with
          | some k => throw (.trap (Trap.at .integrity (lowLane cx.en) (x + BitVec.ofNat 64 (65536 * k))))
          | none => pure (putScalar cx d.toNat (BitVec.ofNat 64 (f s page)) (tlbUse cx.core 1 xs s).draw)
    | _ => pure (putScalar cx d.toNat 0 s))

/-- PGENUM: which of 64 pages of the region from the page on are backed. Of the write operations that are unordered with a query, which it may reflect (15 R253), PGENUM and PGSTAT reflect every one performed before their issue (DESIGN CHOICE, log 119). -/
def enumPages (s : State) (p : Option (Nat × Nat)) : Nat :=
  match p with
  | none => 0
  | some (i, n) =>
    match SMap.get none s.regions i with
    | none => 0
    | some r => (List.range 64).foldl (fun m k => if n + k < r.pages ∧ (s.backedAt i (n + k)).isSome then m + 2 ^ k else m) 0

def execPgenum (d a : BitVec 6) (s : State) : Res := queryOp true 64 d a enumPages s

/-- PGSTAT: INREG, REGION, BACKED, COUNT. -/
def pageStatus (s : State) (p : Option (Nat × Nat)) : Nat :=
  match p with
  | none => 0
  | some (i, n) =>
    2 ^ 63 + i * 2 ^ 32 + match s.backedAt i n with
      | some b => 2 ^ 12 + b.count
      | none => 0

def execPgstat (d a : BitVec 6) (s : State) : Res := queryOp true 1 d a pageStatus s

/-- A word of a region's descriptor (15 R238). -/
def regionWord (w : Nat) (s : State) (p : Option (Nat × Nat)) : Nat :=
  match p with
  | none => 0
  | some (i, n) =>
    match SMap.get none s.regions i with
    | none => 0
    | some r =>
      match w with
      | 0 => r.base.toNat
      | 1 => r.default.toNat
      | 2 => r.pages * 2 ^ 32 + i * 2 ^ 20 + 2 ^ 19 + r.domain.toNat * 2 ^ 4 + r.logw.toNat * 4 + r.skip.toNat * 2 + r.check.toNat
      | _ => (r.freeOn (r.dieOf n)).length * 2 ^ 32 + r.reserve

def execRginfo (f d a : BitVec 6) (s : State) : Res := queryOp (decide (f.toNat < 4)) 0 d a (regionWord f.toNat) s

end Sys2Proof.Machine
end

