-- ==== Sys2Proof/Machine/Matrix.lean ====
section
/-! DEFINITION. The matrix engine (17 R257 to R277, 03 R71 to R77, 15 R250): its instructions, and the start, the faults and the retirement of its commands. -/

namespace Sys2Proof.Machine

/-! ### Operand maps (17 R261 to R264) -/

def mapField (m : BitVec 256) (lo n : Nat) : Nat := bitsAt m.toNat lo n
def mpRows (m : BitVec 256) : Nat := mapField m 0 13
def mpCols (m : BitVec 256) : Nat := mapField m 13 13
def mpMaj (m : BitVec 256) : Nat := mapField m 28 1
def mpFmt (m : BitVec 256) : Nat := mapField m 29 3
def mpStride (m : BitVec 256) : Nat := mapField m 32 32
def mpBase (m : BitVec 256) : W64 := BitVec.ofNat 64 (mapField m 64 64)
def mpScale (m : BitVec 256) : W64 := BitVec.ofNat 64 (mapField m 128 64)
def mpBitmap (m : BitVec 256) : W64 := BitVec.ofNat 64 (mapField m 192 64)

/-- Bytes of an element; L6 has none. -/
def fmtSize (f : Nat) : Nat := if f = 3 ∨ f = 4 then 1 else if f = 1 ∨ f = 2 then 2 else 4

/-- BASE + line × STRIDE + pos × s. -/
def lineAddr (m : BitVec 256) (line pos : Nat) : W64 :=
  mpBase m + BitVec.ofNat 64 (line * mpStride m + pos * fmtSize (mpFmt m))

/-- Address of element (r, c) of A, of B, and of an accumulator map. -/
def aAddr (m : BitVec 256) (r c : Nat) : W64 := lineAddr m r c
def bAddr (m : BitVec 256) (r c : Nat) : W64 := if mpMaj m = 0 then lineAddr m c r else lineAddr m r c
def tAddr (m : BitVec 256) (r c : Nat) : W64 := if mpMaj m = 0 then lineAddr m r c else lineAddr m c r

/-- Address of the L6 block of a line at K position `k`. -/
def l6Addr (m : BitVec 256) (line k : Nat) : W64 := mpBase m + BitVec.ofNat 64 (line * mpStride m + 24 * (k / 32))

/-- Address of the bitmap byte of column `c` in row `r`. -/
def bitAddr (m : BitVec 256) (r c : Nat) : W64 :=
  mpBitmap m + BitVec.ofNat 64 (r * (8 * ((mpCols m + 63) / 64)) + c / 8)

/-- Address of the scale of line `x` at K position `k` (17 R264). -/
def scaleAddr (m : BitVec 256) (kextent x k : Nat) : W64 :=
  mpScale m + BitVec.ofNat 64 (512 * (x / 128 * (kextent / 128) + k / 128) + x % 128 % 32 * 16 + x % 128 / 32 * 4 + k / 32 % 4)

/-- A record that OPMAP refuses (17 R271). -/
def mapIllegal (m : BitVec 256) : Bool := mpFmt m == 7 || mapField m 26 2 != 0 || mpRows m == 0 || mpCols m == 0

/-! ### Positions, products and fetches (17 R266) -/

/-- A command with the tile offset that its rank gives it (17 R273), and the K blocks that are skipped on default pages (15 R250). -/
structure MEnv where
  core : Nat
  c : MatCmd
  ro : Nat
  co : Nat
  skip : List Nat
  deriving DecidableEq, Repr

/-- Rows of panel `p`, and columns of the tile, that the maps cover. -/
def MEnv.rows (v : MEnv) (p : Nat) : List Nat :=
  ((List.range 8).map (fun i => 8 * p + i)).filter (fun i => decide (v.ro + i < mpRows v.c.mapA))
def MEnv.cols (v : MEnv) : List Nat := (List.range 128).filter (fun j => decide (v.co + j < mpCols v.c.mapB))

def MEnv.isL6 (v : MEnv) : Bool := mpFmt v.c.mapA == 0

/-- The bytes that hold the L6 code of a K position of a line: bits [6c+5:6c] of its block, c = k mod 32 (03 R56, 17 R262). -/
def l6Bytes (m : BitVec 256) (line k : Nat) : W64 × Nat :=
  let b := 6 * (k % 32)
  (l6Addr m line k + BitVec.ofNat 64 (b / 8), (b % 8 + 13) / 8)

/-- Bytes of A, or of B, at a line and a K position: those of the L6 code, or the element. -/
def MEnv.aBytes (v : MEnv) (i k : Nat) : W64 × Nat :=
  if v.isL6 then l6Bytes v.c.mapA (v.ro + i) k else (aAddr v.c.mapA (v.ro + i) k, fmtSize (mpFmt v.c.mapA))
def MEnv.bBytes (v : MEnv) (j k : Nat) : W64 × Nat :=
  if v.isL6 then l6Bytes v.c.mapB (v.co + j) k else (bAddr v.c.mapB k (v.co + j), fmtSize (mpFmt v.c.mapB))

def MEnv.aScale (v : MEnv) (i k : Nat) : W64 := scaleAddr v.c.mapA (mpCols v.c.mapA) (v.ro + i) k
def MEnv.bScale (v : MEnv) (j k : Nat) : W64 := scaleAddr v.c.mapB (mpRows v.c.mapB) (v.co + j) k

/-- The number that the command finds in `n` bytes (11 R203, R205). -/
def MEnv.read (s : State) (v : MEnv) (a : W64) (n : Nat) : Nat := s.engineNum v.core v.c.know a n

/-- Bitmap bits of position (i, k) and (k, j); ones where the command reads no bitmap. -/
def MEnv.aBit (s : State) (v : MEnv) (i k : Nat) : Bool :=
  v.c.kind != .mmas || bitsAt (v.read s (bitAddr v.c.mapA (v.ro + i) k) 1) (k % 8) 1 == 1
def MEnv.bBit (s : State) (v : MEnv) (k j : Nat) : Bool :=
  v.c.kind != .mmas || bitsAt (v.read s (bitAddr v.c.mapB k (v.co + j)) 1) ((v.co + j) % 8) 1 == 1

/-- A byte of an unbacked page of a region that may be skipped: SKIP = 1, a default of zero bits (15 R250). -/
def skippable (s : State) (core : Nat) (a : W64) : Bool :=
  match placeOf s core a with
  | .page i n _ =>
    (s.backedAt i n).isNone && (match SMap.get none s.regions i with
      | some r => r.skip && r.default == 0
      | none => false)
  | _ => false

/-- K positions of block `kb` at which the command reads its maps: those that it covers and both maps hold (17 R266). -/
def MEnv.blockKs (v : MEnv) (kb : Nat) : List Nat :=
  ((List.range 32).map (fun n => 32 * kb + n)).filter (fun k =>
    decide (v.c.k0 ≤ k ∧ k < v.c.k0 + v.c.k ∧ k < mpCols v.c.mapA ∧ k < mpRows v.c.mapB))

/-- A set of ranges lies wholly in pages that may be skipped. -/
def whollySkippable (s : State) (core : Nat) (rs : List (W64 × Nat)) : Bool :=
  !rs.isEmpty && rs.all (fun r => (bytesOf r.1 r.2).all (skippable s core))

/-- K block `kb` is skipped on default pages: all that its positions need of A, or all that they need of B, lies in such pages (15 R250). -/
def MEnv.skips (s : State) (v : MEnv) (kb : Nat) : Bool :=
  whollySkippable s v.core ((List.range 16).flatMap v.rows |>.flatMap (fun i => (v.blockKs kb).map (v.aBytes i))) ||
  whollySkippable s v.core (v.cols.flatMap (fun j => (v.blockKs kb).map (v.bBytes j)))

/-- The command of a core as its engine sees it. -/
def MEnv.of (s : State) (core : Nat) (c : MatCmd) : MEnv :=
  let r := (s.wgAt core).clrank
  let v : MEnv := if c.kind = .mmac then ⟨core, c, 128 * (r / 2), 128 * (r % 2), []⟩ else ⟨core, c, 0, 0, []⟩
  { v with skip := ((List.range ((c.k0 % 32 + c.k + 31) / 32)).map (fun n => c.k0 / 32 + n)).filter (v.skips s) }

/-- Panel `p` may have a step at `k`, as far as the maps and the default pages say. -/
def MEnv.reaches (v : MEnv) (p k : Nat) : Bool :=
  !(v.rows p).isEmpty && decide (k < mpCols v.c.mapA ∧ k < mpRows v.c.mapB) && !v.skip.contains (k / 32)

/-- Panel `p` takes a step at `k` (17 R266). -/
def MEnv.steps (s : State) (v : MEnv) (p k : Nat) : Bool :=
  v.reaches p k && (v.c.kind != .mmas || ((v.rows p).any (fun i => v.aBit s i k) && v.cols.any (fun j => v.bBit s k j)))

/-- The data and scales of a step, those of the products it forms, each with the format of its operand. -/
def MEnv.typedFetches (s : State) (v : MEnv) (p k : Nat) : List (Nat × W64 × Nat) :=
  let rs := (v.rows p).filter (fun i => v.aBit s i k)
  let cs := v.cols.filter (fun j => v.bBit s k j)
  let a := mpFmt v.c.mapA
  let b := mpFmt v.c.mapB
  rs.map (fun i => (a, v.aBytes i k)) ++ cs.map (fun j => (b, v.bBytes j k)) ++
    (if v.isL6 then rs.map (fun i => (a, v.aScale i k, 1)) ++ cs.map (fun j => (b, v.bScale j k, 1)) else [])

def MEnv.dataFetches (s : State) (v : MEnv) (p k : Nat) : List (W64 × Nat) := (v.typedFetches s p k).map (fun f => f.2)

/-- Faults of engine reads; a poisoned byte is an INTEGRITY (17 R270). -/
def readFaults (s : State) (core : Nat) (rs : List (W64 × Nat)) : List CmdFault :=
  rs.flatMap (fun r => match engineFaults s core .load r.1 r.2 with
    | [] => match (bytesOf r.1 r.2).find? (fun a => s.poisonAt (placeOf s core a)) with
      | some a => [⟨a, .integrity, false⟩]
      | none => []
    | fs => fs)

/-- The bitmap bytes of a position: those of A's rows in the panel, and those of B's row. -/
def MEnv.aBits (v : MEnv) (p k : Nat) : List (W64 × Nat) := (v.rows p).map (fun i => (bitAddr v.c.mapA (v.ro + i) k, 1))
def MEnv.bBits (v : MEnv) (k : Nat) : List (W64 × Nat) :=
  (v.cols.filter (fun j => j % 8 == 0)).map (fun j => (bitAddr v.c.mapB k (v.co + j), 1))

/-- The bitmap bytes that a position needs: none where one operand's bits can all be read and are 0, since the panel then takes no step there (17 R266, R267; log 84). -/
def MEnv.bitFetches (s : State) (v : MEnv) (p k : Nat) : List (W64 × Nat) :=
  let clear := fun (rs : List (W64 × Nat)) (set : Bool) => (readFaults s v.core rs).isEmpty && !set
  if v.c.kind ≠ .mmas ∨ clear (v.aBits p k) ((v.rows p).any (fun i => v.aBit s i k)) ∨
      clear (v.bBits k) (v.cols.any (fun j => v.bBit s k j)) then []
  else v.aBits p k ++ v.bBits k

/-- The ranges that panel `p` reads at position `k`. -/
def MEnv.fetches (s : State) (v : MEnv) (p k : Nat) : List (W64 × Nat) :=
  let bits := v.bitFetches s p k
  if !v.reaches p k then []
  else if readFaults s v.core bits ≠ [] then bits
  else bits ++ (if v.steps s p k then v.dataFetches s p k else [])

/-- Address of an element of the accumulator store in the on-chip physical map (11 R185). -/
def accAddr (core key : Nat) : W64 :=
  BitVec.ofNat 64 (0xF8 * 2 ^ 56 + dieOf core * 2 ^ 30 + core % Config.coresPerDie * 2 ^ 23 + 2 ^ 20 + 4 * key)

/-- Errors of accumulator elements that cannot be corrected (11 R216). -/
def accErrors (s : State) (core : Nat) (keys : List Nat) : List CmdFault :=
  (keys.filter (fun n => SMap.get false (s.coreAt core).store.accBad n)).map (fun n => ⟨accAddr core n, .integrity, false⟩)

/-- Key of an element of a tile. -/
def tileKey (t i j : Nat) : Nat := 16384 * t + 128 * i + j

/-- The elements to which panel `p` adds a product at position `k`. -/
def MEnv.addedTo (s : State) (v : MEnv) (p k : Nat) : List Nat :=
  if v.steps s p k then
    ((v.rows p).filter (fun i => v.aBit s i k)).flatMap (fun i => (v.cols.filter (fun j => v.bBit s k j)).map (fun j => tileKey v.c.acc i j))
  else []

/-- The faults of a position: those of its fetches, and errors of the elements that it would add to. -/
def MEnv.faultsAt (s : State) (v : MEnv) (p k : Nat) : List CmdFault :=
  readFaults s v.core (v.fetches s p k) ++ accErrors s v.core (v.addedTo s p k)

/-! ### Progress (17 R268, R269) -/

def MatCmd.isProduct (c : MatCmd) : Bool := c.kind == .mma || c.kind == .mmas || c.kind == .mmac

def MatCmd.counter (c : MatCmd) (p : Nat) : Nat := SMap.get 0 c.counters p

/-- The first position, from the panel's counter on, whose fetch faults. -/
def MEnv.firstFault (s : State) (v : MEnv) (p : Nat) : Option Nat :=
  if v.c.done.getLsbD p then none
  else ((List.range (v.c.k - v.c.counter p)).map (fun n => v.c.k0 + v.c.counter p + n)).find? (fun k => v.faultsAt s p k ≠ [])

/-- Every position of the command that panel `p` still has to pass. -/
def MEnv.todo (v : MEnv) (p : Nat) : List Nat :=
  if v.c.done.getLsbD p then [] else (List.range (v.c.k - v.c.counter p)).map (fun n => v.c.k0 + v.c.counter p + n)

/-- What an MMAC fetches in a step of panel `p` at position `k`, with the formats; it reads no bitmap. -/
def MEnv.stepFetches (s : State) (v : MEnv) (p k : Nat) : List (Nat × W64 × Nat) := if v.steps s p k then v.typedFetches s p k else []

/-- The fetches of a stopped MMAC that it has not received: those from the stop of a stopped panel on that no other panel of it has made (17 R273). -/
def MEnv.missing (s : State) (v : MEnv) : List (Nat × W64 × Nat) :=
  let stop := fun p => (v.firstFault s p).getD (if v.c.state = .faulted ∧ !v.c.done.getLsbD p then v.c.k0 + v.c.counter p else v.c.k0 + v.c.k)
  let ks := (List.range v.c.k).map (fun n => v.c.k0 + n)
  let at_ := fun (late : Bool) => (List.range 16).flatMap (fun p => (ks.filter (fun k => decide (stop p ≤ k) == late)).flatMap (v.stepFetches s p))
  (at_ true).filter (fun f => !(at_ false).contains f)

/-- The shared fetches that the ranks of an MMAC wait for, by format, address and length: those that a rank stopped by a fault has not received (17 R273). -/
def MEnv.awaited (s : State) (v : MEnv) : List (Nat × W64 × Nat) :=
  if v.c.kind ≠ .mmac then []
  else (s.members v.core).flatMap (fun m => match (s.wgAt m).mq with
    | d :: _ =>
      let u := MEnv.of s m d
      if m ≠ v.core ∧ d.kind = .mmac ∧ d.mmacNo = v.c.mmacNo ∧
          (d.state = .faulted ∨ (d.state = .running ∧ (List.range 16).any (fun p => (u.firstFault s p).isSome))) then u.missing s
      else []
    | [] => [])

/-- The first position, from the panel's counter on, at which it stops: a fetch faults there, or waits for another rank. -/
def MEnv.firstStop (s : State) (v : MEnv) (p : Nat) : Option Nat :=
  let shared := v.awaited s
  (v.todo p).find? (fun k => v.faultsAt s p k != [] || (v.stepFetches s p k).any (fun f => shared.contains f))

/-- First position of the unit that holds a step (17 R269). -/
def MEnv.unitStart (v : MEnv) (k : Nat) : Nat :=
  match mpFmt v.c.mapA with
  | 0 => max v.c.k0 (k / 32 * 32)
  | 1 | 2 => max v.c.k0 (k / 4 * 4)
  | _ => k

/-- The positions that panel `p` completes now: from its counter up to the unit of its first stop, or to the end. -/
def MEnv.span (s : State) (v : MEnv) (p : Nat) : Nat × Nat :=
  if v.c.done.getLsbD p then (v.c.k0 + v.c.k, v.c.k0 + v.c.k)
  else (v.c.k0 + v.c.counter p, match v.firstStop s p with
    | some k => v.unitStart k
    | none => v.c.k0 + v.c.k)

/-! ### Arithmetic of an element (03 R71 to R77) -/

/-- The formed positions of element (i, j) among a list of positions. -/
def MEnv.formed (s : State) (v : MEnv) (i j : Nat) (ks : List Nat) : List Nat :=
  ks.filter (fun k => v.reaches (i / 8) k && v.aBit s i k && v.bBit s k j)

/-- The L6 code of a position in the bytes that hold it (03 R56). -/
def MEnv.l6At (s : State) (v : MEnv) (r : W64 × Nat) (k : Nat) : Nat := bitsAt (v.read s r.1 r.2) (6 * (k % 32) % 8) 6

/-- Add an F32 value to an F32 accumulator with RNE; a NaN accumulator stays the canonical NaN (03 R73). An infinity that meets a group sum of the opposite sign gives NaN and IV, as R73 says of a block sum (DESIGN CHOICE, log 74). -/
def accAdd (l6 : Bool) (acc x : Nat) : Flagged :=
  if l6 && (fF32.decode acc).isNan then (fF32.nan, 0) else addBits fF32 .rne acc x

/-- One L6 block of an element (03 R72 to R75). Where the accumulator is NaN already, the block sum's own rounding still sets its flags (DESIGN CHOICE, log 74). -/
def MEnv.l6Step (s : State) (v : MEnv) (i j : Nat) (acc : Flagged) (ks : List Nat) : Flagged :=
  match v.formed s i j ks with
  | [] => acc
  | k :: r =>
    let ea := v.read s (v.aScale i k) 1
    let eb := v.read s (v.bScale j k) 1
    if ea = 0xFF ∨ eb = 0xFF then (fF32.nan, acc.2 ||| flIV)
    else
      let sum := (k :: r).foldl (fun n k => n + l6Product (v.l6At s (v.aBytes i k) k) (v.l6At s (v.bBytes j k) k)) 0
      let x := roundDyadic fF32 .rne false ⟨sum, (ea : Int) + eb - 254 - 23⟩
      let y := accAdd true acc.1 x.1
      (y.1, acc.2 ||| x.2 ||| y.2)

/-- One F16 or BF16 group of an element (03 R76). -/
def MEnv.halfStep (s : State) (v : MEnv) (f : FFmt) (i j : Nat) (acc : Flagged) (ks : List Nat) : Flagged :=
  match v.formed s i j ks with
  | [] => acc
  | fs =>
    let ps := fs.map (fun k =>
      (f.decode (v.read s (v.aBytes i k).1 2)).mul (f.decode (v.read s (v.bBytes j k).1 2)))
    let (t, f1) := sumValues (ps.map (fun p => p.1))
    let x := match t with
      | .num d _ => roundDyadic fF32 .rne false d
      | t => t.round fF32 .rne
    let y := accAdd false acc.1 x.1
    (y.1, acc.2 ||| ps.foldl (fun fl p => fl ||| p.2) 0 ||| f1 ||| x.2 ||| y.2)

/-- One position of an S8 or N8 element (03 R77). -/
def MEnv.byteStep (s : State) (v : MEnv) (i j : Nat) (acc : Flagged) (k : Nat) : Flagged :=
  match v.formed s i j [k] with
  | [] => acc
  | _ =>
    let a := intOf 8 (mpFmt v.c.mapA == 3) (v.read s (v.aBytes i k).1 1)
    let b := intOf 8 (mpFmt v.c.mapB == 3) (v.read s (v.bBytes j k).1 1)
    let x := intOf 32 true acc.1 + a * b
    (wrapInt 32 x, acc.2 ||| (if x < intMin 32 true ∨ intMax 32 true < x then flOF else 0))

/-- Cut positions lo to hi − 1 into units of `n` positions counted from the maps' origin. -/
def unitsOf (n lo hi : Nat) : List (List Nat) :=
  let ks := (List.range (hi - lo)).map (fun d => lo + d)
  (List.range (hi / n + 1)).map (fun u => ks.filter (fun k => k / n == u))

/-- Element (i, j) after positions lo to hi − 1. -/
def MEnv.element (s : State) (v : MEnv) (i j lo hi : Nat) (acc : Nat) : Flagged :=
  match mpFmt v.c.mapA with
  | 0 => (unitsOf 32 lo hi).foldl (v.l6Step s i j) (acc, 0)
  | 1 => (unitsOf 4 lo hi).foldl (v.halfStep s fF16 i j) (acc, 0)
  | 2 => (unitsOf 4 lo hi).foldl (v.halfStep s fBF16 i j) (acc, 0)
  | _ => ((List.range (hi - lo)).map (fun d => lo + d)).foldl (v.byteStep s i j) (acc, 0)

/-! ### Tiles -/

def State.tileAt (s : State) (core t i j : Nat) : W32 := SMap.get 0 (s.coreAt core).store.acc (tileKey t i j)

/-- Replace a whole tile. -/
def State.setTile (s : State) (core t : Nat) (f : Nat → W32) : State :=
  let k := s.coreAt core
  s.setCore core { k with store := { k.store with acc := fillRange 0 k.store.acc (16384 * t) 16384 f } }

/-- Every element of a tile is written anew: no error is left in it (11 R216). -/
def State.cleanTile (s : State) (core t : Nat) : State :=
  let k := s.coreAt core
  s.setCore core { k with store := { k.store with accBad := dropRange k.store.accBad (16384 * t) 16384 } }

/-- Replace one element. -/
def State.setElem (s : State) (core t i j : Nat) (x : W32) : State :=
  let k := s.coreAt core
  s.setCore core { k with store := { k.store with acc := SMap.set 0 k.store.acc (tileKey t i j) x,
                                                  accBad := SMap.set false k.store.accBad (tileKey t i j) false } }

def Workgroup.tag (w : Workgroup) (t : Nat) : Tag := SMap.get .b32 w.tileTag t
def Workgroup.pending (w : Workgroup) (t : Nat) : Tag := SMap.get .b32 w.pendTag t
def Workgroup.setTag (w : Workgroup) (t : Nat) (x : Tag) : Workgroup := { w with tileTag := SMap.set .b32 w.tileTag t x }
def Workgroup.setPending (w : Workgroup) (t : Nat) (x : Tag) : Workgroup := { w with pendTag := SMap.set .b32 w.pendTag t x }

/-! ### Issue -/

/-- Checks 1 and 2 of 17 R258. -/
def matrixChecks (cx : Ctx) : Except Stop Unit := do
  needRole cx .matrix
  needCollective cx

/-- The progress record of a product that has not started (17 R277). -/
def MatCmd.queuedRec (c : MatCmd) : MRec :=
  ⟨match c.kind with
    | .mmas => 1
    | .mmac => 2
    | _ => 0, c.acc, 1, 0, 0, [], c.k⟩

/-- Queue a command: its number in its class, the gang's counter, the pending tag, the record that MSTEP reads (17 R257, R259, R277). With the queue full the instruction has not issued. In a workgroup that ends the command is discarded as the queued ones are (21 R340). -/
def queueMatrix (cx : Ctx) (c : MatCmd) (pend : Option Tag) (s : State) : State :=
  if cx.wg.ending then retire cx s
  else if 8 ≤ cx.wg.mq.length then s
  else
    let c := { c with serial := SMap.get 0 cx.wg.serials 3, mmacNo := cx.wg.mmacs, know := knowOf s cx.core cx.gang }
    let s := s.updWg cx.core (fun w =>
      let w := match pend with
        | some t => w.setPending c.acc t
        | none => w
      { w with mq := w.mq ++ [c], serials := SMap.set 0 w.serials 3 ((c.serial + 1) % 2 ^ 16),
               mmacs := if c.kind = .mmac then w.mmacs + 1 else w.mmacs })
    retire cx (s.updGang cx.core cx.gang (fun g =>
      let g := g.countIssue 2
      if c.isProduct then { g with mrec := c.queuedRec } else g))

/-- A command of the issuing gang, before its number and what it knows. -/
def newCmd (cx : Ctx) (kind : MatKind) (acc : Nat) : MatCmd :=
  { kind := kind, gang := cx.gang, acc := acc, mapA := 0, mapB := 0, z := false, k := 0, k0 := 0, tag := .b32, state := .queued,
    counters := [], done := 0, services := 0, seen := [], flags := 0, faults := [], err := none, low := 0, lacks := [], lackAt := 0, serial := 0, blame := cx.g.blame,
    top := cx.g.top, mmacNo := 0, since := 0, know := [] }

def Gang.opmap (g : Gang) (n : Nat) : BitVec 256 := SMap.get 0 g.om n

/-- The accumulation format of a pair of operand formats (03 R64). -/
def pairTag (fa fb : Nat) : Option Tag :=
  if fa < 3 ∧ fa = fb then some .f32 else if (fa = 3 ∨ fa = 4) ∧ (fb = 3 ∨ fb = 4) then some .s32 else none

/-- ALIGNMENT of BASE and STRIDE (17 R262). -/
def mapAligned (m : BitVec 256) : Bool :=
  mpFmt m == 0 || ((mpBase m).toNat % fmtSize (mpFmt m) == 0 && mpStride m % fmtSize (mpFmt m) == 0)

/-- MMA, MMAS and MMAC (17 R272, R273). -/
def productOp (kind : MatKind) (c : BitVec 1) (a b : BitVec 2) (z : BitVec 1) (o k : BitVec 6) (s : State) : Res :=
  issue s (fun cx => do
    matrixChecks cx
    let n := (cx.g.sreg k.toNat).toNat
    let k0 := (cx.g.sreg o.toNat).toNat
    let ma := cx.g.opmap a.toNat
    let mb := cx.g.opmap (b.toNat + 4)
    need (decide (1 ≤ n ∧ n ≤ 512 ∧ k0 ≤ 8190)) (illegalOperand cx)
    need (mpRows ma != 0 && mpRows mb != 0) (illegalOperand cx)
    need (mpMaj ma == 0 && !(mpFmt mb == 0 && mpMaj mb == 1)) (illegalOperand cx)
    need (kind != .mmac || cx.wg.cluster) (illegalOperand cx)
    let t ← match pairTag (mpFmt ma) (mpFmt mb) with
      | some t => pure t
      | none => throw (raise .formatTag)
    let pend := cx.wg.pending c.toNat
    need (z == 1 || pend == .b32 || pend == t) (raise .formatTag)
    let l6 := mpFmt ma == 0
    need (!l6 || [mpRows ma, mpCols ma, mpRows mb, mpCols mb, n, k0].all (fun x => x % 128 == 0)) (raise .scaleLayout)
    need (!l6 || ((mpScale ma).toNat % 512 == 0 && (mpScale mb).toNat % 512 == 0)) (raise .scaleLayout)
    need (mapAligned ma && mapAligned mb) (raise .alignment)
    need (kind != .mmas || ((mpBitmap ma).toNat % 8 == 0 && (mpBitmap mb).toNat % 8 == 0)) (raise .alignment)
    pure (queueMatrix cx { newCmd cx kind c.toNat with mapA := ma, mapB := mb, z := z == 1, k := n, k0 := k0, tag := t } (some t) s))

def execMma (c : BitVec 1) (a b : BitVec 2) (z : BitVec 1) (o k : BitVec 6) (s : State) : Res := productOp .mma c a b z o k s
def execMmas (c : BitVec 1) (a b : BitVec 2) (z : BitVec 1) (o k : BitVec 6) (s : State) : Res := productOp .mmas c a b z o k s
def execMmac (c : BitVec 1) (a b : BitVec 2) (z : BitVec 1) (o k : BitVec 6) (s : State) : Res := productOp .mmac c a b z o k s

/-- OPMAP (17 R271). -/
def execOpmap (n : BitVec 3) (a : BitVec 6) (s : State) : Res :=
  issue s (fun cx => do
    matrixChecks cx
    let x := cx.g.sreg a.toNat
    let xs : Accesses := [(lowLane cx.en, x)]
    spaceChecks s cx.core .load 32 32 xs
    raceCheck s cx.core cx.gang .load 32 xs
    poisonCheck s cx.core 32 xs
    let m : BitVec 256 := BitVec.ofNat 256 (s.loadNum cx.core cx.gang 0 x 32)
    need (!mapIllegal m) (illegalOperand cx)
    let s := accessed cx.core 32 xs (readAsLoad cx.core cx.gang x 32 s)
    pure (retire cx (s.updGang cx.core cx.gang (fun g => { g with om := SMap.set 0 g.om n.toNat m }))))

/-- ACCZ (17 R274). -/
def execAccz (c sg : BitVec 1) (s : State) : Res :=
  issue s (fun cx => do
    matrixChecks cx
    let t : Tag := if sg = 1 then .s32 else .f32
    pure (queueMatrix cx { newCmd cx .accz c.toNat with tag := t } (some t) s))

/-- ACCLD (17 R275). -/
def execAccld (c : BitVec 1) (n : BitVec 3) (s : State) : Res :=
  issue s (fun cx => do
    matrixChecks cx
    let m := cx.g.opmap n.toNat
    need (mpRows m != 0 && (mpFmt m == 5 || mpFmt m == 6)) (illegalOperand cx)
    need (mapAligned m) (raise .alignment)
    let t : Tag := if mpFmt m = 5 then .f32 else .s32
    pure (queueMatrix cx { newCmd cx .accld c.toNat with mapA := m, tag := t } (some t) s))

/-- The pairs of ACCST's table. -/
def storePair (t : Tag) (fmt : Nat) : Bool :=
  match t with
  | .f32 => fmt == 5 || fmt == 1 || fmt == 2
  | .s32 => fmt == 6 || fmt == 3 || fmt == 4
  | _ => fmt == 5 || fmt == 6

/-- ACCST (17 R275): its map is valid, then the pending tag, then the pair (17 R258). -/
def execAccst (c : BitVec 1) (n : BitVec 3) (s : State) : Res :=
  issue s (fun cx => do
    matrixChecks cx
    let m := cx.g.opmap n.toNat
    let t := cx.wg.pending c.toNat
    need (mpRows m != 0) (illegalOperand cx)
    need (t == .f32 || t == .s32 || t == .b32) (raise .formatTag)
    need (storePair t (mpFmt m)) (illegalOperand cx)
    need (mapAligned m) (raise .alignment)
    pure (queueMatrix cx { newCmd cx .accst c.toNat with mapA := m, tag := t } none s))

/-! ### ACCRD and ACCWR (17 R276) -/

def selT (x : W64) : Bool := x.getLsbD 17
def selAcc (x : W64) : Nat := bitsAt x.toNat 16 1
def selCol (x : W64) : Nat := bitsAt x.toNat 8 7
def selRow (x : W64) : Nat := bitsAt x.toNat 0 7

/-- Bits of s[P] that must be zero, and positions past row or column 127. -/
def selIllegal (x : W64) (lanes : Nat) : Bool :=
  bitsAt x.toNat 18 46 != 0 || x.getLsbD 15 || x.getLsbD 7 ||
  decide (128 < (if selT x then selRow x else selCol x) + 2 * lanes)

/-- Row and column of position `q`. -/
def selElem (x : W64) (q : Nat) : Nat × Nat := if selT x then (selRow x + q, selCol x) else (selRow x, selCol x + q)

/-- Perform an ACCRD or an ACCWR. -/
def doElems (core gang : Nat) (write : Bool) (reg : Nat) (x : W64) (s : State) : State :=
  let w := s.wgAt core
  let n := 4 * w.kernel.slices
  let t := selAcc x
  let spots := (List.range n).flatMap (fun l => [(reg, l, selElem x l), (reg + 1, l, selElem x (n + l))])
  if write then
    let g := s.gangAt core gang
    let s := spots.foldl (fun s p => s.setElem core t p.2.2.1 p.2.2.2 (g.cell p.1 p.2.1).bits) s
    s.updWg core (fun w => w.setTag t (g.cell reg 0).tag)
  else
    s.updGang core gang (fun g => spots.foldl (fun g p => g.setV p.1 p.2.1 (s.tileAt core t p.2.2.1 p.2.2.2) (w.tag t)) g)

/-- Commands queued before a number was given (17 R276). -/
def Workgroup.behind (w : Workgroup) (next : Nat) : Bool :=
  w.mq.any (fun c => let d := (next + 2 ^ 16 - c.serial) % 2 ^ 16; decide (1 ≤ d ∧ d ≤ 2 ^ 15))

/-- The first element with an error among those that an ACCRD reads: its lane and its address (11 R216). -/
def elemError (s : State) (core : Nat) (write : Bool) (x : W64) : Option Trap :=
  let n := 4 * (s.wgAt core).kernel.slices
  if write then none
  else
    (((List.range n).flatMap (fun l => [(l, selElem x l), (l, selElem x (n + l))])).find? (fun e =>
      SMap.get false (s.coreAt core).store.accBad (tileKey (selAcc x) e.2.1 e.2.2))).map (fun e =>
        Trap.at .integrity e.1 (accAddr core (tileKey (selAcc x) e.2.1 e.2.2)))

/-- Act at once when no earlier command is queued, else wait for them. -/
def elemsNow (cx : Ctx) (write : Bool) (reg : Nat) (x : W64) (s : State) : Except Stop State :=
  let next := SMap.get 0 cx.wg.serials 3
  if cx.wg.behind next then .ok (waitAt cx (.accElems write reg x next) s)
  else
    match elemError s cx.core write x with
    | some t => .error (.trap t)
    | none => .ok (retire cx (doElems cx.core cx.gang write reg x s))

/-- ACCRD. -/
def execAccrd (f p : BitVec 6) (s : State) : Res :=
  issue s (fun cx => do
    matrixChecks cx
    let x := cx.g.sreg p.toNat
    need (!selIllegal x cx.lanesL) (illegalOperand cx)
    regBlock cx (2 * f.toNat)
    elemsNow cx false (2 * f.toNat) x s)

/-- ACCWR. -/
def execAccwr (f p : BitVec 6) (s : State) : Res :=
  issue s (fun cx => do
    matrixChecks cx
    let x := cx.g.sreg p.toNat
    let r := 2 * f.toNat
    need (!selIllegal x cx.lanesL) (illegalOperand cx)
    regBlock cx r
    let t ← oneTag cx [r, r + 1]
    need (t == .f32 || t == .s32) (raise .formatTag)
    let pend := cx.wg.pending (selAcc x)
    need (pend == t || pend == .b32) (raise .formatTag)
    parity cx r
    parity cx (r + 1)
    elemsNow cx true r x (s.updWg cx.core (fun w => w.setPending (selAcc x) t)))

/-- SYNCHRONOUS_REPLY: every earlier command has retired, and the instruction acts. -/
def execSynchronousReply (core gang : Nat) (s : State) : Res :=
  let g := s.gangAt core gang
  .next (match (g.splits.zipIdx).findSome? (fun x => match x.1.wait with
      | .accElems w r p n => if g.canRelease x.1 && !(s.wgAt core).behind n then some (x.2, w, r, p) else none
      | _ => none) with
    | some (i, w, r, p) =>
      match elemError s core w p with
      | some t => trapWait core gang i t s
      | none => (doElems core gang w r p s).updGang core gang (fun g => g.release i)
    | none => s)

/-! ### MSTEP (17 R277) -/

/-- A word of a progress record. -/
def MRec.word (r : MRec) (w : Nat) : Nat :=
  let ctr := fun p => SMap.get 0 r.counters p
  if w < 2 then (List.range 7).foldl (fun n m => n + ctr (7 * w + m) * 2 ^ (9 * m)) 0
  else r.kind * 2 ^ 60 + r.acc * 2 ^ 59 + r.state * 2 ^ 56 + min r.services 255 * 2 ^ 48 + r.done.toNat * 2 ^ 32 + ctr 15 * 2 ^ 9 + ctr 14

/-- Where panel `p` of a running command may stand, from the last position read on: at the ends of its span, or at a position before which its unit has formed no product (17 R268). -/
def MEnv.standing (s : State) (v : MEnv) (p : Nat) : List Nat :=
  let (lo, hi) := v.span s p
  let from_ := max lo (min hi (v.c.k0 + SMap.get 0 v.c.seen p))
  ((List.range (hi + 1 - from_)).map (fun d => from_ + d)).filter (fun k =>
    k == from_ || k == hi || (List.range (k - v.unitStart k)).all (fun d => decide (v.unitStart k + d < lo) || !v.steps s p (v.unitStart k + d)))

/-- A reading of a running command: a free choice for each panel among the values that are allowed (log 24). -/
def MEnv.reading (s : State) (v : MEnv) (r : MRec) : MRec :=
  let at_ := fun p => let ks := v.standing s p; (ks[Config.freeNat (s.free + p) % ks.length]?).getD (v.c.k0 + v.c.k)
  let fin := fun p => at_ p == v.c.k0 + v.c.k
  { r with state := 2, services := v.c.services,
           counters := SMap.ofFn 0 16 (fun p => if fin p then 0 else at_ p - v.c.k0),
           done := (List.range 16).foldl (fun m p => if fin p then m ||| BitVec.ofNat 16 (2 ^ p) else m) 0 }

/-- The progress record of the gang's last product (17 R277). -/
def progressOf (s : State) (core gang : Nat) : MRec :=
  match ((s.wgAt core).mq.filter (fun c => c.gang == gang && c.isProduct)).getLast? with
  | none => (s.gangAt core gang).mrec
  | some c =>
    let r := c.queuedRec
    match c.state with
    | .queued => r
    | .running | .backing => (MEnv.of s core c).reading s r
    | .faulted => { r with state := 3, services := c.services, counters := c.counters, done := c.done }

/-- The head product keeps what a reading of it showed, below which no later one falls. -/
def noteReading (core gang : Nat) (r : MRec) (s : State) : State :=
  s.updWg core (fun w => { w with mq := match w.mq with
    | c :: rest =>
      if c.state = .running ∧ c.isProduct ∧ c.gang = gang ∧ !rest.any (fun d => d.gang == gang && d.isProduct) then
        { c with seen := SMap.ofFn 0 16 (fun p => if r.done.getLsbD p then c.k else SMap.get 0 r.counters p) } :: rest
      else c :: rest
    | [] => [] })

/-- MSTEP. -/
def execMstep (w d : BitVec 6) (s : State) : Res :=
  issue s (fun cx => do
    need (decide (w.toNat < 3)) (illegalInstruction cx)
    matrixChecks cx
    let r := progressOf s cx.core cx.gang
    pure (putScalar cx d.toNat (BitVec.ofNat 64 (r.word w.toNat)) (noteReading cx.core cx.gang r { s with free := s.free + 16 })))

/-! ### Running (17 R268 to R275) -/

/-- Replace the head of the matrix queue. -/
def setMatrixHead (core : Nat) (c : MatCmd) (s : State) : State :=
  s.updWg core (fun w => { w with mq := match w.mq with
    | _ :: r => c :: r
    | [] => [] })

def matrixHead (s : State) (core : Nat) : Option MatCmd := (s.wgAt core).mq.head?

/-- A command starts: its tag, and zeros under Z (17 R272). -/
def startMatrix (core : Nat) (c : MatCmd) (s : State) : State :=
  let s := setMatrixHead core { c with state := .running } s
  let s := if c.kind = .accst then s else s.updWg core (fun w => w.setTag c.acc c.tag)
  if c.z then (s.setTile core c.acc (fun _ => 0)).cleanTile core c.acc else s

/-- An ACCRD or an ACCWR that was issued before a queued command has not acted yet: the command does not start (17 R259, R276; log 45). -/
def elemsFirst (s : State) (core : Nat) (c : MatCmd) : Bool :=
  (s.wgAt core).gangs.any (fun e => e.2.splits.any (fun sp => match sp.wait with
    | .accElems _ _ _ n => decide ((c.serial + 2 ^ 16 - n) % 2 ^ 16 < 2 ^ 15)
    | _ => false))

/-- The MMAC with the same number stands at the head of every engine of the node (17 R273). -/
def mmacReady (s : State) (core : Nat) (c : MatCmd) : Bool :=
  (s.members core).length == 4 &&
  (s.members core).all (fun m => match matrixHead s m with
    | some d => d.kind == .mmac && d.mmacNo == c.mmacNo && d.state == .queued && !elemsFirst s m d
    | none => false)

/-- MATRIX_COMMAND_START, unless a pre-emption is due (21 R331); the four MMACs of a node start together. -/
def execMatrixCommandStart (core : Nat) (s : State) : Res :=
  match matrixHead s core with
  | none => .next s
  | some c =>
    if c.state ≠ .queued ∨ (s.wgAt core).preempt ∨ elemsFirst s core c then .next s
    else if c.kind = .mmac then
      if mmacReady s core c then
        .next ((s.members core).foldl (fun s m => match matrixHead s m with
          | some d => startMatrix m d s
          | none => s) s)
      else .next s
    else .next (startMatrix core c s)

/-- Elements of a tile that an accumulator map covers. -/
def covered (m : BitVec 256) : List (Nat × Nat) :=
  (List.range (min 128 (mpRows m))).flatMap (fun i => (List.range (min 128 (mpCols m))).map (fun j => (i, j)))

/-- Faults of an ACCLD or an ACCST, one unit (17 R275); a page whose differs bits cannot be corrected is not written, and is an INTEGRITY (15 R246, log 82). -/
def tileFaults (s : State) (core : Nat) (c : MatCmd) : List CmdFault :=
  let rs := (covered c.mapA).map (fun e => (tAddr c.mapA e.1 e.2, fmtSize (mpFmt c.mapA)))
  match c.kind with
  | .accld => readFaults s core rs
  | .accst => rs.flatMap (fun r => engineFaults s core .store r.1 r.2) ++
      accErrors s core ((covered c.mapA).map (fun e => tileKey c.acc e.1 e.2)) ++
      (rs.flatMap (fun r => (bytesOf r.1 r.2).filter (fun a => s.badPage (placeOf s core a)))).map (fun a => ⟨a, .integrity, false⟩)
  | _ => []

/-- Every fault of the running command: one list for each panel that stops. A panel that waits at a shared fetch reports none beyond it (17 R273). -/
def matrixFaults (s : State) (core : Nat) (c : MatCmd) : List CmdFault :=
  if c.isProduct then
    let v := MEnv.of s core c
    (List.range 16).flatMap (fun p => match v.firstStop s p with
      | some k => v.faultsAt s p k
      | none => [])
  else tileFaults s core c

/-- Bytes beyond device memory that the running command would read or write. -/
def matrixBeyond (s : State) (core : Nat) (c : MatCmd) : Option Nat :=
  if c.isProduct then
    let v := MEnv.of s core c
    (List.range 16).findSome? (fun p =>
      let (lo, hi) := v.span s p
      (List.range (hi - lo)).findSome? (fun d => beyondIn s core (v.fetches s p (lo + d))))
  else beyondIn s core ((covered c.mapA).map (fun e => (tAddr c.mapA e.1 e.2, fmtSize (mpFmt c.mapA))))

/-- Energy of a panel step, in tenths of a pJ (25 R386). -/
def stepEnergy (fmt : Nat) : Nat := if fmt = 0 then 500 else if fmt < 3 then 2000 else 1000

/-- Work of every panel over its span: the tile's new elements, the flags, the steps taken. -/
def advancePanels (core : Nat) (c : MatCmd) (s : State) : State × Nat :=
  let v := MEnv.of s core c
  let spans := (List.range 16).map (v.span s)
  let span := fun p => (spans[p]?).getD (0, 0)
  let el := fun n =>
    let i := n / 128
    let j := n % 128
    let acc := (s.tileAt core c.acc i j).toNat
    if (v.rows (i / 8)).contains i && v.cols.contains j then v.element s i j (span (i / 8)).1 (span (i / 8)).2 acc else (acc, 0)
  let flags := (List.range 16384).foldl (fun f n => f ||| (el n).2) 0
  let steps := ((List.range 16).map (fun p =>
    let stop := match v.firstStop s p with
      | some k => k
      | none => (span p).2
    (List.range (stop - (span p).1)).countP (fun d => v.steps s p ((span p).1 + d)))).sum
  let s := s.setTile core c.acc (fun n => BitVec.ofNat 32 (el n).1)
  let dom := (s.gangAt core c.gang).acctd
  ((s.charge dom 1 steps).spend dom (steps * stepEnergy (mpFmt c.mapA)), flags)

/-- A command once every panel of it has stopped or finished, with the flags of what the panels did: a product stands at its progress vector, each panel at the unit of its fault (17 R269) or of a shared fetch of another rank (17 R273). -/
def MatCmd.halted (s : State) (core flags : Nat) (c : MatCmd) : MatCmd :=
  let v := MEnv.of s core c
  let c' := { c with flags := c.flags ||| BitVec.ofNat 32 flags }
  if c.isProduct then
    { c' with counters := SMap.ofFn 0 16 (fun p => match v.firstStop s p with
                | some k => v.unitStart k - c.k0
                | none => 0),
              done := (List.range 16).foldl (fun m p => if (v.firstStop s p).isNone then m ||| BitVec.ofNat 16 (2 ^ p) else m) 0 }
  else c'

/-- The command after its panels have stopped at their faults. -/
def stoppedAtFaults (s : State) (core : Nat) (c : MatCmd) (flags : Nat) (fs : List CmdFault) : MatCmd :=
  { c.halted s core flags with state := .faulted, services := c.services + 1, faults := fs, since := s.time }

/-- MATRIX_FETCH_FAULT: the running head command meets faults; the panels that meet none finish, the others stop at their unit. -/
def execMatrixFetchFault (core : Nat) (s : State) : Res :=
  match matrixHead s core with
  | none => .next s
  | some c =>
    if c.state ≠ .running then .next s
    else
      match matrixFaults s core c with
      | [] => .next s
      | fs =>
        let (s', flags) := if c.isProduct then advancePanels core c s else (s, 0)
        .next (setMatrixHead core (stoppedAtFaults s core c flags fs) s').draw

/-- A converted element of ACCST with its flags (17 R275). -/
def storeElem (t : Tag) (fmt : Nat) (x : Nat) : Flagged :=
  match t, fmt with
  | .f32, 1 => convElem .rne false false (.float fF32) (.float fF16) x
  | .f32, 2 => convElem .rne false false (.float fF32) (.float fBF16) x
  | .s32, 3 => let r := satInt 8 true (intOf 32 true x); (wrapInt 8 r.1, r.2)
  | .s32, 4 => let r := satInt 8 false (intOf 32 true x); (wrapInt 8 r.1, r.2)
  | _, _ => (x, 0)

/-- The writes of an ACCST. -/
def storeWrites (s : State) (core : Nat) (c : MatCmd) : List (Place × Byte × Bool) :=
  (covered c.mapA).flatMap (fun e =>
    let n := fmtSize (mpFmt c.mapA)
    let x := (storeElem c.tag (mpFmt c.mapA) (s.tileAt core c.acc e.1 e.2).toNat).1
    (placed (placesOf s core (tAddr c.mapA e.1 e.2) n) x).map (fun w => (w.1, w.2, false)))

/-- The addresses of those writes. -/
def storeDests (c : MatCmd) : List W64 := (covered c.mapA).flatMap (fun e => bytesOf (tAddr c.mapA e.1 e.2) (fmtSize (mpFmt c.mapA)))

/-- Flags of an ACCST. -/
def storeFlags (s : State) (core : Nat) (c : MatCmd) : Nat :=
  (covered c.mapA).foldl (fun f e => f ||| (storeElem c.tag (mpFmt c.mapA) (s.tileAt core c.acc e.1 e.2).toNat).2) 0

/-- The tile that an ACCLD loads. -/
def loadTile (core : Nat) (c : MatCmd) (s : State) : State :=
  let m := c.mapA
  (s.setTile core c.acc (fun n =>
    if n / 128 < mpRows m ∧ n % 128 < mpCols m then BitVec.ofNat 32 (s.engineNum core c.know (tAddr m (n / 128) (n % 128)) 4) else 0)).cleanTile core c.acc

/-- Some panel of a product still stops: at a fault, or at a shared fetch of another rank. -/
def matrixWaits (s : State) (core : Nat) (c : MatCmd) : Bool :=
  c.isProduct && (List.range 16).any (fun p => ((MEnv.of s core c).firstStop s p).isSome)

/-- A running product that meets no fault of its own and waits for another rank: a save finds it at its progress vector, after all that its panels can do (17 R270, R273, 21 R331). -/
def matrixPaused (s : State) (core : Nat) : Bool :=
  (matrixHead s core).elim false (fun c => c.state == .running && (matrixFaults s core c).isEmpty && matrixWaits s core c)

def pauseMatrix (core : Nat) (s : State) : State :=
  match matrixHead s core with
  | none => s
  | some c =>
    if matrixPaused s core then
      let (s', flags) := advancePanels core c s
      (setMatrixHead core (c.halted s core flags) s').draw
    else s

/-- The head command leaves the queue: FLAGS, c2 and its last-arriver record, the error of a declined write, the progress record, counter 2 of its domain (03 R81, 17 R272, 19 R303, 23 R372). -/
def retireMatrix (core : Nat) (c : MatCmd) (s : State) : State :=
  let a : LastArr := ⟨BitVec.ofNat 64 (engineAgent core c.gang 3 c.serial), s.clockAt core, c.blame, c.top⟩
  let s := s.updWg core (fun w => { w with mq := w.mq.drop 1 })
  let later := (s.wgAt core).mq.any (fun d => d.gang == c.gang && d.isProduct)
  let s := if c.isProduct then s.charge (s.gangAt core c.gang).acctd 2 (16 * c.k) else s
  gangRetire core c.gang 2 ⟨a, c.err, c.low, [commandRelease s core 2 [c.gang] c.know c.gang 0], c.gang⟩ (s.updGang core c.gang (fun g =>
    let g := g.orFlags c.flags.toNat
    if c.isProduct && !later then
      { g with mrec := { c.queuedRec with state := 4, services := c.services, done := 0xFFFF, counters := [] } }
    else g))

/-- MATRIX_COMMAND_RETIRE: the running head command meets no fault and ends; an ACCST that finds no backing waits (15 R249). -/
def execMatrixCommandRetire (core : Nat) (s : State) : Res :=
  match matrixHead s core with
  | none => .next s
  | some c =>
    if c.state ≠ .running then .next s
    else if matrixFaults s core c ≠ [] ∨ matrixWaits s core c then .next s
    else
      match matrixBeyond s core c with
      | some pa => .fault (.physicalAddress pa)
      | none =>
        match c.kind with
        | .accz => .next (retireMatrix core c ((s.setTile core c.acc (fun _ => 0)).cleanTile core c.acc))
        | .accld => .next (retireMatrix core c (loadTile core c s)).draw
        | .accst =>
          let ws := storeWrites s core c
          let c' := { c with flags := c.flags ||| BitVec.ofNat 32 (storeFlags s core c) }
          match lacking s ws with
          | [] => .next (retireMatrix core c' (performUnit core 2 c.gang ws s)).draw
          | ps => .next (setMatrixHead core { c with state := .backing, lacks := ps, lackAt := lackAddr s ps (storeDests c) ws, since := s.time } s)
        | _ =>
          let (s', flags) := advancePanels core c s
          .next (retireMatrix core { c with flags := c.flags ||| BitVec.ofNat 32 flags } s').draw

end Sys2Proof.Machine
end

