-- ==== Sys2Proof/Machine/Control.lean ====
section
/-! DEFINITION. Control transfers (07 R127 to R134), SKIP (07 R130, 01 R44), YIELD (07 R136) and the region stack (07 R142). -/

namespace Sys2Proof.Machine

/-- The lanes of E in which p[P] XOR Q holds (05 R91). -/
def condLanes (cx : Ctx) (p : BitVec 3) (q : BitVec 1) : W32 :=
  cx.en &&& (if q = 1 then ~~~(cx.g.preg p.toNat) else cx.g.preg p.toNat)

/-- Whether slice `j` of the split takes a predicated transfer (01 R18). -/
def takes (cx : Ctx) (p : BitVec 3) (q : BitVec 1) (j : Nat) : Bool := condLanes cx p q &&& sliceMask j != 0

/-- Whether some slice takes it. -/
def someTakes (cx : Ctx) (p : BitVec 3) (q : BitVec 1) : Bool := condLanes cx p q != 0

/-- A target within the plane, else ILLEGAL_OPERAND (05 R91). -/
def target (cx : Ctx) (t : Int) : Except Stop Nat :=
  if 0 ≤ t ∧ t < cx.wg.kernel.length then .ok t.toNat else .error (illegalOperand cx)

/-- The offset `off` words from the control word. -/
def relative {n : Nat} (cx : Ctx) (off : BitVec n) : Int := (cx.sp.pc : Int) + off.toInt

/-- Lanes of the slices that take the transfer. -/
def takenLanes (cx : Ctx) (p : BitVec 3) (q : BitVec 1) : W32 :=
  cx.en &&& lanesOfSlices ((slicesOf cx.sp.slices).filter (takes cx p q))

/-- The slices that take the transfer go to `t`, the others to the next offset; `ind` is the target of a BR packet of an indirect transfer. -/
def branchTo (cx : Ctx) (p : BitVec 3) (q : BitVec 1) (t : Nat) (ind : Option Nat) (s : State) : State :=
  transfer cx (fun j => if takes cx p q j then t else cx.sp.pc + 1) (cx.emitBr (takenLanes cx p q) ind s)

/-- NOP. -/
def execNop (s : State) : Res := issue s (fun cx => .ok (retire cx s))

/-- BRA (07 R128). -/
def execBra (p : BitVec 3) (q : BitVec 1) (f : BitVec 20) (s : State) : Res :=
  issue s (fun cx => do
    let t ← target cx (relative cx f)
    pure (branchTo cx p q t none s))

/-- CALL (07 R131): s63 is written when at least one slice takes the transfer. -/
def execCall (p : BitVec 3) (q : BitVec 1) (f : BitVec 20) (s : State) : Res :=
  issue s (fun cx => do
    let t ← target cx (relative cx f)
    let g := if someTakes cx p q then cx.g.setS 63 (BitVec.ofNat 64 ((cx.sp.pc + 1) % 2 ^ 20)) else cx.g
    pure (branchTo cx p q t none (s.setGang cx.core cx.gang g)))

/-- RET (07 R132): the target is checked only when a slice takes it (07 R126). -/
def execRet (p : BitVec 3) (q : BitVec 1) (l : BitVec 6) (s : State) : Res :=
  issue s (fun cx => do
    let t := (cx.g.sreg l.toNat).toNat
    need (!someTakes cx p q || decide (t < cx.wg.kernel.length)) (illegalOperand cx)
    pure (branchTo cx p q t (some t) s))

/-- JMPI (07 R133), in signed 64-bit arithmetic. -/
def execJmpi (p : BitVec 3) (q : BitVec 1) (b : BitVec 14) (n : BitVec 6) (s : State) : Res :=
  issue s (fun cx => do
    let t : Int := (BitVec.ofInt 64 (relative cx b) + cx.g.sreg n.toNat).toInt
    need (!someTakes cx p q || decide (0 ≤ t ∧ t < cx.wg.kernel.length)) (illegalOperand cx)
    pure (branchTo cx p q t.toNat (some t.toNat) s))

/-- LOOP (07 R134). -/
def execLoop (p : BitVec 3) (q : BitVec 1) (c : BitVec 6) (f : BitVec 14) (s : State) : Res :=
  issue s (fun cx => do
    need (c != 0) (illegalOperand cx)
    let t ← target cx (relative cx f)
    let n := cx.g.sreg c.toNat - 1
    let s := s.setGang cx.core cx.gang (cx.g.setS c.toNat n)
    pure (if n = 0 then transfer cx (fun _ => cx.sp.pc + 1) (cx.emitBr 0 none s) else branchTo cx p q t none s))

/-! ### BRC (01 R41 to R43, 07 R129) -/

/-- The lanes of slice `j` of the split for which the condition holds, and the others. -/
def brcTaken (cx : Ctx) (p : BitVec 3) (q : BitVec 1) (j : Nat) : W32 := condLanes cx p q &&& sliceMask j

def brcOther (cx : Ctx) (p : BitVec 3) (q : BitVec 1) (j : Nat) : W32 :=
  cx.en &&& sliceMask j &&& ~~~(condLanes cx p q)

/-- Whether slice `j` divides. -/
def divides (cx : Ctx) (p : BitVec 3) (q : BitVec 1) (j : Nat) : Bool :=
  brcTaken cx p q j != 0 && brcOther cx p q j != 0

/-- The sibling of a path: the other split of its slice. -/
def sibling (g : Gang) (sp : Split) : Option Nat :=
  match sp.path with
  | none => none
  | some n => (List.range g.splits.length).find? (fun i => match g.splits[i]? with
    | some x => x.slices == sp.slices && x.path.isSome && x.path != some n
    | none => false)

/-- The two paths of a slice that divides: path 0 at the target, path 1 at the next offset (01 R42). -/
def brcPaths (cx : Ctx) (p : BitVec 3) (q : BitVec 1) (t clock : Nat) (j : Nat) : List Split :=
  let base := { cx.sp with lastIssue := cx.sp.stamped cx.g cx.plane clock }
  [{ base.sent (sliceSet [j]) (brcTaken cx p q j) t with path := some 0 },
   { base.sent (sliceSet [j]) (brcOther cx p q j) (cx.sp.pc + 1) with path := some 1 }]

/-- The stacks after a BRC: each slice that divides takes an entry, in which the sibling of a path that divides is parked (01 R43). -/
def brcStacks (cx : Ctx) (p : BitVec 3) (q : BitVec 1) (join : Nat) (js : List Nat) : SMap (List DPEntry) :=
  js.foldl (fun m j =>
    let e : DPEntry := { join := join, t := brcTaken cx p q j, f := brcOther cx p q j, outer := cx.sp.path,
                         parked := (sibling cx.g cx.sp).bind (fun i => cx.g.splits[i]?) }
    SMap.set [] m j (e :: SMap.get [] m j)) cx.g.dp

/-- BRC. -/
def execBrc (p : BitVec 3) (q : BitVec 1) (f : BitVec 20) (s : State) : Res :=
  issue s (fun cx => do
    let join ← match cx.pfx.bind (fun x => x.join) with
      | some j => pure j
      | none => .error (illegalInstruction cx)
    let t ← target cx (relative cx f)
    need (decide (1 ≤ join.toInt)) (illegalOperand cx)
    let jn ← target cx (relative cx join)
    let js := slicesOf cx.sp.slices
    let div := js.filter (divides cx p q)
    need (div.all (fun j => decide ((SMap.get [] cx.g.dp j).length < 16))) (raise .divergeDepth)
    let clock := (s.clockAt cx.core).toNat
    let s := cx.emitBr (condLanes cx p q) none s
    let g := (s.gangAt cx.core cx.gang).issued cx clock
    let go := fun j => if brcOther cx p q j = 0 then t else cx.sp.pc + 1
    let rest := js.filter (fun j => !divides cx p q j)
    let kept := { cx.sp with slices := sliceSet rest, lastIssue := cx.sp.stamped cx.g cx.plane clock }
    let whole := if rest = [] then [] else
      match cx.sp.path with
      | some _ => transferSplits kept go
      | none => transferSplits { kept with lanes := cx.sp.lanes &&& lanesOfSlices rest } go
    let paths := div.flatMap (brcPaths cx p q t clock)
    let g := { g.spliceSplit cx.split (whole ++ paths) with dp := brcStacks cx p q jn div }
    -- a sibling that is parked leaves the candidates
    let g := if div ≠ [] ∧ cx.sp.path.isSome then
        match sibling cx.g cx.sp with
        | some i =>
          let n := whole.length + paths.length
          let i' := if i < cx.split then i else i + n - 1
          { g with splits := g.splits.eraseIdx i' }
        | none => g
      else g
    pure (s.setGang cx.core cx.gang g))

/-! ### SKIP -/

/-- The word of body offset `k` in a plane makes the body illegal: a control word or an anchored word, or a prefix as the last word (01 R44). A word that cannot be fetched takes its trap when it issues, not at the SKIP (DESIGN CHOICE, log 77). -/
def badBodyWord (s : State) (core plane last k : Nat) : Bool :=
  match s.peek core k plane with
  | none => false
  | some w =>
    let op := opcodeOf w
    (1 ≤ op && op ≤ 0x0A) || anchoredOp op || (prefixOp op && (k == last || s.anchoredAt core plane k))

/-- SKIP. -/
def execSkip (p : BitVec 3) (q : BitVec 1) (n : BitVec 3) (s : State) : Res :=
  issue s (fun cx => do
    need (n != 0) (illegalOperand cx)
    let k := cx.sp.pc
    let last := k + n.toNat
    need (decide (last < cx.wg.kernel.length)) (illegalOperand cx)
    let body := (List.range n.toNat).map (fun i => k + 1 + i)
    need (!(cx.g.occupied cx.sp.lanes).any (fun pl => body.any (badBodyWord s cx.core pl last))) (raise .skipBody)
    let d := condLanes cx p q
    let s := cx.emit 1 4 0 (leBytes 1 (8 * n.toNat) ++ leBytes 4 (cx.en &&& ~~~d).toNat) s
    let clock := (s.clockAt cx.core).toNat
    let g := (s.gangAt cx.core cx.gang).issued cx clock
    let sp := { cx.sp.spent cx clock with skip := ⟨k + 1, last, d⟩ :: cx.sp.skip }
    let sp := if cx.en &&& ~~~d = 0 then sp.at (last + 1) else sp.at (k + 1)
    pure (s.setGang cx.core cx.gang (g.setSplit cx.split sp)))

/-! ### YIELD, RENT, RLEV -/

/-- YIELD: no split of the gang issues in the following clock. -/
def execYield (s : State) : Res :=
  issue s (fun cx => .ok (retire cx (s.updGang cx.core cx.gang (fun g =>
    { g with yieldAt := some (s.clockAt cx.core).toNat }))))

/-- The debugger has armed a region id for the workgroup's launch (23 R348). -/
def armedId (s : State) (cx : Ctx) (i : BitVec 16) : Bool :=
  match SMap.get none s.launches cx.wg.launch with
  | some l => i != 0 && l.hold.isSome && l.armed.contains i
  | none => false

/-- BREAKPOINT of an armed region edge, TAP in TRAPA: the id, 1 in bit 16 for a leave, 1 in bit 17 (23 R348). -/
def armedTrap (i : BitVec 16) (leave : Bool) : Stop :=
  .trap ⟨.breakpoint, BitVec.ofNat 64 (i.toNat + (if leave then 2 ^ 16 else 0) + 2 ^ 17), none, 0, [], false⟩

/-- Change the region stack; the REG packet shows it as it then stands (23 R354). -/
def putRegions (cx : Ctx) (leave : Nat) (i : BitVec 16) (rs : List (BitVec 16)) (s : State) : State :=
  let g' := { cx.g with regions := rs }
  let s := cx.emit 3 6 leave (leBytes 2 i.toNat ++ leBytes 1 rs.length ++ g'.top3) s
  retire cx (s.updGang cx.core cx.gang (fun g => { g with regions := rs }))

/-- RENT (07 R142, 23 R348). Of an armed id at depth 16 the spec does not say which trap is taken: BREAKPOINT comes first (DESIGN CHOICE, log 116). -/
def execRent (i : BitVec 16) (s : State) : Res :=
  issue s (fun cx => do
    need (i != 0) (illegalOperand cx)
    need (!armedId s cx i) (armedTrap i false)
    need (decide (cx.g.regions.length < 16)) (raise .regionStack)
    pure (putRegions cx 0 i (i :: cx.g.regions) s))

/-- RLEV (07 R142, 23 R348). Of an armed id that is not on top the spec does not say which trap is taken: BREAKPOINT comes first (DESIGN CHOICE, log 116). -/
def execRlev (i : BitVec 16) (s : State) : Res :=
  issue s (fun cx => do
    need (!armedId s cx i) (armedTrap i true)
    match cx.g.regions with
    | top :: rest => if top = i then pure (putRegions cx 1 i rest s) else throw (raise .regionStack)
    | [] => throw (raise .regionStack))

end Sys2Proof.Machine
end

