-- ==== Sys2Proof/Machine/Planes.lean ====
section
/-! DEFINITION. Plane instructions (07 R138, R139). -/

namespace Sys2Proof.Machine

/-- Source A of a plane instruction (07 R138) in a lane: an integer read whatever the tag. PLSW of a vector register checks the parity of every lane of E, not only of those whose predicate is set: 11 R216 speaks of the register alone (DESIGN CHOICE, log 100). -/
def planeSource (cx : Ctx) (vec : Bool) (a : BitVec 8) : Except Stop (Nat → Nat) :=
  let n := a.toNat
  if n < 0x80 then
    if vec then do
      regBlock cx n
      parity cx n
      pure (fun l => (cx.g.cell n l).bits.toNat)
    else .error (illegalOperand cx)
  else if n < 0x84 then .error (illegalOperand cx)
  else if n < 0x87 then
    if vec then pure (fun l => if n = 0x84 then l else if n = 0x85 then l / 4 else cx.g.planeOf l)
    else .error (illegalOperand cx)
  else if n < 0x90 then .error (illegalOperand cx)
  else if n < 0xC0 then pure (fun _ => n - 0x90)
  else pure (fun _ => (cx.g.sreg (n - 0xC0)).toNat % 2 ^ 32)

/-- Change a gang's planes and emit the PLANE packet, after the SYNC that is due as the gang stood (23 R356, R357). -/
def Ctx.emitPlanes (cx : Ctx) (g' : Gang) (s : State) : State :=
  let s := cx.emit 2 5 0 (g'.planesField (4 * cx.wg.kernel.slices)) s
  s.updGang cx.core cx.gang (fun g => { g with plane := g'.plane, x := g'.x })

/-- Set the planes of several lanes; a lane whose plane changes loses its latches in every plane (07 R139). -/
def setPlanes (cx : Ctx) (ls : List Nat) (v : Nat → Nat) (s : State) : State :=
  let g := s.gangAt cx.core cx.gang
  let g' := { g with plane := ls.foldl (fun m l => SMap.set 0 m l (BitVec.ofNat 2 (v l))) g.plane,
                     x := dropLatches g.x (maskOf ls) none }
  retire cx (cx.emitPlanes g' s)

/-- PLSW: lanes in which p[P] holds take A as their plane; every lane is checked first (07 R139). -/
def execPlsw (p : BitVec 3) (a : BitVec 8) (s : State) : Res :=
  issue s (fun cx => do
    let v ← planeSource cx true a
    let ls := lanesOf (cx.en &&& cx.g.preg p.toNat)
    need (ls.all (fun l => decide (v l < cx.wg.kernel.planes))) (illegalOperand cx)
    pure (setPlanes cx ls v s))

/-- PLSET: every lane takes A as its plane. -/
def execPlset (a : BitVec 8) (s : State) : Res :=
  issue s (fun cx => do
    let v ← planeSource cx false a
    need (cx.ls.all (fun l => decide (v l < cx.wg.kernel.planes))) (illegalOperand cx)
    pure (setPlanes cx cx.ls v s))

/-- PLMSK: the lanes in plane A; a value at or above count writes 0. -/
def execPlmsk (d : BitVec 3) (a : BitVec 8) (s : State) : Res :=
  issue s (fun cx => do
    let v ← planeSource cx false a
    pure (putPred cx d.toNat (maskOf (cx.ls.filter (fun l => cx.g.planeOf l == v l))) s))

/-- The occupancy mask of the split (01 R32). -/
def occupancy (cx : Ctx) : W64 :=
  (cx.g.occupied cx.sp.lanes).foldl (fun m n => m ||| BitVec.ofNat 64 (2 ^ n)) 0

/-- PLOCC. -/
def execPlocc (d : BitVec 6) (s : State) : Res :=
  issue s (fun cx => .ok (putScalar cx d.toNat (occupancy cx) s))

end Sys2Proof.Machine
end

