-- ==== Sys2Proof/Machine/Gang.lean ====
section
/-! DEFINITION. EXIT and REGANG (07 R135, R137, 01 R19), extended register blocks (01 R26 to R29), the pop of a dual-path entry (01 R43), and the ends of a gang's own waits. -/

namespace Sys2Proof.Machine

/-! ### REGANG (01 R19, 07 R137) -/

/-- Slices of a mask that have a live lane. -/
def liveSlices (w : Workgroup) (g : Gang) (m : BitVec 8) : List Nat :=
  (slicesOf m).filter (fun j => w.kernel.lanes &&& ~~~g.exited &&& sliceMask j != 0)

/-- Splits that wait at a REGANG: index, split, mask. One that is stopped while another split runs the handler is left out until TRET: 07 R137 does not say whether it counts for a REGANG issued inside the handler (DESIGN CHOICE, log 97). -/
def Gang.regangers (g : Gang) : List (Nat × Split × BitVec 8) :=
  (g.splits.zipIdx).filterMap (fun x => match x.1.wait with
    | .regang m => if x.1.stopped then none else some (x.2, x.1, m)
    | _ => none)

/-- The lowest slice of a split. -/
def Split.low (sp : Split) : Nat := (slicesOf sp.slices).headD 0

/-- The waiting splits that hold the live slices named by the first mask whose live slices all wait. -/
def regangSet (w : Workgroup) (g : Gang) : Option (List (Nat × Split × BitVec 8)) :=
  let ws := g.regangers
  let waits := fun j => ws.any (fun x => x.2.1.slices.getLsbD j)
  match firstBy (fun a b => decide (a.2.1.low < b.2.1.low)) (ws.filter (fun x => (liveSlices w g x.2.2).all waits)) with
  | none => none
  | some x => some (ws.filter (fun y => (liveSlices w g x.2.2).any (fun j => y.2.1.slices.getLsbD j)))

/-- The longer, or later, of two counts in each plane. -/
def maxPlanes (a b : SMap Nat) : SMap Nat := SMap.ofFn 0 4 (fun n => max (SMap.get 0 a n) (SMap.get 0 b n))

/-- Join splits into one group at an offset; it takes the place of the first of them. -/
def Gang.joinSplits (g : Gang) (ms : List (Nat × Split × BitVec 8)) (merged : Split) : Gang :=
  let at_ := (ms.map (fun x => x.1)).foldl min g.splits.length
  { g with splits := ((g.splits.zipIdx).flatMap (fun x =>
      if x.2 = at_ then [merged] else if ms.any (fun m => m.1 == x.2) then [] else [x.1])) }

/-- Emit a MASK packet for a split: why, the tag of the word that caused it, and the lanes (23 R354, R355, 05 R102). -/
def maskPacket (core gang why : Nat) (tag : Option (BitVec 16)) (sp : Split) (s : State) : State :=
  let src := srcOf core gang sp
  emitPacket core gang 1 4 0 src tag (leBytes 2 src ++ leBytes 1 why ++ leBytes 4 sp.lanes.toNat) s

/-- The word of a REGANG, for TRAPA (21 R335). -/
def regangWord (m : BitVec 8) : W64 := BitVec.ofNat 64 (0x09000000 + m.toNat)

/-- Complete the REGANGs that have nothing left to wait for. -/
def regangCheck (core gang : Nat) : Nat → State → State
  | 0, s => s
  | fuel + 1, s =>
    let g := s.gangAt core gang
    match regangSet (s.wgAt core) g with
    | none => s
    | some [] => s
    | some ((i, sp, m) :: rest) =>
      let ms := (i, sp, m) :: rest
      if rest.all (fun x => x.2.1.pc == sp.pc && x.2.2 == m) then
        let merged := { sp.sent (ms.foldl (fun a x => a ||| x.2.1.slices) 0) (ms.foldl (fun a x => a ||| x.2.1.lanes) 0) (sp.pc + 1) with
                        lastIssue := (ms.map (fun x => x.2.1.lastIssue)).foldl maxPlanes [] }
        let s := maskPacket core gang 3 (ms.findSome? (fun x => x.2.1.waitTag)) merged s
        regangCheck core gang fuel (s.updGang core gang (fun g => g.joinSplits ms merged))
      else
        match firstBy (fun a b => decide (a.2.1.low < b.2.1.low)) ms with
        | none => s
        | some x => regangCheck core gang fuel (deliverAt core gang x.1 .illegalOperand (regangWord x.2.2) s)

/-- REGANG. -/
def execRegang (m : BitVec 8) (s : State) : Res :=
  issue s (fun cx => do
    let js := slicesOf cx.sp.slices
    need (decide (m.toNat < 2 ^ cx.wg.kernel.slices)) (illegalOperand cx)
    need (js.all (fun j => m.getLsbD j)) (illegalOperand cx)
    need (js.all (fun j => (SMap.get [] cx.g.dp j).isEmpty)) (illegalOperand cx)
    pure (regangCheck cx.core cx.gang 9 (waitAt cx (.regang m) s)))

/-! ### EXIT (07 R135) -/

/-- The gang after lanes exited: a slice with no live lane has no split and no dual-path stack; a gang with none discards its regions, stacks and latches. -/
def Gang.afterExit (g : Gang) (lanes : W32) : Gang :=
  let live := lanes &&& ~~~g.exited
  if live = 0 then { g with splits := [], dp := [], regions := [], x := [] }
  else
    let gone := fun j => live &&& sliceMask j == 0
    { g with dp := g.dp.filter (fun e => !gone e.1),
             splits := g.splits.filterMap (fun sp =>
               let js := (slicesOf sp.slices).filter (fun j => !gone j)
               if js = [] then none else some { sp with slices := sliceSet js }) }

/-- EXIT would leave the gang with no live lane, in cluster mode, without the CBAR it needs. -/
def clusterExit (cx : Ctx) (x : W32) : Bool :=
  (cx.wg.kernel.lanes &&& ~~~(cx.g.exited ||| x)) == 0 && cx.wg.cluster && (!cx.wg.clBarred || cx.wg.clAccessed)

/-- EXIT. Where it ends every lane of the split that runs the handler, the splits that the trap stopped stay stopped, since 21 R338 gives TRET alone as the way out (DESIGN CHOICE, log 97). -/
def execExit (p : BitVec 3) (q : BitVec 1) (s : State) : Res :=
  issue s (fun cx => do
    let x := condLanes cx p q
    need (!clusterExit cx x) (raise .clusterExit)
    let clock := (s.clockAt cx.core).toNat
    let s := cx.emitMask 1 (cx.sp.lanes &&& ~~~x) s
    let g := (s.gangAt cx.core cx.gang).issued cx clock
    let sp := { (cx.sp.spent cx clock).at (cx.sp.pc + 1) with lanes := cx.sp.lanes &&& ~~~x }
    let g := ({ g.setSplit cx.split sp with exited := g.exited ||| x }).afterExit cx.wg.kernel.lanes
    pure (cbarCheck cx.core (formCheck cx.core (regangCheck cx.core cx.gang 9 (s.setGang cx.core cx.gang g)))))

/-! ### Extended blocks (01 R26 to R29, 07 R140, R141) -/

/-- Keep the registers of a block that a gang gives up as they stand (11 R185, log 11). -/
def parkBlock (core gang b : Nat) (s : State) : State :=
  let g := s.gangAt core gang
  let k := s.coreAt core
  let lo := if b < 4 then 0 else 64
  let idle := fillRange VCell.zero k.idle (2048 * (6 * (gang % 4) + b)) 2048
    (fun n => g.raw (lo + n / 32) (n % 32))
  s.setCore core { k with idle := idle }

/-- A block of quadrant `q` that no gang holds. -/
def Workgroup.freeBlock (w : Workgroup) (q : Nat) : Option Nat :=
  [0, 1].find? (fun b => !(List.range 4).any (fun i => (SMap.get Gang.empty w.gangs (q + 4 * i)).ext == some b))

/-- The gang takes a block: every register of it is INVALID (01 R28). -/
def Gang.granted (g : Gang) (b : Nat) : Gang := { g with ext := some b, v := g.v.filter (fun e => decide (e.1 < 2048)) }

/-- The gang gives its block up. -/
def dropBlock (core gang : Nat) (s : State) : State :=
  match (s.gangAt core gang).ext with
  | none => s
  | some b =>
    let s := parkBlock core gang (4 + b) s
    s.updGang core gang (fun g => { g with ext := none, v := g.v.filter (fun e => decide (e.1 < 2048)) })

/-- Requests of a quadrant. -/
def Core.requests (k : Core) (q : Nat) : List RacqReq := SMap.get [] k.racq q

/-- RACQ. -/
def execRacq (s : State) : Res :=
  issue s (fun cx =>
    let k := s.coreAt cx.core
    let q := cx.gang % 4
    .ok (
      if cx.g.ext.isSome then retire cx s
      else if (k.requests q).any (fun r => r.gang == cx.gang) then waitAt cx .racq s
      else match (if (k.requests q).isEmpty then cx.wg.freeBlock q else none) with
        | some b => retire cx (s.updGang cx.core cx.gang (fun g => g.granted b))
        | none =>
          waitAt cx .racq (s.setCore cx.core { k with racq := SMap.set [] k.racq q (k.requests q ++ [⟨cx.gang, (s.clockAt cx.core).toNat⟩]) })))

/-- A split that waits in RACQ goes on. -/
def Split.granted (g : Gang) (sp : Split) : Split := if sp.wait = .racq then sp.goOn g else sp

/-- A split that waits in RACQ stands at its RACQ again. -/
def Split.ungranted (sp : Split) : Split := if sp.wait = .racq then { sp with pc := sp.waitFirst, wait := .none, nextPlane := 0 } else sp

/-- The splits of a gang that wait in RACQ go on, a parked path among them. -/
def Gang.wakeRacq (g : Gang) : Gang := g.mapSplits (Split.granted g)

/-- RACQ_GRANT: a free block goes to the head of the quadrant's queue (01 R27); not while the workgroup is being pre-empted, whose waits stand (21 R331). -/
def execRacqGrant (core quad : Nat) (s : State) : Res :=
  let k := s.coreAt core
  .next (match k.requests quad, (if (s.wgAt core).preempt then none else (s.wgAt core).freeBlock quad) with
    | r :: rest, some b =>
      let s := s.setCore core { k with racq := SMap.set [] k.racq quad rest }
      s.updGang core r.gang (fun g => (g.granted b).wakeRacq)
    | _, _ => s)

/-- REG_STARVATION (01 R29): the request leaves the queue; the split that 01 R45 chooses takes the trap, the others stand at their RACQ again, a parked path among them. While the gang is stopped or served, or only a parked path waits, the trap waits. -/
def execRegStarvation (core gang : Nat) (s : State) : Res :=
  let k := s.coreAt core
  let q := gang % 4
  let g := s.gangAt core gang
  let waiting := (g.splits.zipIdx).filter (fun x => x.1.wait == .racq)
  .next (match (k.requests q).find? (fun r => r.gang == gang) with
    | none => s
    | some r =>
      if (s.clockAt core).toNat ≤ r.since + Config.starvationClocks || (s.wgAt core).preempt || waiting.any (fun x => !g.canRelease x.1) then s
      else
        match firstBy (fun a b => decide (a.1.trapRank < b.1.trapRank)) waiting with
        | none => s
        | some (_, i) =>
          let s := s.setCore core { k with racq := SMap.set [] k.racq q ((k.requests q).filter (fun r => r.gang != gang)) }
          let s := deliverAt core gang i .regStarvation 0 s
          s.updGang core gang (Gang.mapSplits Split.ungranted))

/-- Wait of a split of a gang. -/
def Gang.waitOf (g : Gang) (i : Nat) : Wait := (g.splits[i]?).elim .none (fun sp => sp.wait)

/-- The split may go on now. -/
def Gang.mayWake (g : Gang) (i : Nat) : Bool := (g.splits[i]?).elim false g.canRelease

/-! ### Ends of waits, loads, joins -/

/-- IFENCE_DISCARD: the stores and atomics that an IFENCE waits for are performed (13 R234). -/
def execIfenceDiscard (core gang split : Nat) (s : State) : Res :=
  let g := s.gangAt core gang
  .next (if g.waitOf split = .ifence && g.mayWake split && !g.atomicsOut then
      (discardFetched core s).updGang core gang (fun g => g.release split)
    else s)

/-- LOAD_RETURN: the data of a load or an atomic returns, and the scoreboard releases its registers (13 R219). -/
def execLoadReturn (core gang index : Nat) (s : State) : Res :=
  .next (if index < (s.gangAt core gang).loads.length then
      s.updGang core gang (fun g => { g with loads := g.loads.eraseIdx index })
    else s)

/-- A path of a slice, with its index. -/
def Gang.pathOf (g : Gang) (slice n : Nat) : Option (Split × Nat) :=
  (g.splits.zipIdx).find? (fun x => x.1.slices.getLsbD slice && x.1.path == some n)

/-- DUAL_PATH_POP: both paths of the topmost entry stand at their join; they merge there, and the path parked below may issue again (01 R43). A skip body of either path in which the join lies goes on disabling its lanes, since 01 R44 disables them for n words and neither rule ends the body at a join (DEDUCED, log 112). -/
def execDualPathPop (core gang slice : Nat) (s : State) : Res :=
  let g := s.gangAt core gang
  .next (match SMap.get [] g.dp slice, g.pathOf slice 0, g.pathOf slice 1 with
    | e :: rest, some (a, i), some (b, j) =>
      let free := fun (sp : Split) => sp.atJoin g && (sp.lanes == 0 || (sp.wait == .none && g.canRelease sp))
      if free a && free b && g.service.isNone && g.dbgStop.isNone then
        let m := { a.sent a.slices (a.lanes ||| b.lanes) e.join with
                   path := e.outer, skip := (a.skip ++ b.skip).filter (fun k => decide (k.first ≤ e.join ∧ e.join ≤ k.last)), chain := maxPlanes a.chain b.chain, stall := max a.stall b.stall,
                   lastIssue := maxPlanes a.lastIssue b.lastIssue }
        let s := maskPacket core gang 2 none m s
        s.updGang core gang (fun g => { g with
          dp := SMap.set [] g.dp slice rest,
          splits := (g.splits.zipIdx).flatMap (fun x =>
            if x.2 = min i j then m :: e.parked.toList else if x.2 = max i j then [] else [x.1]) })
      else s
    | _, _, _ => s)

/-- UNASSIGNED_OPCODE: the word, or 0 at the offset that equals the plane length, raises ILLEGAL_INSTRUCTION (05 R85, R104). -/
def execUnassignedOpcode (w : Option W32) (s : State) : Res :=
  issue s (fun _ => .error (.trap ⟨.illegalInstruction, (w.getD 0).zeroExtend 64, none, 0, [], false⟩))

end Sys2Proof.Machine
end

