-- ==== Sys2Proof/Machine/Select.lean ====
section
/-! DEFINITION. Which split issues (21 R329): what a split's next word is (01 R34), whether it may issue, and the order of the candidates. -/

namespace Sys2Proof.Machine

/-! ### Words of an offset (01 R33, R34) -/

/-- How the words of the occupied planes at an offset issue (01 R34). -/
inductive Mode where
  /-- two words differ and one is anchored: PLANE_ALIGN -/
  | align
  /-- once, with all lanes -/
  | once
  /-- once for each occupied plane -/
  | each
  deriving DecidableEq, Repr

/-- The occupied planes whose word can be fetched. -/
def fetched (s : State) (core : Nat) (g : Gang) (sp : Split) : List Nat :=
  (g.occupied sp.lanes).filter (fun n => (s.peek core sp.pc n).isSome)

/-- The lowest occupied plane whose word cannot be fetched, while no plane has issued the offset: that fetch takes its trap before any of them issues (01 R34; log 88). -/
def unfetched (s : State) (core : Nat) (g : Gang) (sp : Split) : Option Nat :=
  if sp.nextPlane = 0 ∧ sp.pc < (s.wgAt core).kernel.length then
    (g.occupied sp.lanes).find? (fun n => !(fetched s core g sp).contains n)
  else none

/-- The issue mode at the split's offset, by the words that can be fetched. -/
def modeAt (s : State) (core : Nat) (g : Gang) (sp : Split) : Mode :=
  let planes := fetched s core g sp
  let ws := planes.map (fun n => s.peek core sp.pc n)
  let anchored := planes.map (fun n => s.anchoredAt core n sp.pc)
  let same := ws.all (fun w => w == ws.headD none)
  if !same && anchored.any id && (unfetched s core g sp).isNone then .align
  else if same && anchored.all id && !planes.isEmpty then .once
  else .each

/-- The plane in which the split issues next: none for an anchored word. A split that a replay leaves no plane of stands at no such offset (`Split.skipReplayed`). -/
def planeAt (s : State) (core : Nat) (g : Gang) (sp : Split) : Option Nat :=
  match modeAt s core g sp with
  | .each => some ((Split.issuePlane g sp).getD ((g.occupied sp.lanes).headD 0))
  | _ => none

/-- The plane whose word an issue fetches: the lowest whose fetch faults before any plane has issued; else that of the issue, which for an anchored word is the lowest occupied one. -/
def fetchPlane (s : State) (core : Nat) (g : Gang) (sp : Split) (plane : Option Nat) : Nat :=
  (unfetched s core g sp).getD (plane.getD ((g.occupied sp.lanes).headD 0))

/-! ### Stops of the debugger (23 R347) -/

/-- The next instruction of the split is RENT or RLEV. -/
def atRegionEdge (s : State) (core : Nat) (g : Gang) (sp : Split) : Bool :=
  (g.occupied sp.lanes).any (fun n => match s.groupInstr core n 9 sp.pc with
    | some (_, w) => opcodeOf w == 0x16 || opcodeOf w == 0x17
    | none => false)

/-- The split stands before the first word of a group whose instruction is RENT or RLEV. -/
def edgeStop (s : State) (core : Nat) (g : Gang) (sp : Split) : Bool :=
  sp.pfx.isEmpty && sp.nextPlane == 0 && !sp.held g && atRegionEdge s core g sp

/-- The split must stop here for the debugger (23 R347): at its next latch-free point, in mode EDGE once some split of the gang stands before a RENT or a RLEV. -/
def stopsHere (s : State) (core : Nat) (g : Gang) (sp : Split) : Bool :=
  match g.stopReq with
  | none => false
  | some edge => edge && edgeStop s core g sp || ((!edge || g.splits.any (edgeStop s core g)) && latchFree s core g sp)

/-! ### The scoreboard (13 R219) -/

/-- Vector registers that a word names in its fields, as ranges: first register and count. A field counts wherever the format has one, which only lengthens a wait. -/
def namedRegs (w : W32) : List (Nat × Nat) :=
  let op := opcodeOf w
  let x := w.toNat
  let src := fun (lo : Nat) => if bitsAt x lo 8 < 0x80 then [(bitsAt x lo 8, 2)] else ([] : List (Nat × Nat))
  if formatA op then [(bitsAt x 16 7, 2)] ++ src 8 ++ src 0
  else if 0xA0 ≤ op && op ≤ 0xAE then [(bitsAt x 17 7, 4), (bitsAt x 4 7, 2)]
  else if op == 0xB1 then [(bitsAt x 4 7, 2)]
  else if 0x80 ≤ op && op ≤ 0x83 then [(bitsAt x 18 6, 4), (bitsAt x 12 6, 4), (bitsAt x 6 6, 4)]
  else if op == 0xC7 || op == 0xC8 then [(bitsAt x 18 6, 2)]
  else if op == 0xE2 then [(bitsAt x 12 6, 1)]
  else []

/-- Scalar registers that a word names in its fields; s0 is never waited for. A field counts wherever the format has one, which only lengthens a wait. -/
def namedScalars (w : W32) : List Nat :=
  let op := opcodeOf w
  let x := w.toNat
  let at_ := fun (los : List Nat) => los.map (fun lo => bitsAt x lo 6)
  let src := fun (lo first last : Nat) => if first ≤ bitsAt x lo 8 ∧ bitsAt x lo 8 ≤ last then [bitsAt x lo 8 - first] else ([] : List Nat)
  (if 0x80 ≤ op && op ≤ 0x83 || 0xB2 ≤ op && op ≤ 0xEA then at_ [18, 12, 6, 0]
   else if op == 0x31 then at_ [18]
   else if 0x20 ≤ op && op ≤ 0x35 then at_ [16] ++ src 8 0 0x3F ++ src 0 0 0x3F
   else if op == 0x05 || op == 0x06 then at_ [0]
   else if op == 0x0A then at_ [14]
   else if op == 0xAA || op == 0xAB then at_ [17, 11]
   else if 0xA0 ≤ op && op ≤ 0xAE || op == 0xB1 then at_ [11]
   else if 0x10 ≤ op && op ≤ 0x7E then at_ [16] ++ src 8 0xC0 0xFF ++ src 0 0xC0 0xFF
   else []).filter (· != 0)

/-- A load holds a split's words back, but for the load of the sibling path of its slice: each path has its own scoreboard (01 R42; log 87). -/
def PendLoad.holds (p : PendLoad) (sp : Split) : Bool :=
  sp.path.isNone || p.lanes &&& sp.lanes != 0 || p.lanes &&& lanesOfSlices (slicesOf sp.slices) == 0

/-- A register of an outstanding load that a word names; EXIT waits for every one (07 R135). -/
def scoreboarded (g : Gang) (sp : Split) (w : W32) : Bool :=
  let ls := g.loads.filter (fun p => p.holds sp)
  if opcodeOf w = 0x07 then !ls.isEmpty
  else
    (namedRegs w).any (fun r => ls.any (fun p => !p.scalar && decide (p.reg < r.1 + r.2 ∧ r.1 < p.reg + p.n))) ||
    (namedScalars w).any (fun r => ls.any (fun p => p.scalar && p.reg == r))

/-- An engine's queue is full: the word does not issue (17 R257, 19 R280). A GATH or SCAT waits only when its checks find nothing (19 R290). -/
def queueFull (s : State) (core gang : Nat) (sp : Split) (plane : Option Nat) (word : W32) : Bool :=
  let w := s.wgAt core
  let op := opcodeOf word
  let x := word.toNat
  ((0xC1 ≤ op && op ≤ 0xC6) && decide (8 ≤ w.mq.length)) ||
  ((op == 0xD1 || op == 0xD2) && decide (32 ≤ w.cq.length) &&
    match rowsChecks s (mkCtx s ⟨core, gang, 0, plane, word⟩ sp) (BitVec.ofNat 2 (bitsAt x 22 2)) (BitVec.ofNat 4 (bitsAt x 18 4))
        (BitVec.ofNat 6 (bitsAt x 12 6)) with
    | .ok _ => true
    | .error _ => false)

/-! ### Readiness -/

/-- What keeps a split from issuing; the codes of WAIT (23 R355). -/
inductive Idle where
  | ready
  | scoreboard
  | barrier
  | cwait
  | queue
  | regang
  | stopped
  deriving DecidableEq, Repr

/-- WAIT (23 R355), with 0 for a split that issued in this clock. -/
def Idle.code : Idle → Nat
  | .ready => 1 | .scoreboard => 2 | .barrier => 3 | .cwait => 4 | .queue => 5 | .regang => 6 | .stopped => 7

/-- Why a wait keeps a split from issuing. -/
def Wait.idle : Wait → Idle
  | .none => .ready
  | .bwait _ _ | .stga _ _ | .stgw _ _ | .cbar _ | .emit _ _ _ _ => .barrier
  | .passed obj _ _ => if obj / 2 ^ 28 = 4 then .cwait else .barrier
  | .cwait _ _ | .failed _ _ => .cwait
  | .racq | .regang _ => .regang
  | .rrel | .transform _ | .accElems _ _ _ _ | .ifence | .tlbi _ _ _ => .scoreboard
  | .forming _ _ _ _ _ => .queue

/-- What keeps a split from issuing its next word now. -/
def idleOf (s : State) (core gang : Nat) (sp : Split) : Idle :=
  let w := s.wgAt core
  let g := s.gangAt core gang
  let clock := (s.clockAt core).toNat
  if sp.stopped || g.service.isSome || g.dbgStop.isSome then .stopped
  else if sp.wait ≠ .none then sp.wait.idle
  else if sp.lanes == 0 || sp.atJoin g then .regang
  else if decide (clock < sp.stall) || (g.yieldAt.elim false (fun y => decide (clock ≤ y + 1))) then .scoreboard
  else if ((w.preempt || w.ending) && latchFree s core g sp) || stopsHere s core g sp then .stopped
  else
    let plane := planeAt s core g sp
    match s.peek core sp.pc (fetchPlane s core g sp plane) with
    | none => .ready
    | some word => if scoreboarded g sp word then .scoreboard else if queueFull s core gang sp plane word then .queue else .ready

/-- The split stands, perhaps after prefixes, at a word that a full engine queue keeps from issuing (21 R331). -/
def atFullQueue (s : State) (core gang : Nat) (sp : Split) : Bool :=
  let plane := planeAt s core (s.gangAt core gang) sp
  (s.peek core sp.pc (fetchPlane s core (s.gangAt core gang) sp plane)).elim false (queueFull s core gang sp plane)

/-- The clock of a candidate's last issue: that of its plane, or of the whole split for an anchored word (21 R329). -/
def lastOf (s : State) (core : Nat) (x : Nat × Nat × Split) : Nat :=
  match planeAt s core (s.gangAt core x.1) x.2.2 with
  | some n => SMap.get 0 x.2.2.lastIssue n
  | none => x.2.2.issuedAt

/-- The order of candidates (21 R329): those that have not issued for 64 clocks first, then the gang whose last issue is least recent, the lower slice, the lower path. Of one split only its next plane is a candidate (01 R34). -/
def candidateBefore (s : State) (core : Nat) (a b : Nat × Nat × Split) : Bool :=
  let clock := (s.clockAt core).toNat
  let old := fun (x : Nat × Nat × Split) => decide (lastOf s core x + 64 ≤ clock)
  let last := fun (x : Nat × Nat × Split) => (s.gangAt core x.1).lastIssue
  if old a ≠ old b then old a
  else if last a ≠ last b then decide (last a < last b)
  else if a.2.2.low ≠ b.2.2.low then decide (a.2.2.low < b.2.2.low)
  else decide (a.2.2.path.getD 0 < b.2.2.path.getD 0)

/-- Splits of a quadrant that may issue: gang, index, split. -/
def candidates (s : State) (core quad : Nat) : List (Nat × Nat × Split) :=
  ((List.range 4).map (fun i => quad % 4 + 4 * i)).flatMap (fun gang =>
    ((s.gangAt core gang).splits.zipIdx).filterMap (fun x =>
      if idleOf s core gang x.1 = .ready then some (gang, x.2, x.1) else none))

/-- The split that issues in a quadrant. -/
def candidate (s : State) (core quad : Nat) : Option (Nat × Nat × Split) :=
  firstBy (candidateBefore s core) (candidates s core quad)

end Sys2Proof.Machine
end

