-- ==== Sys2Proof/Machine/Trace.lean ====
section
/-! DEFINITION. The trace collector (23 R351 to R358), samples (23 R356), and the permit masks of gangs (23 R350, 25 R383). -/

namespace Sys2Proof.Machine

def State.traceBuf (s : State) (die : Nat) : TraceBuf := SMap.get TraceBuf.off s.traces die

def State.setTraceBuf (s : State) (die : Nat) (b : TraceBuf) : State := { s with traces := SMap.set TraceBuf.off s.traces die b }

/-! ### Bytes of packets (23 R351, R352) -/

/-- A delta below 2^21, in 7-bit groups, the shortest form. -/
def deltaBytes (d : Nat) : List Byte :=
  if d < 2 ^ 7 then [BitVec.ofNat 8 d]
  else if d < 2 ^ 14 then [BitVec.ofNat 8 (d % 2 ^ 7 + 2 ^ 7), BitVec.ofNat 8 (d / 2 ^ 7)]
  else [BitVec.ofNat 8 (d % 2 ^ 7 + 2 ^ 7), BitVec.ofNat 8 (d / 2 ^ 7 % 2 ^ 7 + 2 ^ 7), BitVec.ofNat 8 (d / 2 ^ 14)]

/-- A packet's bytes after a packet of clock `prev`; a difference of 2^21 − 1 or more saturates and a TS packet follows. -/
def Packet.bytes (p : Packet) (prev : W64) : List Byte :=
  let d := (p.clock - prev).toNat
  let head := BitVec.ofNat 8 (p.type % 16 * 16 + (if p.tag.isSome then 8 else 0) + p.bits % 8)
  let rest := p.tag.elim [] (fun t => leBytes 2 t.toNat) ++ p.payload
  if d < 2 ^ 21 - 1 then head :: (deltaBytes d ++ rest)
  else head :: ([0xFF, 0xFF, 0x7F] ++ rest ++ [0x10, 0x00] ++ leBytes 8 p.clock.toNat)

/-- The FRAME packet that opens frame `seq` of a die before packet `p` (23 R353, R354). -/
def frameBytes (s : State) (die seq : Nat) (p : Packet) : List Byte :=
  [BitVec.ofNat 8 (die % 4 + (if s.unsync then 4 else 0)), 0] ++ leBytes 8 p.clock.toNat ++ leBytes 8 p.time.toNat ++
    leBytes 1 p.freq ++ leBytes 4 seq

/-! ### The collector -/

/-- A frame can be opened: the next unit is free, or the ring overwrites its oldest frame (23 R349). -/
def State.frameFree (s : State) (b : TraceBuf) : Bool := !b.stop || s.unitFree b.desc b.wr b.nunits

/-- Open a frame for a packet: the unit is filled with 0xFF and takes the FRAME packet. -/
def openFrame (die : Nat) (p : Packet) (s : State) : State :=
  let b := s.traceBuf die
  let a := b.base + b.wr % b.nunits * 4096
  let fb := frameBytes s die b.wr p
  let s := forget a 4096 { s with mem := fillRange 0 s.mem a 4096 (fun i => (fb[i]?).getD 0xFF), poison := dropRange s.poison a 4096 }
  s.setTraceBuf die { b with frame := some ⟨a, fb.length, p.clock, p.freq, p.step, p.clock, p.time⟩ }

/-- Close the open frame: WRCNT counts its unit. -/
def closeFrame (die : Nat) (s : State) : State :=
  let b := s.traceBuf die
  match b.frame with
  | none => s
  | some _ =>
    let s := collectorDev die (b.desc + 16) (leBytes 8 (b.wr + 1)) s
    s.setTraceBuf die { b with frame := none, wr := b.wr + 1 }

/-- Gangs of a die owe a SYNC once a LOSS has been written (23 R357). -/
def syncAll (die : Nat) (s : State) : State :=
  (s.cores.filter (fun e => decide (dieOf e.1 = die))).foldl (fun s e => match e.2.wg with
    | some _ => s.updWg e.1 (fun w => w.mapGangs (fun _ g => { g with syncDue := true }))
    | none => s) s

/-- With a free entry after drops, a LOSS joins the queue (23 R358). -/
def queueLoss (die : Nat) (s : State) : State :=
  let b := s.traceBuf die
  if b.dropped = 0 ∨ 64 ≤ b.queue.length then s
  else
    s.setTraceBuf die { b with queue := b.queue ++ [s.packetNow die 0xB 0 none (leBytes 4 (min b.dropped (2 ^ 32 - 1)))], dropped := 0 }

/-- A packet as it stands in a frame: the TIME of a SYNC is the conversion of its CLOCK by the frame's own pair (23 R363). -/
def Packet.inFrame (p : Packet) (f : Frame) : Packet :=
  if p.type = 2 then
    let t := f.time0 + BitVec.ofNat 64 ((p.clock - f.clock0).toNat * 40 / (3 * f.freq))
    { p with payload := p.payload.take 10 ++ leBytes 8 t.toNat ++ p.payload.drop 18 }
  else p

/-- Write the packet at the head of the queue into the open frame. -/
def writePacket (die : Nat) (f : Frame) (p : Packet) (rest : List Packet) (s : State) : State :=
  let bs := (p.inFrame f).bytes f.clock
  let s := collectorDev die (f.addr + f.pos) bs s
  let b := s.traceBuf die
  let s := s.setTraceBuf die { b with queue := rest, frame := some { f with pos := f.pos + bs.length, clock := p.clock } }
  queueLoss die (if p.type = 0xB then syncAll die s else s)

/-- One packet of the collector: into the open frame, or the FRAME of a new one (23 R353, R358). A frame holds no packets of both sides of a frequency change. -/
def collect (die : Nat) (s : State) : State :=
  let b := s.traceBuf die
  match b.queue with
  | [] => s
  | p :: rest =>
    let fits := match b.frame with
      | some f => f.step == p.step && decide (f.pos + (p.bytes f.clock).length ≤ 4096)
      | none => false
    match b.frame with
    | some f =>
      if fits then writePacket die f p rest s
      else
        let s := closeFrame die s
        if s.frameFree (s.traceBuf die) then openFrame die p s else s
    | none => if b.en && s.frameFree b then openFrame die p s else s

/-- COLLECTOR_WRITE. -/
def execCollectorWrite (die : Nat) (s : State) : Res := .next (collect die s)

/-- Packets that a LOSS stands for when it is itself dropped: those it counts, and itself. -/
def Packet.weight (p : Packet) : Nat := if p.type = 0xB then numOf p.payload + 1 else 1

/-- Write every queued packet that can be written. A queue of 64 packets takes no more than three rounds a packet. -/
def collectAll (die : Nat) (s : State) : State := (List.range 256).foldl (fun s _ => collect die s) s

/-- Write every queued packet that can be written; drop and count the others (23 R370). -/
def drain (die : Nat) (s : State) : State :=
  let s := collectAll die s
  let b := s.traceBuf die
  if b.queue.isEmpty then s
  else queueLoss die (s.setTraceBuf die { b with queue := [], dropped := b.dropped + (b.queue.map Packet.weight).sum })

/-! ### Samples -/

/-- Gangs of a core, from the one after the last sampled (23 R356). -/
def rotation (k : Core) : List Nat := (List.range 16).map (fun i => (k.smpRot + 1 + i) % 16)

/-- A sample is due on a core. -/
def sampleDue (s : State) (core : Nat) : Bool :=
  let b := s.traceBuf (dieOf core)
  let clock := (s.clockAt core).toNat
  b.en && decide (10 ≤ b.smplog ∧ b.smplog ≤ 20) && decide ((s.coreAt core).smpLast / 2 ^ b.smplog < clock / 2 ^ b.smplog)

/-- The gang that the next sample is taken from, and its split: the first gang in rotation with SMP enabled, once its splits stand at latch-free points outside prefix groups, or wait (01 R40, 05 R99). -/
def sampleGang (s : State) (core : Nat) : Option (Nat × Split) :=
  match (rotation (s.coreAt core)).find? (fun i => (s.gangAt core i).traceEn.getLsbD 4 && !(s.gangAt core i).splits.isEmpty) with
  | none => none
  | some i =>
    let g := s.gangAt core i
    if g.splits.all (quiet s core g) then g.splits.head?.map (fun sp => (i, sp)) else none

/-- The split issued in the clock that has just passed, the one that a sample at `clock` looks at (logs 3 and 57); its launch is no issue. -/
def Split.justIssued (sp : Split) (w : Workgroup) (clock : Nat) : Bool :=
  sp.issuedAt + 1 == clock && sp.issuedAt != w.dispatched

/-- TRACE_SAMPLE: an SMP packet of the gang in rotation (23 R354 to R356). -/
def execTraceSample (core : Nat) (s : State) : Res :=
  .next (if !sampleDue s core then s
    else
      match sampleGang s core with
      | none => s
      | some (i, sp) =>
        let g := s.gangAt core i
        let clock := (s.clockAt core).toNat
        let wait := if sp.justIssued (s.wgAt core) clock then 0 else (idleOf s core i sp).code
        let occ := (g.occupied sp.lanes).foldl (fun m n => m + 2 ^ n) 0
        let src := srcOf core i sp
        let s := emitPacket core i 4 7 0 src none (leBytes 2 src ++ leBytes 4 sp.pc ++ leBytes 1 wait ++ leBytes 1 occ ++ g.top3) s
        s.setCore core { s.coreAt core with smpLast := clock, smpRot := i })

/-! ### Permits (23 R350, 25 R383) -/

/-- The gangs of a die take their new permit masks; with `strip` their enables are ANDed with them. -/
def permitDie (die : Nat) (strip : Bool) (s : State) : State :=
  (s.cores.filter (fun e => decide (dieOf e.1 = die))).foldl (fun s e => match e.2.wg with
    | some w =>
      let m := s.permitOf w die
      s.updWg e.1 (fun w => w.mapGangs (fun _ g => { g with permit := m, traceEn := if strip then g.traceEn &&& m else g.traceEn }))
    | none => s) s

/-- Every die's gangs take the permit masks of the security state; enables that are no longer permitted read 0. -/
def permitAll (s : State) : State := (List.range 4).foldl (fun s d => permitDie d true s) s

end Sys2Proof.Machine
end

