-- ==== Sys2Proof/Machine/System.lean ====
section
/-! DEFINITION. System instructions (21 R336 to R341) and observation instructions (23 R366 to R373), with the return from the kernel's handler. -/

namespace Sys2Proof.Machine

/-! ### Traps and the return from the handler -/

/-- TRAP (21 R337): SOFTWARE_TRAP with SWNUM n and TRAPA s[A]. -/
def execTrap (n a : BitVec 6) (s : State) : Res :=
  issue s (fun cx => .error (.trap ⟨.softwareTrap, cx.g.sreg a.toNat, none, n.toNat, [], false⟩))

/-- BKPT (23 R367). -/
def execBkpt (n : BitVec 6) (s : State) : Res :=
  issue s (fun _ => .error (.trap ⟨.breakpoint, n.zeroExtend 64, none, 0, [], false⟩))

/-- A split that stood while the handler ran goes on, with the sibling parked below it. -/
def Split.woken (sp : Split) : Split := { sp with stopped := false }

/-- The splits of a gang that the handler stopped are ready again (21 R338). -/
def Gang.wakeAll (g : Gang) : Gang :=
  g.mapSplits Split.woken

/-- The split after TRET: at TRAPPC; with TRAPPC as it was at entry, only the plane of the trap and the higher ones issue the trapping word again (01 R46), and the lower ones keep their prefixes. Skip bodies over the offset are in force again (log 12). -/
def Split.returned (sp : Split) (h : Handler) (pc : W64) : Split :=
  { sp.sent sp.slices sp.lanes pc.toNat with
    replay := if pc = h.entryPc ∧ !h.anchored then some (h.trapOff, h.plane) else none,
    pfx := if pc = h.entryPc then h.pfx else [],
    skip := h.skip.filter (fun b => decide (b.first ≤ pc.toNat ∧ pc.toNat ≤ b.last)) }

/-- Pass over the words of the replayed group that no plane is left to issue again: the handler has left no lane in the plane of the trap or above (01 R46, 21 R338). A group has at most nine words. -/
def Split.skipReplayed (s : State) (core : Nat) (g : Gang) : Nat → Split → Split
  | 0, sp => sp
  | n + 1, sp =>
    if sp.replay.isSome ∧ modeAt s core g sp = .each ∧ Split.issuePlane g sp = none then
      Split.skipReplayed s core g n (sp.at (sp.pc + 1))
    else sp

/-- The return from the handler (21 R338). REGANGs and formations that the handler's split kept open are looked at again (01 R19, 19 R288). -/
def returnFrom (cx : Ctx) (h : Handler) (s : State) : State :=
  let clock := (s.clockAt cx.core).toNat
  let g := (s.gangAt cx.core cx.gang).issued cx clock
  let sp := Split.settle g 8 (Split.skipReplayed s cx.core g 9
    { cx.sp.returned h cx.g.trappc with lastIssue := cx.sp.stamped cx.g cx.plane clock })
  let s := s.setGang cx.core cx.gang { (g.setSplit cx.split sp).wakeAll with handler := none }
  formCheck cx.core (regangCheck cx.core cx.gang 9 (maskPacket cx.core cx.gang 5 cx.tag sp s))

/-- TRET (21 R338): inside the handler, a dual-path stack deeper than at entry ends the workgroup with ILLEGAL_OPERAND. -/
def execTret (s : State) : Res :=
  issue s (fun cx =>
    match cx.g.handler with
    | none => .error (illegalInstruction cx)
    | some h =>
      if (slicesOf cx.sp.slices).all (fun j => decide ((SMap.get [] cx.g.dp j).length ≤ SMap.get 0 h.depths j)) then
        .ok (returnFrom cx h s)
      else .error (illegalOperand cx))

/-! ### Special registers (21 R339) -/

/-- Per-lane special registers. -/
def laneRegister (g : Gang) (n l : Nat) : Nat := if n = 0 then l else if n = 1 then l / 4 else g.planeOf l

/-- The other special registers. -/
def specialRegister (s : State) (cx : Ctx) (n : Nat) : W64 :=
  match n with
  | 2 => BitVec.ofNat 64 cx.gang
  | 3 => BitVec.ofNat 64 cx.wg.rank
  | 4 => BitVec.ofNat 64 cx.wg.clrank
  | 5 => BitVec.ofNat 64 (dieOf cx.core)
  | 6 => BitVec.ofNat 64 (s.devid % 2 ^ 20)
  | 8 => occupancy cx
  | 9 => cx.g.mode.zeroExtend 64
  | 10 => cx.g.flags.zeroExtend 64
  | 11 => s.clockAt cx.core
  | 12 => s.time
  | 13 => cx.g.rtop
  | 14 => cx.g.trapc
  | 15 => cx.g.trapa
  | 16 => cx.g.trappc
  | 17 => cx.g.trapl
  | 18 => cx.g.acctd.zeroExtend 64
  | 19 => cx.g.blame
  | _ => 0

/-- SRD. -/
def execSrd (n d : BitVec 6) (s : State) : Res :=
  issue s (fun cx => do
    need (decide (n.toNat < 20)) (illegalOperand cx)
    if n = 0 ∨ n = 1 ∨ n = 7 then
      let vals := cx.ls.map (fun l => (l, BitVec.ofNat 32 (laneRegister cx.g n.toNat l)))
      pure (retire cx (s.setGang cx.core cx.gang (cx.g.setVs d.toNat .n32 vals)))
    else pure (putScalar cx d.toNat (specialRegister s cx n.toNat) s))

/-- A value with a bit outside a mask of the low word (03 R65, R80). -/
def outside (x : W64) (mask : W32) : Bool := x &&& ~~~(mask.zeroExtend 64) != 0

/-- What an SWR leaves of the gang. -/
def writeSpecial (cx : Ctx) (n : Nat) (x : W64) : Except Stop Gang :=
  let g := cx.g
  match n with
  | 9 => if outside x modeMask then .error (illegalOperand cx) else .ok { g with mode := x.truncate 32 }
  | 10 => if outside x flagsMask then .error (illegalOperand cx) else .ok { g with flags := x.truncate 32 }
  | 16 =>
    if g.handler.isSome && decide (x.toNat < cx.wg.kernel.length) then .ok { g with trappc := x } else .error (illegalOperand cx)
  | 18 =>
    if !cx.wg.priv then .error (raise .protection)
    else if 255 < x.toNat then .error (illegalOperand cx)
    else .ok { g with acctd := x.truncate 8 }
  | 19 => if cx.wg.priv then .ok { g with blame := x } else .error (raise .protection)
  | _ => .error (illegalOperand cx)

/-- SWR. -/
def execSwr (n a : BitVec 6) (s : State) : Res :=
  issue s (fun cx => do
    let g ← writeSpecial cx n.toNat (cx.g.sreg a.toNat)
    pure (retire cx (s.setGang cx.core cx.gang g)))

/-! ### HALT, TLBI -/

/-- HALT (21 R340): the launch ends with STATUS 0x30 and s[A]; the workgroups of a cluster-mode node stop together. -/
def execHalt (a : BitVec 6) (s : State) : Res :=
  issue s (fun cx =>
    let st : Status := ⟨0x30, cx.wg.node, cx.wg.rank, cx.g.sreg a.toNat, 0, 0, 0⟩
    let s := (retire cx s).updGang cx.core cx.gang (fun g => g.stopSplit cx.split)
    .ok ((s.members cx.core).foldl (fun s c => stopCore c s) (endLaunch s cx.wg.launch st)))

/-- Translations that a TLBI of a kind leaves in a TLB (21 R341). -/
def tlbKeeps (kind : Nat) (va : W64) (asid : Nat) (t : TlbEnt) : Bool :=
  match kind with
  | 0 => t.asid != asid || !(decide (t.page ≤ va.toNat / 65536 ∧ va.toNat / 65536 < t.page + t.pages))
  | 1 => t.asid != asid
  | _ => false

/-- Remove translations from every TLB of the device. -/
def tlbiRemove (kind : Nat) (va : W64) (asid : Nat) (s : State) : State :=
  { s with tlb := SMap.mapV [] (fun _ ts => ts.filter (tlbKeeps kind va asid)) s.tlb }

/-- TLBI. -/
def execTlbi (k : BitVec 2) (a b : BitVec 6) (s : State) : Res :=
  issue s (fun cx => do
    need (k != 3 && !(k != 0 && a != 0) && !(k == 2 && b != 0)) (illegalInstruction cx)
    need cx.wg.priv (raise .protection)
    let x := cx.g.sreg b.toNat
    need (decide (x.toNat < 2 ^ 16)) (illegalOperand cx)
    let va := cx.g.sreg a.toNat
    pure (if cx.g.atomicsOut then waitAt cx (.tlbi k.toNat va x.toNat) s
          else retire cx (tlbiRemove k.toNat va x.toNat s)))

/-- TLBI_REMOVE: the stores and atomics that a TLBI waits for are performed (21 R341). -/
def execTlbiRemove (core gang split : Nat) (s : State) : Res :=
  let g := s.gangAt core gang
  .next (match g.waitOf split with
    | .tlbi k va asid =>
      if g.mayWake split && !g.atomicsOut then (tlbiRemove k va asid s).updGang core gang (fun g => g.release split) else s
    | _ => s)

/-! ### Trace (23 R369, R370) -/

/-- TRCM. -/
def execTrcm (d a : BitVec 6) (s : State) : Res :=
  issue s (fun cx => do
    let x := cx.g.sreg a.toNat
    need (decide (x.toNat < 256)) (illegalOperand cx)
    let en := x.truncate 8 &&& cx.g.permit
    let g := { cx.g.setS d.toNat (cx.g.traceEn.zeroExtend 64) with
               traceEn := en, syncDue := cx.g.syncDue || (cx.g.traceEn == 0 && en != 0) }
    pure (retire cx (s.setGang cx.core cx.gang g)))

/-- TRCC: SYNC, or FLUSH, which is done at once (log 48): what the die's records are written with happens before what the gang does next (23 R370). -/
def execTrcc (k : BitVec 2) (s : State) : Res :=
  issue s (fun cx => do
    need (k == 0 || k == 1) (illegalInstruction cx)
    let die := dieOf cx.core
    if k = 0 then
      pure (retire cx (s.updGang cx.core cx.gang (fun g => if g.traceEn = 0 then g else { g with syncDue := true })))
    else
      let s := flushLoss die (flushPair die (drain die s))
      pure (retire cx (s.updGang cx.core cx.gang (fun g => { g with know := g.know.upTo (collectorOf die) s.writes }))))

/-! ### Accounting (23 R371, R372, 25 R386) -/

/-- A free gain of the DRAM bytes of a domain, and of what they cost, at a read (log 20): the caches decide how many bytes reach DRAM. -/
def dramGain (domain : BitVec 8) (s : State) : State :=
  let n := Config.freeNat s.free
  ((s.charge domain 3 n).spend domain (48 * n)).draw

/-- A free gain of die-to-die energy at a read (log 20): the placement of pages is not stated. -/
def d2dGain (domain : BitVec 8) (s : State) : State := (s.spend domain (20 * Config.freeNat s.free)).draw

/-- The counters as a read finds them: they have grown only where the domain has caused traffic since they were last read. -/
def acctSettle (domain : BitVec 8) (s : State) : State :=
  if SMap.get false s.traffic domain.toNat then
    d2dGain domain (dramGain domain { s with traffic := SMap.set false s.traffic domain.toNat false })
  else s

/-- A counter of a domain (23 R372); counter 6 is the floor of the energy in mJ, kept in tenths of a pJ. -/
def counterOf (s : State) (domain : BitVec 8) (i : Nat) : Nat :=
  if i = 6 then SMap.get 0 s.energy domain.toNat / 10 ^ 10 else SMap.get 0 s.acct (16 * domain.toNat + i)

/-- ACCT. -/
def execAcct (d a : BitVec 6) (s : State) : Res :=
  issue s (fun cx => do
    need cx.wg.priv (raise .protection)
    let x := cx.g.sreg a.toNat
    need (decide (x.toNat < 2 ^ 12 ∧ x.toNat / 2 ^ 8 < 9)) (illegalOperand cx)
    let domain : BitVec 8 := x.truncate 8
    let i := x.toNat / 2 ^ 8
    let s := if i = 3 ∨ i = 6 then acctSettle domain s else s
    pure (putScalar cx d.toNat (BitVec.ofNat 64 (counterOf s domain i)) s))

/-! ### WATCH (23 R373) -/

/-- A range from `a` of `n` bytes lies in one of the spaces that WATCH admits. -/
def watchable (a : W64) (n : Nat) : Bool :=
  match spaceOf a with
  | .global va => decide (va + n ≤ 2 ^ 57)
  | .localPad off => decide (off + n ≤ 2 ^ 20)
  | _ => false

/-- WATCH. -/
def execWatch (w : BitVec 2) (a b : BitVec 6) (s : State) : Res :=
  issue s (fun cx => do
    need (cx.g.permit.getLsbD 5) (raise .protection)
    let base := cx.g.sreg a.toNat
    let n := (cx.g.sreg b.toNat).toNat
    need (decide (n ≤ 2 ^ 32)) (illegalOperand cx)
    need (watchable base n) (illegalOperand cx)
    pure (retire cx (s.updWg cx.core (fun x => { x with watch := SMap.set none x.watch w.toNat (if n = 0 then none else some (base, n)) }))))

end Sys2Proof.Machine
end

