-- ==== Sys2Proof/Machine/Service.lean ====
section
/-! DEFINITION. What the Puone cores and the resident driver do for stopped gangs and engine commands (11 R192, R216, 15 R248, R249, 17 R269, R270, 19 R280), and soft errors (11 R216). -/

namespace Sys2Proof.Machine

/-! ### Leaves and frames -/

/-- The driver sets level-4 leaves of an address space and invalidates the TLBs for those pages (11 R189, R191, log 7); a page of a live default region keeps the region's leaf. -/
def setLeaves (asid : Nat) (ls : Leaves) (s : State) : State :=
  ls.foldl (fun s l =>
    if 2 ^ 41 ≤ l.1 ∨ (s.regionOf asid l.1).isSome then s
    else
      let s := tlbiRemove 0 (BitVec.ofNat 64 (l.1 * 65536)) asid s
      { s with leaves := SMap.set none s.leaves (leafKey asid l.1) (some l.2) }) s

/-- A frame that is in use: in a pool, in a reserve, or backing a page. -/
def State.frameUsed (s : State) (f : Nat) : Bool :=
  s.pool.any (fun e => e.2.contains f) ||
  s.regions.any (fun e => e.2.elim false (fun r => r.free.any (fun x => x.2.contains f))) ||
  s.backed.any (fun e => e.2.elim false (fun b => b.frame == f))

/-- A frame that the driver may add: a 64 KiB frame of device memory that is not in use. -/
def State.frameNew (s : State) (f : Nat) : Bool := f % 65536 == 0 && decide (f < Config.memBytes) && !s.frameUsed f

/-- Die of a frame. The spec gives each die 64 GiB (00 R8) and not which physical addresses they are; in the model a die's frames are those of one 64 GiB range, in the order of the dies (log 68). -/
def frameDie (f : Nat) : Nat := f / Config.dieBytes

/-- Add frames to the pools of their dies; one that may not be added is left out. -/
def addFrames (fs : List Nat) (s : State) : State :=
  fs.foldl (fun s f => if s.frameNew f then { s with pool := SMap.set [] s.pool (frameDie f) (SMap.get [] s.pool (frameDie f) ++ [f]) } else s) s

/-- Add frames to the reserve of a region: the same count on each die, by which RESERVE rises (15 R238). -/
def addReserve (region : Nat) (fs : List Nat) (s : State) : State :=
  match SMap.get none s.regions region with
  | none => s
  | some r =>
    let on := fun d => fs.filter (fun f => frameDie f == d)
    if fs.all s.frameNew && fs.Nodup && (List.range 4).all (fun d => (on d).length == (on 0).length) then
      let free := (List.range 4).foldl (fun m d => SMap.set [] m d (SMap.get [] m d ++ on d)) r.free
      { s with regions := SMap.set none s.regions region (some { r with reserve := r.reserve + (on 0).length, free := free }) }
    else s

/-! ### Services of a gang -/

/-- A fault that a table entry can cause: of an address that the tables translate, and of no malformed entry. The driver decides whether the entry is an interim one (11 R192, 17 R269). -/
def interim (malformed : Bool) (a : W64) : Bool := !malformed && (match spaceOf a with
  | .global _ => true
  | _ => false)

/-- The delivery of a service's trap. -/
def Service.delivery (v : Service) : Delivery :=
  { cause := v.cause, swnum := 0, trapa := v.addr, pc := v.pc, trapl := v.trapl, split := v.split, trapOff := v.trapOff,
    plane := v.plane, anchored := v.anchored, tag := v.tag }

/-- The service of a gang ends and the gang goes on. -/
def resumeGang (core gang : Nat) (v : Service) (s : State) : State :=
  endService (s.wgAt core) v.since (s.updGang core gang (fun g => { g with service := none }))

/-- The driver delivers a service's trap to the kernel's handler. -/
def deliverService (core gang : Nat) (v : Service) (s : State) : State := deliver core gang v.delivery (resumeGang core gang v s)

/-- A PROTECTION that a table entry can cause: one of an address that lanes reach, or of a fetch, and not one of an instruction's own rule, which names no lane's address (11 R192). -/
def Service.interim (v : Service) : Bool := !v.faults.isEmpty && Machine.interim v.malformed v.addr

/-- FAULT_SERVICE (11 R192): TRANSLATION is mapped or ends the workgroup; PROTECTION of an interim entry is resolved, of a malformed entry ends the workgroup, any other is delivered. -/
def execFaultService (core gang : Nat) (act : FaultAct) (s : State) : Res :=
  .next (match (s.gangAt core gang).service with
    | none => s
    | some v =>
      let asid := (s.wgAt core).asid
      match v.cause, act with
      | .translation, .resume ls => resumeGang core gang v (setLeaves asid ls s)
      | .translation, .terminate => terminate core v.delivery.status s
      | .protection, .resume ls => if !v.interim || ls.isEmpty then s else resumeGang core gang v (setLeaves asid ls s)
      | .protection, .deliver => if v.malformed then s else deliverService core gang v s
      | .protection, .terminate => if v.malformed then terminate core v.delivery.status s else s
      | _, _ => s)

/-- The region of a page that an address names. -/
def addrRegion (s : State) (core : Nat) (a : W64) : Option Nat :=
  match placeOf s core a with
  | .page i _ _ => some i
  | _ => none

/-- BACKING_SERVICE (15 R248). -/
def execBackingService (core gang : Nat) (act : BackAct) (s : State) : Res :=
  .next (match (s.gangAt core gang).service with
    | none => s
    | some v =>
      if v.cause ≠ .backingExhausted then s
      else
        match act with
        | .toPool fs => resumeGang core gang v (addFrames fs s)
        | .toReserve fs => resumeGang core gang v ((addrRegion s core v.addr).elim s (fun i => addReserve i fs s))
        | .deliver => deliverService core gang v s
        | .terminate => terminate core v.delivery.status s)

/-! ### Services of engine commands -/

/-- A command whose service ends the workgroup is none that completes: it leaves its queue, and its service ends. -/
def dropHead (core : Nat) (engine : Engine) (since : W64) (s : State) : State :=
  endService (s.wgAt core) since (s.updWg core (fun w => match engine with
    | .matrix => { w with mq := w.mq.drop 1 }
    | .copy => { w with cq := w.cq.drop 1 }
    | .fabric => w))

/-- The lowest address of faults. -/
def lowestAddr (fs : List CmdFault) : W64 := BitVec.ofNat 64 ((fs.map (fun f => f.addr.toNat)).foldl min (2 ^ 64 - 1))

/-- The status of a termination in the service of an engine command (21 R315): TRAPL holds only GANG. -/
def engineStatus (c : Cause) (gang : Nat) (a : W64) : Status := ⟨c.code, 0, 0, 0, BitVec.ofNat 64 (gang % 16 * 2 ^ 16), 0, a⟩

/-- The recorded cause of faults that are not resolved: INTEGRITY (17 R270), PROTECTION before TRANSLATION (17 R269). -/
def faultsCause (fs : List CmdFault) : Cause :=
  if fs.any (fun f => f.cause == .integrity) then .integrity
  else if fs.any (fun f => f.cause == .protection) then .protection else .translation

/-- The status of a command whose faults end the workgroup. -/
def faultsStatus (gang : Nat) (fs : List CmdFault) : Status :=
  let c := faultsCause fs
  engineStatus c gang (lowestAddr (fs.filter (fun f => f.cause == c)))

/-- The driver may replay: every fault can be resolved. -/
def replayable (fs : List CmdFault) : Bool := fs.all (fun f => f.cause == .translation || (f.cause == .protection && interim f.malformed f.addr))

/-- COMMAND_FAULT_SERVICE (17 R269, 19 R280): a replayed product resumes at its counters, a copy at its first unit not landed, a gather that has not read its index vector starts again. -/
def execCommandFaultService (core : Nat) (engine : Engine) (act : CmdAct) (s : State) : Res :=
  let w := s.wgAt core
  .next (match engine with
    | .matrix =>
      match w.mq with
      | c :: _ =>
        if c.state ≠ .faulted then s
        else
          match act with
          | .replay ls =>
            if replayable c.faults then
              endService w c.since (setMatrixHead core { c with state := .running, faults := [] } (setLeaves w.asid ls s))
            else s
          | .terminate => terminate core (faultsStatus c.gang c.faults) (dropHead core .matrix c.since s)
      | [] => s
    | .copy =>
      match w.cq with
      | c :: _ =>
        if c.state ≠ .faulted then s
        else
          match act with
          | .replay ls =>
            if replayable c.faults then
              let st := if c.kind = .cpy ∨ c.idx ≠ [] then CmdState.running else CmdState.queued
              endService w c.since (setCopyHead core { c with state := st, faults := [] } (setLeaves w.asid ls s))
            else s
          | .terminate => terminate core (faultsStatus c.gang c.faults) (dropHead core .copy c.since s)
      | [] => s
    | .fabric => s)

/-- The writes left to a unit when the driver declines: those outside the pages that found no backing, as the command knows them, and outside those that find none now (15 R249). -/
def backedWrites (s : State) (lacks : List (Nat × Nat)) (ws : List (Place × Byte × Bool)) : List (Place × Byte × Bool) :=
  let ws := ws.filter (fun x => !x.1.inPages lacks)
  ws.filter (fun x => !x.1.inPages (lacking s ws))

/-- The lowest address of the writes without backing of a command, one that found none before among them (21 R315). -/
def lowestLack (err : Option (Cause × W64)) (low at_ : W64) : W64 :=
  if (err.elim false (fun e => e.1 == .backingExhausted)) && decide (low.toNat < at_.toNat) then low else at_

/-- The waiting unit of a copy command: the first not wholly landed. -/
def CopyCmd.waiting (c : CopyCmd) : Nat := ((List.range c.units).find? (fun u => !c.has u)).getD 0

/-- The driver resolves the oldest fabric write that waits for backing: it adds a page and the write proceeds; it declines, and the write operations without backing are not performed; or it ends the writer's workgroup, which is one of the sending device, and the write is dropped (15 R249, log 72). -/
def fabricResolve (act : EngBackAct) (s : State) : State :=
  match s.fabWaits with
  | [] => s
  | p :: rest =>
    match p.1.op, act with
    | .write asid va bs bad, .add f =>
      let s := addFrames [f] s
      match writeImage asid va bs bad s with
      | some s' => { s'.markTraffic p.1.domain with fabWaits := rest }
      | none => s
    | .write asid va bs bad, .decline =>
      let ws := (vaWrites s asid va bs).filter (fun x => !x.1.inPages p.2)
      let marks := (vaBad s asid va bad).filter (fun q => !q.inPages p.2)
      { (writePoisoned ws marks [] s).1.markTraffic p.1.domain with fabWaits := rest }
    | _, _ => { s with fabWaits := rest }

/-- ENGINE_BACKING_WAIT (15 R249): the driver adds a page, declines, or ends the workgroup with cause 0x13. -/
def execEngineBackingWait (core : Nat) (engine : Engine) (act : EngBackAct) (s : State) : Res :=
  let w := s.wgAt core
  .next (match engine with
    | .copy =>
      match w.cq with
      | c :: _ =>
        if c.state ≠ .backing then s
        else
          let u := c.waiting
          match act with
          | .add f => endService w c.since (setCopyHead core { c with state := .running } (addFrames [f] s))
          | .decline =>
            let c' := c.addErrors [(.backingExhausted, c.lackAt)]
            endService w c.since (landed core c' u (performUnit core c.cls (c.owner u) (backedWrites s c.lacks (unitWrites s core c u)) s))
          | .terminate =>
            terminate core (engineStatus .backingExhausted c.gang (lowestLack c.err c.low c.lackAt)) (dropHead core .copy c.since s)
      | [] => s
    | .matrix =>
      match w.mq with
      | c :: _ =>
        if c.state ≠ .backing then s
        else
          match act with
          | .add f => endService w c.since (setMatrixHead core { c with state := .running } (addFrames [f] s))
          | .decline =>
            let c' := { c with flags := c.flags ||| BitVec.ofNat 32 (storeFlags s core c), err := some (.backingExhausted, c.lackAt), low := c.lackAt }
            endService w c.since (retireMatrix core c' (performUnit core 2 c.gang (backedWrites s c.lacks (storeWrites s core c)) s))
          | .terminate =>
            terminate core (engineStatus .backingExhausted c.gang (lowestLack c.err c.low c.lackAt)) (dropHead core .matrix c.since s)
      | [] => s
    | .fabric => fabricResolve act s)

/-- INTEGRITY_SERVICE (11 R216, 17 R270): the workgroup of the gang, or of the stopped matrix command, ends with cause 0x15. -/
def execIntegrityService (core : Nat) (gang : Option Nat) (s : State) : Res :=
  .next (match gang with
    | some g =>
      match (s.gangAt core g).service with
      | some v => if v.cause = .integrity then terminate core v.delivery.status s else s
      | none => s
    | none =>
      match matrixHead s core with
      | some c =>
        if c.state = .faulted ∧ faultsCause c.faults = .integrity then
          terminate core (faultsStatus c.gang c.faults) (dropHead core .matrix c.since s)
        else s
      | none => s)

/-! ### Soft errors -/

/-- A unit of bytes that one protection code covers is poisoned (11 R215, R216). -/
def poisonUnit (place : Nat → Place) (n a : Nat) (s : State) : State := (unitFrom n a).foldl (fun s i => s.setPoisonAt (place i) true) s

/-- ERROR_CORRECTION (11 R216): a corrected error is counted; one that cannot be corrected marks the data of its unit (11 R215): 32 bytes in DRAM, 8 in L2, in a scratchpad and in the accumulator store, one lane of a register or a latch. -/
def execErrorCorrection (e : SoftErr) (s : State) : Res :=
  .next (if s.pstate = .off then s
    else match e with
    | .corrected => { s with corrected := s.corrected + 1 }
    | .memory pa => if pa < Config.memBytes then poisonUnit .dev 32 pa s else s
    | .cached pa => if pa < Config.memBytes then poisonUnit .dev 8 pa s else s
    | .scratchpad core off => if off < Config.scratchBytes then poisonUnit (.pad core) 8 off s else s
    | .accumulator core key => if key < 32768 then (unitFrom 2 key).foldl (fun s k => s.setAccBad core k true) s else s
    | .register core gang reg lane =>
      if lane < 32 ∧ (reg < 64 ∨ (reg < 128 ∧ (s.gangAt core gang).ext.isSome)) ∧ (s.coreAt core).wg.isSome then
        s.updGang core gang (fun g => g.setCell reg lane { g.raw reg lane with bad := true })
      else s
    | .latch core gang plane i lane =>
      if plane < 4 ∧ i < 4 ∧ lane < 32 ∧ (s.coreAt core).wg.isSome then
        s.updGang core gang (fun g => match g.latch plane i lane with
          | some x => { g with x := SMap.set none g.x (32 * (4 * plane + i) + lane) (some { x with bad := true }) }
          | none => g)
      else s
    | .differs region page =>
      match s.backedAt region page with
      | some b => { s with backed := SMap.set none s.backed (backKey region page) (some { b with bad := true }) }
      | none => s)

end Sys2Proof.Machine
end

