-- ==== Sys2Proof/Machine/Account.lean ====
section
/-! DEFINITION. Launch time records (23 R343 to R345), launch status records (21 R315), and the end of a launch (21 R316, R323). -/

namespace Sys2Proof.Machine

/-! ### Where a launch's time goes (23 R344) -/

/-- Workgroups of a launch on cores. -/
def State.resident (s : State) (n : Nat) : List Workgroup :=
  s.cores.filterMap (fun e => match e.2.wg with
    | some w => if w.launch = n then some w else none
    | none => none)

/-- A workgroup has a fabric operation or an access to host memory outstanding. -/
def Workgroup.inIo (w : Workgroup) : Bool := w.gangs.any (fun e => SMap.get 0 e.2.c 3 != 0 || e.2.loads.any (fun p => p.io))

/-- Saved contexts of a launch. -/
def State.parked (s : State) (n : Nat) : List Saved := s.saved.filterMap (fun e => e.2.bind (fun x => if x.wg.launch = n then some x else none))

/-- The running command at the head of an engine's queue accesses host memory. -/
def engineIo (s : State) (core : Nat) (w : Workgroup) : Bool :=
  (match w.cq with
    | c :: _ => c.state == .running && (c.moves c.waiting).any (fun m => hostAccess s core m.2.2 [(0, m.1)] || hostAccess s core m.2.2 [(0, m.2.1)])
    | [] => false) ||
  (match w.mq with
    | c :: _ => c.state == .running &&
        (if c.isProduct then
          let v := MEnv.of s core c
          (List.range 16).any (fun p => (v.todo p).any (fun k => (v.fetches s p k).any (fun r => hostAccess s core r.2 [(0, r.1)])))
        else (covered c.mapA).any (fun e => hostAccess s core (fmtSize (mpFmt c.mapA)) [(0, tAddr c.mapA e.1 e.2)]))
    | [] => false)

/-- The category that holds for a launch now: 0 fault, 1 io, 2 exec, 3 queue. -/
def State.categoryOf (s : State) (n : Nat) : Nat :=
  let ws := s.resident n
  let storing := (SMap.get none s.launches n).elim false (fun l => l.storage != 0)
  if ws.any (fun w => !w.services.isEmpty) || (s.parked n).any (fun x => !x.services.isEmpty) then 0
  else if storing || (ws ++ (s.parked n).map (fun x => x.wg)).any Workgroup.inIo ||
      s.cores.any (fun e => e.2.wg.elim false (fun w => w.launch == n && engineIo s e.1 w)) then 1
  else if ws.isEmpty then 3 else 2

/-- Charge nanoseconds to a category. -/
def Launch.chargeTime (l : Launch) (cat n : Nat) : Launch :=
  match cat with
  | 0 => { l with tFault := l.tFault + n }
  | 1 => { l with tIo := l.tIo + n }
  | 2 => { l with tExec := l.tExec + n }
  | _ => { l with tQueue := l.tQueue + n }

/-- Charge a launch up to TIME `t`, category `cat` holding throughout: the nanosecond under way goes to the first category that held in it. `part`: the clock lies inside a nanosecond, in which `cat` has held. -/
def Launch.chargeTo (l : Launch) (cat : Nat) (t : W64) (part : Bool) : Launch :=
  let c := min l.cat cat
  if t.toNat ≤ l.ns.toNat then { l with cat := c }
  else
    let l := (l.chargeTime c 1).chargeTime cat (t.toNat - l.ns.toNat - 1)
    { l with ns := t, cat := if part then cat else 3 }

/-! ### Records -/

/-- A launch status record (21 R315). -/
def statusRecord (st : Status) : List Byte :=
  leBytes 4 (st.code % 2 ^ 8 + st.node % 2 ^ 12 * 2 ^ 8) ++ leBytes 4 st.rank ++ leBytes 8 st.detail.toNat ++ leBytes 4 st.trapl.toNat ++
    leBytes 4 st.trappc.toNat ++ leBytes 8 st.trapa.toNat

/-- A launch time record (23 R343). -/
def timeRecord (start end_ : W64) (l : Launch) (status : Nat) : List Byte :=
  leBytes 8 start.toNat ++ leBytes 8 (end_ - start).toNat ++ leBytes 8 l.tQueue ++ leBytes 8 l.tFault ++ leBytes 8 l.tIo ++
    leBytes 8 l.tExec ++ leBytes 4 l.wgs ++ leBytes 4 l.faults ++ leBytes 1 status ++ leBytes 7 0

/-- Write a status record in the address space of a mailbox and signal its vector (25 R375). -/
def writeStatus (m asid : Nat) (addr : W64) (st : Status) (s : State) : State :=
  let s := writeVa asid addr (statusRecord st) s
  { s with msix := s.msix ++ [m] }

/-- A status of a call: no workgroup ended. -/
def Status.call (code node : Nat) (detail : W64) : Status := ⟨code, node, 0, detail, 0, 0, 0⟩

/-! ### The end of a launch -/

/-- A launch may end: every node has completed, or it was terminated and none of its workgroups runs or is saved. -/
def Launch.over (l : Launch) : Bool :=
  !l.closed && (if l.status.isSome then l.nodes.all (fun n => n.running == 0) else l.nodes.all (fun n => n.complete))

/-- End a launch: its time record, then its status record (23 R343, 21 R315). -/
def closeLaunch (n : Nat) (s : State) : State :=
  match SMap.get none s.launches n with
  | none => s
  | some l =>
    let l := l.chargeTo (s.categoryOf n) s.time false
    let st := l.status.getD (Status.call 0 0 0)
    let s := s.updLaunch n (fun _ => { l with closed := true })
    let s := if l.timeAddr = 0 then s else writeVa l.asid l.timeAddr (timeRecord l.start s.time l st.code) s
    writeStatus l.mailbox l.asid l.statAddr st s

/-- End every launch that may end. -/
def closeAll (s : State) : State :=
  (s.launches.filterMap (fun e => match e.2 with
    | some l => if l.over then some e.1 else none
    | none => none)).foldl (fun s n => closeLaunch n s) s

/-- Readiness, pools and pre-emption, and the end of launches, until nothing more follows. -/
def resettle (s : State) : State := (List.range (s.launches.length + 1)).foldl (fun s _ => closeAll (settle s)) s

end Sys2Proof.Machine
end

