-- ==== Sys2Proof/Machine/Clock.lean ====
section
/-! DEFINITION. The passing of a clock on every die (00 R5): what is charged for it (23 R344, R372, 25 R386), the clocks, and TIME's slew (25 R379). -/

namespace Sys2Proof.Machine

/-- The clock of every core that holds a workgroup is charged to the domain: one core clock, 120 pJ (23 R372, 25 R386). Its gangs fetch words and access memory in the domains of their ACCTD (21 R339). -/
def chargeClock (s : State) : State :=
  s.cores.foldl (fun s e => match e.2.wg with
    | some w => w.gangs.foldl (fun s g => if g.2.done then s else s.markTraffic g.2.acctd)
        (((s.charge w.domain 0 1).spend w.domain 1200).markTraffic w.domain)
    | none => s) s

/-- Every die's clock advances by one: all dies use one frequency (25 R385). -/
def advance (s : State) : State := { s with clock := SMap.ofFn 0 4 (fun d => SMap.get 0 s.clock d + 1) }

/-- Slew TIME by one nanosecond when 10 µs have passed since the last; `t` is TIME before this clock, below which TIME never falls (25 R379). -/
def slewTime (t : W64) (s : State) : State :=
  if s.slew = 0 ∨ s.time.toNat < s.slewAt.toNat + 10000 then s
  else if 0 < s.slew then
    { s with timeBase := (s.timeBase.1, s.timeBase.2 + 1), slew := s.slew - 1, slewAt := s.time + 1 }
  else if s.time = t then s
  else { s with timeBase := (s.timeBase.1, s.timeBase.2 - 1), slew := s.slew + 1, slewAt := s.time - 1 }

/-- The clock of die 0 lies inside a nanosecond of TIME. -/
def State.midNs (s : State) : Bool :=
  (SMap.get 0 s.clock 0 - s.timeBase.1).toNat * 40 % (3 * s.fstep) != 0

/-- Every launch that has not ended is charged up to now; `cats` gives the category that held (23 R344). -/
def chargeLaunches (cats : Nat → Nat) (s : State) : State :=
  { s with launches := s.launches.map (fun e => (e.1, e.2.map (fun l =>
      if l.closed then l else l.chargeTo (cats e.1) s.time s.midNs))) }

/-- One clock passes (log 3); none in OFF, where the module is without power (25 R384). -/
def tick (s : State) : State :=
  if s.pstate = .off then s else chargeLaunches s.categoryOf (slewTime s.time (advance (chargeClock s)))

/-- Several clocks pass. -/
def ticks : Nat → State → State
  | 0, s => s
  | n + 1, s => ticks n (tick s)

end Sys2Proof.Machine
end

