-- ==== Sys2Proof/Machine/Block.lean ====
section
/-! DEFINITION. RREL and the end of its wait (07 R141): the outstanding writes into an extended block. -/

namespace Sys2Proof.Machine

/-- An address lies in the register windows of extended block `block` of the quadrant of a gang. -/
def inBlock (s : State) (core target gang block : Nat) (a : W64) : Bool :=
  match placeOf s core a with
  | .chip k win off =>
    let n := if win = 2 then off / 4 else off
    k == target && (win == 2 || win == 3) && (regSpot n).1 == gang % 4 && (regSpot n).2.1 == 4 + block
  | _ => false

/-- A copy command with its index vector as it stands now, when it has not read it yet (19 R290). -/
def CopyCmd.indexed (s : State) (core : Nat) (c : CopyCmd) : CopyCmd :=
  if c.kind = .cpy ∨ c.idx ≠ [] then c
  else { c with idx := (List.range (gdCount c.desc)).map (fun i => BitVec.ofNat 32 (s.readNum core (gdIdx c.desc + BitVec.ofNat 64 (4 * i)) 4)) }

/-- Whether a copy command still has a unit to land in the block of a gang. -/
def CopyCmd.writesBlock (s : State) (core : Nat) (c : CopyCmd) (target gang block : Nat) : Bool :=
  let c := c.indexed s core
  (List.range c.units).any (fun u => !c.has u && (c.moves u).any (fun m => (bytesOf m.2.1 m.2.2).any (inBlock s core target gang block)))

/-- Whether a matrix command is an ACCST that writes into the block of a gang. -/
def MatCmd.writesBlock (s : State) (core : Nat) (c : MatCmd) (target gang block : Nat) : Bool :=
  c.kind == .accst && (covered c.mapA).any (fun e =>
    (bytesOf (tAddr c.mapA e.1 e.2) (fmtSize (mpFmt c.mapA))).any (inBlock s core target gang block))

/-- A write into v64 to v127 of the gang is outstanding: a load, or a command of an engine of any core (07 R141). -/
def writesOut (s : State) (core gang : Nat) : Bool :=
  let g := s.gangAt core gang
  g.loads.any (fun p => !p.scalar && decide (64 < p.reg + p.n)) ||
  (match g.ext with
    | none => false
    | some b => s.cores.any (fun e => match e.2.wg with
      | some w => w.cq.any (fun c => c.writesBlock s e.1 core gang b) || w.mq.any (fun c => c.writesBlock s e.1 core gang b)
      | none => false))

/-- RREL. -/
def execRrel (s : State) : Res :=
  issue s (fun cx => .ok (
    if cx.g.ext.isNone then retire cx s
    else if writesOut s cx.core cx.gang then waitAt cx .rrel s
    else retire cx (dropBlock cx.core cx.gang s)))

/-- BLOCK_RETURN: the writes that an RREL waits for have finished. -/
def execBlockReturn (core gang split : Nat) (s : State) : Res :=
  let g := s.gangAt core gang
  .next (if g.waitOf split = .rrel && g.mayWake split && !writesOut s core gang then
      (dropBlock core gang s).updGang core gang (fun g => g.release split)
    else s)

end Sys2Proof.Machine
end

