-- ==== Sys2Proof/Machine/Sched.lean ====
section
/-! DEFINITION. The graph scheduler (21 R323 to R332): dispatch and restore, ageing, coalescing, context save, and the exit of gangs and the end of workgroups (07 R135). -/

namespace Sys2Proof.Machine

/-! ### Launching workgroups (01 R15, 21 R325, R326) -/

/-- Role of gang `i`: COPY, MATRIX, VECTOR in this order (01 R13). -/
def Kernel.role (k : Kernel) (i : Nat) : Role := if i < k.ncopy then .copy else if i < k.ncopy + k.nmat then .matrix else .vector

/-- The split of a gang at launch: every slice at offset 0 (01 R15, R16). -/
def launchSplit (k : Kernel) (clock : Nat) : Split :=
  { slices := BitVec.ofNat 8 (2 ^ k.slices - 1), path := none, lanes := k.lanes, pc := 0, nextPlane := 0, replay := none, pfx := [],
    skip := [], chain := [], stall := 0, wait := .none, waitStart := 0, waitFirst := 0, waitPlane := none, waitTag := none, stopped := false,
    lastIssue := SMap.ofFn 0 4 (fun _ => clock) }

/-- A gang at launch. -/
def launchGang (k : Kernel) (i : Nat) (args : List W64) (domain permit : BitVec 8) (clock : Nat) : Gang :=
  { Gang.empty with role := k.role i, s := SMap.canon 0 ((args.zipIdx).map (fun a => (a.2 + 1, a.1))), splits := [launchSplit k clock],
                    acctd := domain, permit := permit, lastIssue := clock }

/-- A workgroup at launch, without its gangs' permit (19 R291 for its barriers). -/
def launchWg (l : Launch) (launch node : Nat) (n : Node) (rank level clock : Nat) : Workgroup :=
  { Workgroup.empty with
    launch := launch, node := node, rank := rank, clrank := if n.cluster then rank % 4 else 0, group := if n.cluster then rank / 4 else 0,
    cluster := n.cluster, asid := l.asid, priv := n.priv, domain := n.domain, tenant := l.tenant, mailbox := l.mailbox,
    kernel := n.kernel, level := level, dispatched := clock,
    bars := SMap.ofFn Barrier.empty 16 (fun _ => { Barrier.empty with members := BitVec.ofNat 16 (2 ^ n.kernel.gangs - 1) }) }

/-- What the gangs of a workgroup know at its launch: the writes of the workgroups that have ended and of what lies outside the cores (log 107). -/
def State.launchKnow (s : State) : Know := s.ended.upTo outer s.writes

/-- Put a new workgroup on a core: scratchpad bytes outside `scr` and the accumulators read zero, and the core fetches afresh (21 R325, 17 R259, 11 R207). Beside what a launch knows, its gangs know `know`. -/
def placeWg (core : Nat) (w : Workgroup) (args : List W64) (scr : List Byte) (know : Know) (s : State) : State :=
  let permit := s.permitOf w (dieOf core)
  let clock := (s.clockAt core).toNat
  let w := { w with gangs := SMap.ofFn Gang.empty w.kernel.gangs (fun i => { launchGang w.kernel i args w.domain permit clock with know := s.launchKnow.join know }) }
  let k := s.coreAt core
  let scr := SMap.canon 0 ((scr.zipIdx).map (fun b => (b.2, b.1)))
  forgetPad core (s.setCore core { k with wg := some w, store := { Store.empty with scr := scr }, racq := [], ibuf := s.mem })

/-- The launch counts a dispatched workgroup, and its node the next rank. -/
def countDispatch (launch node : Nat) (s : State) : State :=
  s.updLaunch launch (fun l =>
    { l with wgs := min (l.wgs + 1) (2 ^ 32 - 1),
             nodes := l.nodes.modify node (fun n => { n with nextRank := n.nextRank + 1, running := n.running + 1 }) })

/-- Dispatch one rank of a node onto a core. -/
def launchOn (launch node : Nat) (n : Node) (l : Launch) (level rank core : Nat) (args : List W64) (scr : List Byte) (know : Know) (s : State) : State :=
  countDispatch launch node (placeWg core (launchWg l launch node n rank level (s.clockAt core).toNat) args scr know s)

/-- Entry `i` leaves the pool. -/
def State.dropEntry (s : State) (i : Nat) : State := { s with ready := s.ready.eraseIdx i }

/-- The launch edge of a record-driven workgroup (19 R309): it takes a serial, and the gangs' BLAME stays 0. -/
def launchEdge (core node : Nat) (w : Workgroup) (from_ : LastArr) (s : State) : State :=
  let die := dieOf core
  let b := s.edgeBuf die
  let serial := b.serials + 1
  let e : Edge := { relclk := s.clockAt core, arrclk := from_.clock, ptop := from_.top, ctop := 0, cons := gangAgent core 0,
                    prod := from_.agent.toNat % 2 ^ 32, obj := objWord (die * Config.coresPerDie) 2 node, pred := from_.blame,
                    id := BitVec.ofNat 64 (s.devid * 2 ^ 44 + die * 2 ^ 42 + serial % 2 ^ 42) }
  let s := s.setEdgeBuf die { b with serials := serial }
  if b.en && s.edgeVisible w b.holder then putEdge die e s else s

/-- Dispatch a batch of `m` records of a record-driven node (21 R325), whose EMITs the workgroup acquires; the space that it frees goes to the EMITs that wait for it (19 R305). -/
def launchBatch (launch node : Nat) (n : Node) (l : Launch) (level m core : Nat) (s : State) : State :=
  let at_ := n.qbase.toNat + n.freed % n.qsize * n.rsize
  let bytes := (List.range (m * n.rsize)).map (fun i => SMap.get 0 s.mem (at_ + i))
  let know := (n.recKnow.take m).foldl Know.join []
  let s := launchOn launch node n l level n.nextRank core (BitVec.ofNat 64 m :: n.args.drop 1) bytes know s
  let by_ : LastArr := ⟨BitVec.ofNat 64 (gangAgent core 0), s.clockAt core, 0, 0⟩
  let s := s.updLaunch launch (fun l => { l with nodes := l.nodes.modify node (fun n =>
    { n with freed := n.freed + m, fired := n.fired - m, waiting := n.waiting.drop m, recKnow := n.recKnow.drop m, freedBy := by_ }) })
  emitSpace launch node by_ (launchEdge core node (s.wgAt core) ((n.waiting[m - 1]?).getD LastArr.zero) s)

/-- A restored gang: latches stay invalid, its enables meet the permit of the die, a SYNC is due, a RACQ queues again (21 R332, 07 R140, 23 R357). ACCTD is not saved, and stands as at launch (log 69). -/
def restoreGang (permit domain : BitVec 8) (g : Gang) : Gang :=
  { g with permit := permit, traceEn := g.traceEn &&& permit, syncDue := true, acctd := domain }

/-- Restore a saved workgroup onto a core (21 R331). Services of it that the Puone cores have not ended end now, since the instruction or the command goes on (23 R344, log 99). A CPY whose formation the pre-emption has held up is formed. -/
def restoreOn (x : Saved) (level core : Nat) (s : State) : State :=
  let w := { x.wg with level := level, dispatched := (s.clockAt core).toNat, preempt := false }
  let w := w.mapGangs (fun _ g => restoreGang (s.permitOf w (dieOf core)) w.domain g)
  let s := endSaved x s
  formCheck core (forgetPad core (s.setCore core { s.coreAt core with wg := some w, store := x.store, racq := [], ibuf := s.mem }))

/-- DISPATCH (21 R328): the head entry of a die takes its cores. -/
def execDispatch (die : Nat) (s : State) : Res :=
  .next (match s.headEntry die with
    | none => s
    | some (e, i) =>
      match s.eligible die e, SMap.get none s.launches e.launch, s.nodeOf e.launch e.node with
      | some cores, some l, some n =>
        match e.job with
        | .fixed =>
          let s := (cores.zipIdx).foldl (fun s c => launchOn e.launch e.node n l e.level (n.nextRank + c.2) c.1 n.args [] [] s) s
          resettle (if n.nextRank + cores.length < n.count then s else s.dropEntry i)
        | .batch m => resettle ((launchBatch e.launch e.node n l e.level m (cores.headD 0) s).dropEntry i)
        | .saved ids =>
          let s := ((ids.zip cores).foldl (fun s c => match SMap.get none s.saved c.1 with
            | some x => { restoreOn x e.level c.2 s with saved := SMap.set none s.saved c.1 none }
            | none => s) s)
          resettle (s.dropEntry i)
      | _, _, _ => s)

/-! ### Ageing and coalescing -/

/-- AGE[n] in µs (21 R327). -/
def State.ageOf (s : State) (n : Nat) : Nat := SMap.get 500 s.age n

/-- An entry has waited at its level for longer than AGE. -/
def aged (s : State) (e : Entry) : Bool :=
  match e.since with
  | some t => decide (e.level < 6) && decide (s.ageOf e.level * 1000 < (s.time - t).toNat)
  | none => false

/-- AGEING (21 R327): the entry rises one level and starts its wait again. -/
def execAgeing (i : Nat) (s : State) : Res :=
  .next (match s.ready[i]? with
    | some e =>
      if aged s e then resettle { s with ready := s.ready.set i { e with level := e.level + 1, since := some s.time } } else s
    | none => s)

/-- TIME at which the oldest record that no batch holds was appended. -/
def State.recordTime (s : State) (n : Node) : Option W64 :=
  (n.waiting[n.fired]?).map (fun r => s.timeAt (r.agent.toNat / 2 ^ 30 % 4) r.clock)

/-- COALESCE_TIMEOUT (21 R325). -/
def execCoalesceTimeout (launch node : Nat) (s : State) : Res :=
  .next (match SMap.get none s.launches launch, s.nodeOf launch node with
    | some l, some n =>
      match s.recordTime n with
      | some t =>
        if n.mode1 && n.timeout != 0 && l.status.isNone && !n.complete && decide (n.timeout * 1000 < (s.time - t).toNat) &&
            operandsFree s launch node l.asid n then
          resettle (fireBatch launch node n l.stamp s)
        else s
      | none => s
    | _, _ => s)

/-! ### Pre-emption and context save (21 R331, R332) -/

/-- Split `i` of a gang stands where a save may find it (21 R331): it waits, it is stopped, its path is at the join, or it is at a latch-free point outside a prefix group; it stands at an engine instruction whose queue is full; its own instruction waits for service; or it is the one whose event has stopped the gang for a debugger (log 55). -/
def saveable (s : State) (core gang : Nat) (g : Gang) (i : Nat) (sp : Split) : Bool :=
  sp.held g || latchFree s core g sp || g.dbgStop.elim false (fun d => d.2 == i) || g.service.elim false (fun v => v.split == i) || atFullQueue s core gang sp

/-- A member is ready to be saved: its splits stand, its loads, transform commands and running matrix command have completed, but for an MMAC that waits for another rank, and a running copy command has stopped. -/
def memberSaveable (s : State) (core : Nat) : Bool :=
  let w := s.wgAt core
  w.preempt && !w.ending && w.xq.isEmpty && (w.mq.head?.elim true (fun c => c.state != .running) || matrixPaused s core) &&
  (w.cq.head?.elim true (fun c => c.state != .running)) &&
  w.gangs.all (fun e => e.2.loads.isEmpty && (e.2.splits.zipIdx).all (fun x => saveable s core e.1 e.2 x.2 x.1))

/-- A split as it is saved: one in RACQ stands at its RACQ again, and the releases for which one has passed its wait lose their counts (11 R211). -/
def Split.saved (sp : Split) : Split :=
  match sp.wait with
  | .passed obj by_ rels => { sp with wait := .passed obj by_ (rels.map RelInfo.uncounted) }
  | _ => sp.ungranted

/-- A gang as it is saved: no latches, no race counts, no last-arriver record of a counter, no progress record of a product that has retired, for the table of 21 R332 names none (log 98); a service or its fault comes again. What it knows and the releases it holds stay, without their counts (11 R211). -/
def saveGang (g : Gang) : Gang :=
  { g.mapSplits Split.saved with
    x := [], cRel := g.cRel.map (fun e => { e with rel := e.rel.uncounted }), cLast := [], mrec := MRec.zero, rc := 0, acq := [], vr := [],
    relFence := g.relFence.map RelInfo.uncounted, seen := g.seen.map RelInfo.uncounted, service := none, yieldAt := none, acctd := 0 }

/-- A barrier and a ring as they are saved: the releases that they hold lose their counts (11 R211). -/
def saveBar (b : Barrier) : Barrier :=
  { b with rel := b.rel.map RelInfo.uncounted, relDone := SMap.mapV [] (fun _ rs => rs.map RelInfo.uncounted) b.relDone }
def saveRing (r : Ring) : Ring :=
  { r with slot := SMap.mapV Slot.zero (fun _ x => { x with rel := x.rel.map RelInfo.uncounted }) r.slot }

/-- Values in memory that carry releases of a workgroup's gangs, as its save leaves them: without those counts (11 R211). -/
def Carried.uncount (own : RelInfo → Bool) (m : Carried) : Carried :=
  SMap.mapV (0, []) (fun _ e => (e.1, e.2.map (fun r => if own r then r.uncounted else r))) m

/-- A copy command as it is saved: it has stopped at its first unit not landed (19 R280). -/
def saveCopy (c : CopyCmd) : CopyCmd := { c with state := .queued, faults := [] }

/-- A matrix command as it is saved: one that had stopped goes on from its progress vector (17 R270). -/
def saveMatrix (c : MatCmd) : MatCmd := if c.state = .queued then c else { c with state := .running, faults := [] }

/-- The context of a workgroup (21 R332). -/
def saveOf (s : State) (core : Nat) : Saved :=
  let w := s.wgAt core
  let st := (s.coreAt core).store
  let keep := fun (k : Nat) => decide (k < w.kernel.scratch)
  let w := { w with mq := w.mq.map saveMatrix, cq := w.cq.map saveCopy, cbLast := LastArr.zero,
                    cbRel := w.cbRel.map RelInfo.uncounted, cbRelDone := w.cbRelDone.map RelInfo.uncounted,
                    bars := SMap.mapV Barrier.empty (fun _ b => saveBar b) w.bars, rings := SMap.mapV Ring.zero (fun _ r => saveRing r) w.rings }
  { wg := w.mapGangs (fun _ g => saveGang g),
    store := { scr := st.scr.filter (fun e => keep e.1), poison := st.poison.filter (fun e => keep e.1), tags := [],
               rel := Carried.uncount (fun _ => true) (st.rel.filter (fun e => keep e.1)), acc := st.acc, accBad := st.accBad },
    services := w.services }

/-- The registers of the blocks a workgroup's gangs hold stay in the core as they stand (log 11). -/
def parkAll (core : Nat) (s : State) : State :=
  (s.wgAt core).gangs.foldl (fun s e =>
    if e.2.done then s
    else
      let s := parkBlock core e.1 (e.1 / 4) s
      e.2.ext.elim s (fun b => parkBlock core e.1 (4 + b) s)) s

/-- Free a core. -/
def freeCoreOf (core : Nat) (s : State) : State := s.setCore core { s.coreAt core with wg := none, racq := [] }

/-- Save one member: its context is kept under a serial number, with the services that the Puone cores have still to end (23 R344), and the core is free. -/
def saveMember (core : Nat) (s : State) : State :=
  let x := saveOf s core
  let n := s.nextSaved
  let s := freeCoreOf core (parkAll core s)
  { s with saved := SMap.set none s.saved n (some x), nextSaved := n + 1, gRel := Carried.uncount (RelInfo.ofWg x.wg) s.gRel }

/-- CONTEXT_SAVE: the workgroup, or the four of a cluster-mode node together, returns to the ready pool at its level. -/
def execContextSave (core : Nat) (s : State) : Res :=
  let w := s.wgAt core
  let ms := sortBy (fun a b => decide ((s.wgAt a).clrank < (s.wgAt b).clrank)) (s.members core)
  .next (if w.preempt && ms.all (memberSaveable s) then
      let ids := (List.range ms.length).map (fun i => s.nextSaved + i)
      let s := ms.foldl (fun s c => saveMember c s) (ms.foldl (fun s c => pauseMatrix c s) s)
      let stamp := (SMap.get none s.launches w.launch).elim 0 (fun l => l.stamp)
      resettle { s with ready := s.ready ++ [⟨w.launch, w.node, .saved ids, dieOf core, w.level, none, stamp⟩] }
    else s)

/-! ### Exit (07 R135, 21 R323) -/

/-- An MMAC of a live member waits at its head for a member that has ended (17 R273). -/
def mmacOrphaned (s : State) (core : Nat) : Bool :=
  let done := fun (c : Nat) => (s.wgAt c).gangs.all (fun e => e.2.done)
  (s.members core).any done &&
  (s.members core).any (fun c => !done c && (matrixHead s c).elim false (fun d => d.kind == .mmac && d.state == .queued))

/-- The node ends with CLUSTER_EXIT when an MMAC is orphaned. -/
def mmacCheck (core : Nat) (s : State) : State :=
  if mmacOrphaned s core && !(s.wgAt core).ending then
    let w := s.wgAt core
    (s.members core).foldl (fun s c => if (s.wgAt c).ending then s else stopCore c s)
      (endLaunch s w.launch ⟨Cause.code .clusterExit, w.node, w.rank, 0, 0, 0, 0⟩)
  else s

/-- All that the gangs of a workgroup know, and all that they and their commands have written. -/
def wgKnow (s : State) (core : Nat) : Know :=
  let w := s.wgAt core
  (List.range w.kernel.gangs).foldl (fun k g =>
    [0, 1, 2].foldl (fun k cls => k.upTo (w.agent (engineSlot cls g)) s.writes) (k.join (knowOf s core g))) []

/-- The workgroups of a node whose gangs have all exited end, and their cores are free; a cluster-mode node's end together (11 R187). -/
def endWorkgroups (core : Nat) (s : State) : State :=
  let ms := s.members core
  if ms.all (fun c => (s.wgAt c).gangs.all (fun e => e.2.done)) then
    let w := s.wgAt core
    let s := ms.foldl (fun s c => freeCoreOf c { s with ended := s.ended.join (wgKnow s c) }) s
    let s := s.updLaunch w.launch (fun l => { l with nodes := l.nodes.modify w.node (fun n =>
      { n with running := n.running - ms.length, ended := n.ended + ms.length }) })
    let s := match s.nodeOf w.launch w.node with
      | some n => if !n.mode1 && n.ended == n.count && !n.complete then completeNode w.launch w.node s else s
      | none => s
    resettle s
  else s

/-- The gang's exit may complete: no live lane, no outstanding load, every counter zero. -/
def Gang.exitReady (g : Gang) (lanes : W32) : Bool :=
  !g.done && (lanes &&& ~~~g.exited) == 0 && g.loads.isEmpty && (List.range 4).all (fun k => SMap.get 0 g.c k == 0)

/-- GANG_EXIT_COMPLETE: the block and the quadrant slot are free; an engine error that no CWAIT raised ends the workgroup (19 R303), in the name of the gang that issued or formed the command (21 R315). In a workgroup that ends, a gang whose splits have all come to latch-free points is at its end (21 R340). -/
def execGangExitComplete (core gang : Nat) (s : State) : Res :=
  let w := s.wgAt core
  let g := if w.ending then (s.gangAt core gang).stopping s core gang w else s.gangAt core gang
  .next (if decide (gang < w.kernel.gangs) && g.exitReady w.kernel.lanes then
      let s := s.setGang core gang g
      match g.cErr with
      | e :: _ =>
        let same := g.cErr.filter (fun x => x.cause == e.cause)
        terminate core (engineStatus e.cause e.gang (lowestAddr (same.map (fun x => ⟨x.low, x.cause, false⟩)))) s
      | [] =>
        let s := parkBlock core gang (gang / 4) (dropBlock core gang s)
        let s := s.updGang core gang (fun g => { g with done := true })
        endWorkgroups core (mmacCheck core s)
    else s)

end Sys2Proof.Machine
end

