-- ==== Sys2Proof/Machine/Shake.lean ====
section
/-! DEFINITION. SHAKE256 (25 R380), as FIPS 202 defines it; the spec names the function and gives no definition (log 18). PRESUMED. -/

namespace Sys2Proof.Machine

/-- The 25 lanes of the Keccak state, lane (x, y) at index x + 5y. -/
abbrev Lanes := List W64

def Lanes.at (a : Lanes) (x y : Nat) : W64 := (a[x % 5 + 5 * (y % 5)]?).getD 0

/-- The lanes given by a function of x and y. -/
def Lanes.of (f : Nat → Nat → W64) : Lanes := (List.range 25).map (fun i => f (i % 5) (i / 5))

/-- The lane ρ visits at place `n` of its walk from (1, 0): (x, y) is followed by (y, 2x + 3y). -/
def rhoLane : Nat → Nat × Nat
  | 0 => (1, 0)
  | n + 1 => ((rhoLane n).2 % 5, (2 * (rhoLane n).1 + 3 * (rhoLane n).2) % 5)

/-- ρ's rotation of lane (x, y): the triangular number of its place in the walk; the origin, which the walk never meets, stays. -/
def rhoTurn (x y : Nat) : Nat :=
  match (List.range 24).find? (fun n => rhoLane n == (x % 5, y % 5)) with
  | some n => (n + 1) * (n + 2) / 2 % 64
  | none => 0

/-- The feedback register behind ι after `n` shifts: x^n modulo x^8 + x^6 + x^5 + x^4 + 1. -/
def iotaReg : Nat → Nat
  | 0 => 1
  | n + 1 => if iotaReg n < 128 then 2 * iotaReg n else (2 * iotaReg n) ^^^ 0x171

/-- The constant ι adds in round `r`: bit 2^j - 1 is the low bit of the register after j + 7r shifts. -/
def iotaMask (r : Nat) : W64 :=
  BitVec.ofNat 64 ((List.range 7).foldl (fun n j => n + iotaReg (j + 7 * r) % 2 * 2 ^ (2 ^ j - 1)) 0)

/-- The parity of a column. -/
def Lanes.column (a : Lanes) (x : Nat) : W64 := (List.range 5).foldl (fun p y => p ^^^ a.at x y) 0

/-- θ adds to each lane the parity of the column before it and, turned by one, of the column after it. -/
def keccakTheta (a : Lanes) : Lanes :=
  let p := (List.range 5).map a.column
  let par := fun (x : Nat) => p.getD (x % 5) 0
  Lanes.of (fun x y => a.at x y ^^^ par (x + 4) ^^^ (par (x + 1)).rotateLeft 1)

/-- ρ turns every lane and π sends lane (x, y) to (y, 2x + 3y), so that (x, y) receives lane (x + 3y, x). -/
def keccakRhoPi (a : Lanes) : Lanes :=
  Lanes.of (fun x y => (a.at (x + 3 * y) x).rotateLeft (rhoTurn (x + 3 * y) x))

/-- Round `r`: θ, ρ and π, then χ along the rows with ι at the origin. -/
def keccakRound (a : Lanes) (r : Nat) : Lanes :=
  let b := keccakRhoPi (keccakTheta a)
  Lanes.of (fun x y =>
    let v := b.at x y ^^^ (~~~(b.at (x + 1) y) &&& b.at (x + 2) y)
    if x = 0 ∧ y = 0 then v ^^^ iotaMask r else v)

/-- Keccak-f[1600]: 24 rounds. -/
def keccak (a : Lanes) : Lanes := (List.range 24).foldl keccakRound a

/-- A block of 136 bytes as 17 lanes, little-endian. -/
def lanesOfBlock (bs : List Byte) : Lanes :=
  Lanes.of (fun x y => BitVec.ofNat 64 ((List.range 8).foldl (fun n i => n + ((bs[8 * (x + 5 * y) + i]?).getD 0).toNat * 2 ^ (8 * i)) 0))

/-- The message padded for SHAKE to whole blocks of 136 bytes. -/
def padShake (m : List Byte) : List Byte :=
  let k := 136 - m.length % 136
  if k = 1 then m ++ [0x9F] else m ++ [0x1F] ++ List.replicate (k - 2) 0 ++ [0x80]

/-- The first 64 bytes of SHAKE256 of a message. -/
def shake256 (m : List Byte) : List Byte :=
  let p := padShake m
  let st := (List.range (p.length / 136)).foldl (fun (a : Lanes) i =>
    let b := lanesOfBlock ((p.drop (136 * i)).take 136)
    keccak (Lanes.of (fun x y => a.at x y ^^^ b.at x y))) (List.replicate 25 0)
  (List.range 64).map (fun i => BitVec.ofNat 8 ((st[i / 8]?).getD 0 >>> (8 * (i % 8))).toNat)

end Sys2Proof.Machine
end

