-- ==== Sys2Proof/Machine/Calls.lean ====
section
/-! DEFINITION. Host calls (21 R312 to R314, R320 to R322): doorbells, LOAD of a .dvo object (05 R116 to R122), LAUNCH of a step graph, FREE. -/

namespace Sys2Proof.Machine

/-! ### Mailboxes and call records -/

def State.mailbox (s : State) (m : Nat) : Mailbox := SMap.get Mailbox.empty s.mail m

def State.setMailbox (s : State) (m : Nat) (b : Mailbox) : State := { s with mail := SMap.set Mailbox.empty s.mail m b }

/-- DOORBELL (21 R312, R313, 25 R384): the write is stamped and queued; an unbound mailbox counts it and ignores it; in DEEP it starts the exit to ACTIVE. Before boot has ended, and in OFF, the mailboxes accept nothing. -/
def execDoorbell (m : BitVec 6) (addr : W64) (host : Bool) (s : State) : Res :=
  .next (if s.boot ≠ .done ∨ s.pstate = .off then s
    else
      let b := s.mailbox m.toNat
      let s := if s.pstate = .deep then { s with preq := .active } else s
      match b.bound with
      | none => s.setMailbox m.toNat { b with accepted := b.accepted + 1 }
      | some _ => s.setMailbox m.toNat { b with calls := b.calls ++ [⟨addr, host, SMap.get 0 s.clock 0, s.time⟩] })

/-- A call record (21 R313). -/
structure CallRec where
  op : Nat
  slot : Nat
  addr : W64
  stat : W64
  timeAddr : W64
  /-- well formed but for the value of OP -/
  ok : Bool
  deriving DecidableEq, Repr

/-- A field of a number as a 64-bit value. -/
def w64At (x lo n : Nat) : W64 := BitVec.ofNat 64 (bitsAt x lo n)

/-- The call record that a doorbell names, in host or in device memory. -/
def State.callRec (s : State) (c : Call) : CallRec :=
  let bs := (List.range 64).map (fun i => s.byteAt (if c.host then .host (c.addr.toNat + i) else .dev (c.addr.toNat + i)))
  let x := numOf bs
  let op := bitsAt x 0 8
  { op := op, slot := bitsAt x 16 16, addr := w64At x 64 64, stat := w64At x 128 64, timeAddr := w64At x 192 64,
    ok := c.addr.toNat % 64 == 0 && ((op != 2 && op != 3) || decide (bitsAt x 16 16 < 256)) && bitsAt x 256 256 == 0 && bitsAt x 32 32 == 0 && bitsAt x 8 8 == 0 &&
      bitsAt x 128 64 % 32 == 0 && bitsAt x 192 64 % 64 == 0 && (op == 2 || bitsAt x 192 64 == 0) }

/-- A request record (21 R317), read in the mailbox's address space. -/
structure Request where
  code : Nat
  arg0 : Nat
  arg1 : Nat
  arg2 : Nat
  arg3 : Nat
  ok : Bool
  deriving DecidableEq, Repr

def State.requestRec (s : State) (asid : Nat) (a : W64) : Request :=
  let x := numOf (readVa s asid a 64)
  { code := bitsAt x 0 8, arg0 := bitsAt x 32 32, arg1 := bitsAt x 64 64, arg2 := bitsAt x 128 64, arg3 := bitsAt x 192 64,
    ok := a.toNat % 64 == 0 && reachable s asid a 64 && bitsAt x 256 256 == 0 && bitsAt x 8 24 == 0 }

/-- The driver can take calls: boot has ended and the device is in ACTIVE or IDLE. -/
def State.takesCalls (s : State) : Bool := s.boot == .done && (s.pstate == .active || s.pstate == .idle)

/-- A call that the driver takes: the mailbox's binding, the call, its record. -/
structure Taken where
  b : Binding
  call : Call
  r : CallRec
  deriving DecidableEq, Repr

/-- The next call of a mailbox. -/
def State.nextCall (s : State) (m : Nat) : Option Taken :=
  if !s.takesCalls then none
  else
    match (s.mailbox m).bound, (s.mailbox m).calls with
    | some b, c :: _ => some ⟨b, c, s.callRec c⟩
    | _, _ => none

/-- Take the next call: ACCEPTED counts it, and what the driver reads and writes for it is traffic of the binding's domain (log 20). -/
def takeCall (m : Nat) (s : State) : State :=
  let b := s.mailbox m
  (b.bound.elim s (fun x => s.markTraffic x.domain)).setMailbox m { b with accepted := b.accepted + 1, calls := b.calls.drop 1 }

/-- Answer a call with a status. -/
def answer (m : Nat) (t : Taken) (st : Status) (s : State) : State := writeStatus m t.b.asid t.r.stat st s

def BAD_OBJECT : Nat := 0x41
def NO_VARIANT : Nat := 0x40
def RESOURCES : Nat := 0x42
def SECURITY : Nat := 0x43

/-! ### Objects (05 R116 to R122) -/

/-- A field of an object: `n` bytes at file offset `off`. -/
structure Image where
  asid : Nat
  addr : W64
  deriving DecidableEq, Repr

def Image.at (f : Image) (s : State) (off n : Nat) : Nat := numOf (readVa s f.asid (f.addr + BitVec.ofNat 64 off) n)

/-- The counts of the five tables. -/
structure Header where
  kernels : Nat
  variants : Nat
  datas : Nat
  regions : Nat
  launches : Nat
  deriving DecidableEq, Repr

def parseHeader (s : State) (f : Image) : Option Header :=
  let x := f.at s 0 64
  if bitsAt x 0 32 = 0x004F5644 ∧ bitsAt x 32 16 = 1 ∧ bitsAt x 48 16 = 0 ∧ bitsAt x 224 288 = 0 then
    some ⟨bitsAt x 64 32, bitsAt x 96 32, bitsAt x 128 32, bitsAt x 160 32, bitsAt x 192 32⟩
  else none

/-- File offsets of the tables. -/
def Header.vtable (h : Header) : Nat := 64 + 64 * h.kernels
def Header.dtable (h : Header) : Nat := h.vtable + 32 * h.variants
def Header.rtable (h : Header) : Nat := h.dtable + 32 * h.datas
def Header.ltable (h : Header) : Nat := h.rtable + 32 * h.regions
def Header.size (h : Header) : Nat := h.ltable + 144 * h.launches

/-- A kernel table entry: its shape, and its first variant and their number (05 R118). The spec gives LOGSTRIDE no upper bound; the model refuses one above 47, which no plane set in device memory has (log 70). -/
def parseKernel (h : Header) (x : Nat) : Option (Kernel × Nat × Nat) :=
  let planes := bitsAt x 424 8
  let ls := bitsAt x 432 8
  let gangs := bitsAt x 392 8 + bitsAt x 400 8 + bitsAt x 408 8
  let vf := bitsAt x 352 16
  let vc := bitsAt x 368 16
  let to_ := bitsAt x 480 32
  if bitsAt x 256 96 = 0 ∧ bitsAt x 384 8 = 0 ∧ bitsAt x 442 6 = 0 ∧ (planes = 1 ∨ planes = 2 ∨ planes = 4) ∧
      (if planes = 1 then ls = 0 else 14 ≤ ls ∧ ls < 48) ∧ 1 ≤ bitsAt x 416 8 ∧ bitsAt x 416 8 ≤ 8 ∧ 1 ≤ gangs ∧ gangs ≤ 16 ∧
      vf + vc ≤ h.variants then
    some ({ base := 0, stride := if planes = 1 then 0 else 2 ^ ls, planes := planes, length := 0,
            trapOff := if to_ = 2 ^ 32 - 1 then none else some to_, scratch := bitsAt x 448 32, schk := bitsAt x 441 1 == 1,
            ext := bitsAt x 440 1 == 1, slices := bitsAt x 416 8, ncopy := bitsAt x 392 8, nmat := bitsAt x 400 8,
            nvec := bitsAt x 408 8 }, vf, vc)
  else none

/-- A variant table entry: SIG, MASK, LENGTH, CODEOFF (05 R119). -/
structure VEntry where
  kernel : Nat
  sig : Nat
  mask : Nat
  length : Nat
  off : Nat
  deriving DecidableEq, Repr

def parseVariant (x : Nat) : Option VEntry :=
  if bitsAt x 40 24 = 0 ∧ bitsAt x 104 24 = 0 then
    some ⟨bitsAt x 224 32, bitsAt x 0 40, bitsAt x 64 40, bitsAt x 192 32, bitsAt x 128 64⟩
  else none

/-- A data table entry: address, file offset, size (05 R120). -/
def parseData (x : Nat) : Option (W64 × Nat × Nat) :=
  if bitsAt x 192 64 = 0 then some (w64At x 0 64, bitsAt x 64 64, bitsAt x 128 64) else none

/-- A region table entry (05 R120, 15 R237, R239). -/
def parseRegion (asid : Nat) (domain : BitVec 8) (x : Nat) : Option Region :=
  let w := bitsAt x 192 8
  let base := bitsAt x 0 64
  let pages := bitsAt x 128 32
  let d := bitsAt x 64 64
  if bitsAt x 202 54 = 0 ∧ (w = 1 ∨ w = 2 ∨ w = 4 ∨ w = 8) ∧ d < 2 ^ (8 * w) ∧ base % 65536 = 0 ∧ 1 ≤ pages ∧
      base + pages * 65536 ≤ 2 ^ 57 then
    some { asid := asid, base := BitVec.ofNat 64 base, pages := pages, default := BitVec.ofNat 64 d, logw := BitVec.ofNat 2 (Nat.log2 w),
           skip := bitsAt x 201 1 == 1, check := bitsAt x 200 1 == 1, domain := domain, reserve := bitsAt x 160 32, free := [] }
  else none

/-- A launch table entry is well formed (05 R120); the device uses node records instead. -/
def launchEntryOk (x : Nat) : Bool := bitsAt x 81 47 == 0 && bitsAt x 1088 64 == 0

/-- Two regions share a page of one address space. -/
def Region.overlaps (a b : Region) : Bool :=
  a.asid == b.asid && decide (a.base.toNat < b.base.toNat + b.pages * 65536 ∧ b.base.toNat < a.base.toNat + a.pages * 65536)

/-- A list in which no two entries are related. -/
def noPair {α : Type} (r : α → α → Bool) : List α → Bool
  | [] => true
  | x :: xs => !xs.any (r x) && noPair r xs

/-- A parsed object. -/
structure Parsed where
  kernels : List (Kernel × Nat × Nat)
  variants : List VEntry
  datas : List (W64 × Nat × Nat)
  regions : List Region
  deriving DecidableEq, Repr

/-- Bytes of the plane set of a variant in the file and in memory (05 R119, 01 R31). -/
def codeBytes (k : Kernel) (length : Nat) : Nat := (k.planes - 1) * k.stride + 4 * length

/-- Every variant of a kernel names it, fits its stride, and holds its handler. 05 R118 and R119 give neither the handler's offset nor the plane length a range: a TRAPOFF at or beyond LENGTH and a LENGTH of 0 make the object malformed (DESIGN CHOICE, log 115). -/
def kernelOk (vs : List VEntry) (i : Nat) (k : Kernel × Nat × Nat) : Bool :=
  ((vs.drop k.2.1).take k.2.2).all (fun v =>
    v.kernel == i && decide (1 ≤ v.length) && (k.1.planes == 1 || decide (4 * v.length ≤ k.1.stride)) &&
    (k.1.trapOff.elim true (fun t => decide (t < v.length))))

/-- Parse an object; none when it is malformed (05 R117 to R120, 15 R237, R239). -/
def parseObject (s : State) (f : Image) (domain : BitVec 8) : Option Parsed := do
  guard (reachable s f.asid f.addr 64)
  let h ← parseHeader s f
  guard (reachable s f.asid f.addr h.size)
  let ks ← (List.range h.kernels).mapM (fun i => parseKernel h (f.at s (64 + 64 * i) 64))
  let vs ← (List.range h.variants).mapM (fun i => parseVariant (f.at s (h.vtable + 32 * i) 32))
  let ds ← (List.range h.datas).mapM (fun i => parseData (f.at s (h.dtable + 32 * i) 32))
  let rs ← (List.range h.regions).mapM (fun i => parseRegion f.asid domain (f.at s (h.rtable + 32 * i) 32))
  guard ((List.range h.launches).all (fun i => launchEntryOk (f.at s (h.ltable + 144 * i) 144)))
  guard ((ks.zipIdx).all (fun k => kernelOk vs k.2 k.1))
  guard (noPair Region.overlaps rs)
  pure ⟨ks, vs, ds, rs⟩

/-! ### LOAD (21 R313, R314, 15 R237 to R240, R390) -/

/-- The lowest free slot. -/
def State.freeSlot (s : State) : Option Nat := (List.range 256).find? (fun i => (SMap.get none s.objs i).isNone)

def State.liveRegions (s : State) : List (Nat × Region) := s.regions.filterMap (fun e => e.2.map (fun r => (e.1, r)))

/-- Resources that a LOAD needs before it places anything. -/
def loadFits (s : State) (rs : List Region) : Bool :=
  decide (s.liveRegions.length + rs.length ≤ 4096) && rs.all (fun r => !s.liveRegions.any (fun x => x.2.overlaps r)) &&
  (List.range 4).all (fun d => decide ((rs.map (fun r => r.reserve)).sum ≤ (SMap.get [] s.pool d).length))

/-- The driver's indices for the regions: distinct, free, one for each. -/
def indicesOk (s : State) (n : Nat) (ix : List Nat) : Bool :=
  ix.length == n && decide ix.Nodup && ix.all (fun i => decide (i < 4096) && (SMap.get none s.regions i).isNone)

/-- The driver writes the leaf of every page of a region (15 R237): a leaf that stood there is gone, and the TLBs hold none of its translations (11 R191). -/
def claimPages (asid first pages : Nat) (s : State) : State :=
  { s with leaves := dropRange s.leaves (leafKey asid first) pages,
           tlb := SMap.mapV [] (fun _ ts => ts.filter (fun t => t.asid != asid || decide (t.page + t.pages ≤ first ∨ first + pages ≤ t.page))) s.tlb }

/-- Take a region's reserve from the pools and create it (15 R240). -/
def createRegion (i : Nat) (r : Region) (s : State) : State :=
  let take := fun d => (SMap.get [] s.pool d).take r.reserve
  let free := (List.range 4).foldl (fun m d => SMap.set [] m d (take d)) []
  let pool := (List.range 4).foldl (fun m d => SMap.set [] m d ((SMap.get [] m d).drop r.reserve)) s.pool
  claimPages r.asid (r.base.toNat / 65536) r.pages
    { s with pool := pool, regions := SMap.set none s.regions i (some { r with free := free }) }

/-- Places that the driver has chosen for code and data can hold them: variants aligned to 128 bytes, every byte mapped. -/
def placementOk (s : State) (asid : Nat) (p : Parsed) (bases : List W64) : Bool :=
  bases.length == p.variants.length && bases.all (fun b => b.toNat % 128 == 0) &&
  ((p.variants.zip bases).all (fun v => reachable s asid v.2 (codeBytes (((p.kernels[v.1.kernel]?).map (fun k => k.1)).getD Kernel.empty) v.1.length))) &&
  p.datas.all (fun d => reachable s asid d.1 d.2.2)

/-- Copy code and data into place. -/
def placeImages (f : Image) (p : Parsed) (bases : List W64) (s : State) : Option State := do
  let s ← (p.variants.zip bases).foldlM (fun s v =>
    let k := ((p.kernels[v.1.kernel]?).map (fun k => k.1)).getD Kernel.empty
    copyImage f.asid v.2 (f.addr + BitVec.ofNat 64 v.1.off) (codeBytes k v.1.length) s) s
  p.datas.foldlM (fun s d => copyImage f.asid d.1 (f.addr + BitVec.ofNat 64 d.2.1) d.2.2 s) s

/-- The object of a slot. -/
def objectOf (m : Nat) (b : Binding) (p : Parsed) (c : Placement) : Obj :=
  { mailbox := m, tenant := b.tenant, asid := b.asid, regions := c.regions, pages := c.leaves.map (fun l => l.1),
    kernels := p.kernels.map (fun k =>
      { shape := k.1, variants := (((p.variants.zip c.bases).drop k.2.1).take k.2.2).map (fun v => ⟨v.1.sig, v.1.mask, v.1.length, v.2⟩) }) }

/-- Perform a LOAD that the driver has taken. A placement that cannot hold the object is none the driver makes: the answer is none and nothing happens. -/
def doLoad (m : Nat) (t : Taken) (c : Placement) (s : State) : Option (State × Status) :=
  if !t.r.ok || t.r.op != 1 then some (s, Status.call BAD_OBJECT 0 0)
  else
    let f : Image := ⟨t.b.asid, t.r.addr⟩
    match parseObject s f t.b.domain with
    | none => some (s, Status.call BAD_OBJECT 0 0)
    | some p =>
      match s.freeSlot with
      | none => some (s, Status.call RESOURCES 0 0)
      | some slot =>
        if !loadFits s p.regions then some (s, Status.call RESOURCES 0 0)
        else if !indicesOk s p.regions.length c.regions then none
        else
          let s' := (c.regions.zip p.regions).foldl (fun s r => createRegion r.1 r.2 s) s
          let s' := setLeaves t.b.asid c.leaves s'
          if !placementOk s' t.b.asid p c.bases then none
          else
            match placeImages f p c.bases s' with
            | none => some (s, Status.call RESOURCES 0 0)
            | some s' => some ({ s' with objs := SMap.set none s'.objs slot (some (objectOf m t.b p c)) }, Status.call 0 0 (BitVec.ofNat 64 slot))

/-- A call of the LOAD row: OP 1, or a record whose OP is none of the four. -/
def isLoad (t : Taken) : Bool := t.r.op != 2 && t.r.op != 3 && t.r.op != 4

/-- LOAD. -/
def execLoad (m : BitVec 6) (choice : Placement) (s : State) : Res :=
  .next (match s.nextCall m.toNat with
    | some t =>
      if isLoad t then
        match doLoad m.toNat t choice (takeCall m.toNat s) with
        | some (s', st) => answer m.toNat t st s'
        | none => s
      else s
    | none => s)

/-! ### LAUNCH (21 R314, R320 to R322) -/

/-- A graph header: NNODES, NSUCC, the node array and the successor array (21 R320). -/
structure Graph where
  n : Nat
  nsucc : Nat
  nodes : W64
  succs : W64
  deriving DecidableEq, Repr

def parseGraph (s : State) (asid : Nat) (a : W64) : Option Graph := do
  guard (a.toNat % 64 == 0 && reachable s asid a 64)
  let x := numOf (readVa s asid a 64)
  let g : Graph := ⟨bitsAt x 0 16, bitsAt x 16 16, w64At x 64 64, w64At x 128 64⟩
  guard (decide (1 ≤ g.n ∧ g.n ≤ 4096) && bitsAt x 32 32 == 0 && bitsAt x 192 320 == 0 && g.nodes.toNat % 128 == 0)
  guard (reachable s asid g.nodes (128 * g.n) && reachable s asid g.succs (2 * g.nsucc))
  pure g

/-- A tile operand (21 R322). -/
def parseOperand (x : Nat) : Option (Option (Bool × Nat × Nat)) :=
  if bitsAt x 63 1 = 0 then (if x = 0 then some none else none)
  else
    let pages := bitsAt x 41 21
    let base := bitsAt x 0 41
    if 1 ≤ pages then some (some (bitsAt x 62 1 == 1, base, pages)) else none

/-- The dies a mask names, ascending. -/
def diesOf (x : Nat) : List Nat := (List.range 4).filter (fun d => x / 2 ^ d % 2 == 1)

/-- A node record (21 R321), with its kernel index; the kernel is filled in later. -/
def parseNode (s : State) (asid : Nat) (g : Graph) (i : Nat) : Option (Node × Nat) := do
  let x := numOf (readVa s asid (g.nodes + BitVec.ofNat 64 (128 * i)) 128)
  let ops ← (List.range 8).mapM (fun j => parseOperand (bitsAt x (512 + 64 * j) 64))
  let mode1 := bitsAt x 212 1 == 1
  let cluster := bitsAt x 213 1 == 1
  let dies := diesOf (bitsAt x 234 4)
  let nsuc := bitsAt x 192 5
  let off := bitsAt x 176 16
  let count := bitsAt x 96 32
  let rsize := bitsAt x 197 4
  guard (bitsAt x 320 192 == 0 && bitsAt x 238 18 == 0 && !dies.isEmpty)
  guard (decide (1 ≤ bitsAt x 229 4 ∧ bitsAt x 229 4 ≤ 8) && decide (nsuc ≤ 16 ∧ off + nsuc ≤ g.nsucc))
  let succs := (List.range nsuc).map (fun j => numOf (readVa s asid (g.succs + BitVec.ofNat 64 (2 * (off + j))) 2))
  guard (succs.all (fun k => decide (k < g.n)))
  guard (if mode1 then
      dies.length == 1 && !cluster && decide (1 ≤ rsize ∧ rsize ≤ 8) && decide (1 ≤ count) &&
        decide (1 ≤ bitsAt x 144 16 ∧ bitsAt x 144 16 ≤ count) && decide (1 ≤ bitsAt x 128 16) && bitsAt x 0 64 % 64 == 0
    else !cluster || count % 4 == 0)
  let args := bitsAt x 256 64
  pure ({ opnds := ops.filterMap id,
          args := (List.range 15).map (fun j => BitVec.ofNat 64 (numOf (readVa s asid (BitVec.ofNat 64 (args + 8 * j)) 8))),
          dies := dies, priv := bitsAt x 233 1 == 1, slices := bitsAt x 229 4, nvec := bitsAt x 224 5, nmat := bitsAt x 219 5,
          ncopy := bitsAt x 214 5, cluster := cluster, mode1 := mode1, domain := BitVec.ofNat 8 (bitsAt x 204 8), prio := bitsAt x 201 3,
          rsize := 8 * rsize, timeout := bitsAt x 160 16, thresh := bitsAt x 144 16, qsize := bitsAt x 128 16, count := count,
          qbase := w64At x 0 64, succs := succs, slot := bitsAt x 64 16, kernel := Kernel.empty, preds := 0, ready := false, readyAt := 0,
          nextRank := 0, running := 0, ended := 0, complete := false, pushed := 0, freed := 0, waiting := [], recKnow := [], freedBy := LastArr.zero, tickets := 0,
          fired := 0 }, bitsAt x 80 16)

/-- Nodes that a path of at most `n` edges reaches from node `i`. -/
def reachesIn (succs : Nat → List Nat) : Nat → List Nat → List Nat
  | 0, xs => xs
  | n + 1, xs => reachesIn succs n ((xs ++ xs.flatMap succs).dedup)

/-- A node lies on a cycle. -/
def onCycle (nodes : List Node) (i : Nat) : Bool :=
  let succs := fun k => ((nodes[k]?).map (fun n => n.succs)).getD []
  (reachesIn succs nodes.length (succs i)).contains i

/-- The device signature (05 R121): the two disabled clusters of each die. -/
def State.signature (s : State) : Nat :=
  (List.range 4).foldl (fun n d =>
    let ks := (List.range 26).filter (fun k => s.defects.contains (26 * d + k))
    n + ((ks[0]?).getD 0 + (ks[1]?).getD 0 * 2 ^ 5) * 2 ^ (10 * d)) 0

/-- A variant matches the device (05 R122). -/
def Variant.matches (v : Variant) (sig : Nat) : Bool := (sig ^^^ v.sig) &&& (v.mask ^^^ (2 ^ 40 - 1)) == 0

/-- The object of a slot that a tenant has loaded. -/
def State.ownObj (s : State) (tenant slot : Nat) : Option Obj :=
  match SMap.get none s.objs slot with
  | some o => if o.tenant = tenant then some o else none
  | none => none

/-- Lowest index that fails a test. -/
def firstFail {α : Type} (ok : Nat → α → Bool) (xs : List α) : Option Nat := ((xs.zipIdx).find? (fun x => !ok x.2 x.1)).map (fun x => x.2)

/-- Refuse with a status and the lowest failing node. -/
def refuseAt (code : Nat) (o : Option Nat) : Except Status Unit :=
  match o with
  | some i => .error (Status.call code i 0)
  | none => .ok ()

/-- The kernel of a node: the shape, and the first variant that matches. -/
def kernelFor (s : State) (tenant : Nat) (n : Node) (kidx : Nat) : Option (Kernel × Option Variant) :=
  (s.ownObj tenant n.slot).bind (fun o => (o.kernels[kidx]?).map (fun k => (k.shape, k.variants.find? (fun v => v.matches s.signature))))

/-- Validate a LAUNCH (21 R314): the nodes with their kernels and predecessor counts, or the status of the refusal. The spec does not say how many context areas and how much queue memory the driver has: State.lacks names the lowest node that they do not reach (log 80). -/
def validate (s : State) (m : Nat) (t : Taken) : Except Status (List Node) := do
  if !t.r.ok then throw (Status.call BAD_OBJECT 0 0)
  if (s.ownObj t.b.tenant t.r.slot).isNone then throw (Status.call SECURITY 0 0)
  let g ← match parseGraph s t.b.asid t.r.addr with
    | some g => pure g
    | none => throw (Status.call BAD_OBJECT 0 0)
  let ps := (List.range g.n).map (parseNode s t.b.asid g)
  let own := fun (n : Node) => (s.ownObj t.b.tenant n.slot).isSome
  refuseAt BAD_OBJECT (firstFail (fun _ p => p.elim false (fun x => !own x.1 || (kernelFor s t.b.tenant x.1 x.2).isSome)) ps)
  let ns := ps.filterMap id
  let nodes := ns.map (fun x => x.1)
  refuseAt BAD_OBJECT (firstFail (fun i _ => !onCycle nodes i) nodes)
  refuseAt SECURITY (firstFail (fun _ n => own n && (m == 63 || (n.prio != 7 && !n.priv))) nodes)
  let vs := ns.map (fun x => kernelFor s t.b.tenant x.1 x.2)
  refuseAt NO_VARIANT (firstFail (fun _ v => v.elim false (fun k => k.2.isSome)) vs)
  let full := (ns.zip vs).filterMap (fun x => x.2.bind (fun k => k.2.map (fun v =>
    { x.1.1 with kernel := { k.1 with base := v.base, length := v.length } })))
  refuseAt RESOURCES (firstFail (fun i n => s.lacks != some i &&
    n.slices == n.kernel.slices && n.ncopy == n.kernel.ncopy && n.nmat == n.kernel.nmat && n.nvec == n.kernel.nvec &&
    decide (n.kernel.scratch ≤ Config.scratchBytes) &&
    (!n.mode1 || (decide (n.count * n.rsize ≤ n.kernel.scratch) && decide (n.qbase.toNat + n.qsize * n.rsize ≤ Config.memBytes)))) full)
  pure ((full.zipIdx).map (fun x => { x.1 with preds := ((full.map (fun n => n.succs.count x.2)).sum) }))

/-- A launch that is accepted. -/
def newLaunch (s : State) (m : Nat) (t : Taken) (nodes : List Node) : Launch :=
  let start := t.call.time
  { mailbox := m, call := (s.mailbox m).accepted, tenant := t.b.tenant, asid := t.b.asid, slot := t.r.slot, stamp := t.call.stamp,
    statAddr := t.r.stat, timeAddr := t.r.timeAddr, nodes := nodes, status := none, closed := false, hold := none, armed := [],
    start := start, wgs := 0, faults := 0, tFault := 0, tIo := 0, tExec := 0, tQueue := (s.time - start).toNat, ns := s.time, cat := 3, storage := 0 }

/-- A refused LAUNCH, a malformed one too: its time record at any TIMEADDR that is not zero, all of it queueing, and its status record (23 R343). -/
def refuseLaunch (m : Nat) (t : Taken) (st : Status) (s : State) : State :=
  let l := newLaunch s m t []
  let s := if t.r.timeAddr = 0 then s else writeVa t.b.asid t.r.timeAddr (timeRecord l.start s.time l st.code) s
  answer m t st s

/-- LAUNCH: counter 7 of the mailbox's domain counts the call, a refused one included (23 R372). -/
def execLaunch (m : BitVec 6) (s : State) : Res :=
  .next (match s.nextCall m.toNat with
    | some t =>
      if t.r.op ≠ 2 then s
      else
        let s := (takeCall m.toNat s).charge t.b.domain 7 1
        match validate s m.toNat t with
        | .error st => refuseLaunch m.toNat t st s
        | .ok nodes =>
          let s := { s with launches := SMap.set none s.launches s.nextLaunch (some (newLaunch s m.toNat t nodes)), nextLaunch := s.nextLaunch + 1 }
          resettle s
    | none => s)

/-! ### FREE (21 R313, 15 R237) -/

/-- A running launch uses a slot. -/
def State.slotUsed (s : State) (slot : Nat) : Bool :=
  s.launches.any (fun e => e.2.elim false (fun l => !l.closed && (l.slot == slot || l.nodes.any (fun n => n.slot == slot))))

/-- Release a region: every backed page and the reserve go to the pools (15 R237); what belonged to the values of its pages is gone. -/
def dropRegion (i : Nat) (s : State) : State :=
  match SMap.get none s.regions i with
  | none => s
  | some r =>
    let pages := s.backed.filterMap (fun e => if e.1 / 2 ^ 32 = i then e.2.map (fun b => (e.1 % 2 ^ 32, b)) else none)
    let s := { s with regions := SMap.set none s.regions i (some { r with reserve := 0, free := [] }) }
    let s := { s with pool := (List.range 4).foldl (fun m d => SMap.set [] m d (SMap.get [] m d ++ r.freeOn d)) s.pool }
    let s := pages.foldl (fun s p => releasePage i p.1 p.2 s) s
    let lo := pageKey i 0
    let hi := pageKey (i + 1) 0
    { s with regions := SMap.set none s.regions i none, gRel := dropRange s.gRel lo (hi - lo), past := dropRange s.past lo (hi - lo) }

/-- Release a slot: its regions, its leaves, the object. -/
def freeSlotOf (slot : Nat) (s : State) : State :=
  match SMap.get none s.objs slot with
  | none => s
  | some o =>
    let s := o.regions.foldl (fun s i => dropRegion i s) s
    let s := o.pages.foldl (fun s p =>
      let s := tlbiRemove 0 (BitVec.ofNat 64 (p * 65536)) o.asid s
      { s with leaves := SMap.set none s.leaves (leafKey o.asid p) none }) s
    { s with objs := SMap.set none s.objs slot none }

/-- Perform the first FREE of a mailbox that can be performed; a slot that another FREE has released meanwhile is refused. -/
def performFree (m : Nat) (s : State) : Option State :=
  let b := s.mailbox m
  match b.bound, b.frees.find? (fun f => !s.slotUsed f.1) with
  | some x, some f =>
    let s' := s.setMailbox m { b with frees := b.frees.erase f }
    some (if (s.ownObj x.tenant f.1).isNone then writeStatus m x.asid f.2 (Status.call SECURITY 0 0) s'
      else writeStatus m x.asid f.2 (Status.call 0 0 0) (freeSlotOf f.1 s'))
  | _, _ => none

/-- FREE: a call that the driver takes waits until no running launch uses its slot; one that can be performed is. -/
def execFree (m : BitVec 6) (s : State) : Res :=
  .next (match performFree m.toNat s with
    | some s' => s'
    | none =>
      match s.nextCall m.toNat with
      | some t =>
        if t.r.op ≠ 3 then s
        else
          let s := takeCall m.toNat s
          if !t.r.ok then answer m.toNat t (Status.call BAD_OBJECT 0 0) s
          else if (s.ownObj t.b.tenant t.r.slot).isNone then answer m.toNat t (Status.call SECURITY 0 0) s
          else
            let b := s.mailbox m.toNat
            let s := s.setMailbox m.toNat { b with frees := b.frees ++ [(t.r.slot, t.r.stat)] }
            (performFree m.toNat s).getD s
      | none => s)

end Sys2Proof.Machine
end

