-- ==== Sys2Proof/Machine/Request.lean ====
section
/-! DEFINITION. System and debugger requests (21 R317 to R319, 23 R347 to R350). -/

namespace Sys2Proof.Machine

/-! ### The frame of a request -/

/-- A request as the driver performs it: the next state and DETAIL, or a status. The first argument is the mailbox. -/
abbrev Perform := Nat → Taken → Request → State → Except Nat (State × W64)

/-- Require a condition, else a status. -/
def require (b : Bool) (code : Nat) : Except Nat Unit := if b then .ok () else .error code

/-- The code that a call asks for; a malformed record or an unknown code falls to EXTEND's row, which refuses it. -/
def requestCode (r : Request) : Nat := if r.ok ∧ 1 ≤ r.code ∧ r.code ≤ 13 then r.code else 1

/-- A row of the request table: when the next call of a mailbox is this request, take it, perform it, answer it. A refused request changes nothing (21 R317). -/
def requestOp (code : Nat) (f : Perform) (m : BitVec 6) (s : State) : Res :=
  .next (match s.nextCall m.toNat with
    | none => s
    | some t =>
      if t.r.op ≠ 4 then s
      else
        let q := s.requestRec t.b.asid t.r.addr
        if requestCode q ≠ code then s
        else
          let s := takeCall m.toNat s
          let out := if t.r.ok ∧ q.ok ∧ q.code = code then f m.toNat t q s else .error BAD_OBJECT
          match out with
          | .ok (s', detail) => answer m.toNat t (Status.call 0 0 detail) s'
          | .error e => answer m.toNat t (Status.call e 0 0) s)

/-- Operands that a request does not use are zero (log 60). -/
def unused (xs : List Nat) : Bool := xs.all (fun x => x == 0)

/-! ### Holds -/

/-- Change every gang of a launch, on cores and in saved contexts. -/
def updGangs (launch : Nat) (f : Workgroup → Gang → Gang) (s : State) : State :=
  let up := fun (w : Workgroup) => if w.launch = launch then w.mapGangs (fun _ g => f w g) else w
  let s := (s.cores.filterMap (fun e => if e.2.wg.isSome then some e.1 else none)).foldl (fun s c => s.updWg c up) s
  { s with saved := SMap.mapV none (fun _ o => o.map (fun x => { x with wg := up x.wg })) s.saved }

/-- The offset at which a stopped gang resumes with all ones: behind a BKPT, else at TRAPPC (21 R318, 23 R367). -/
def Gang.resumeAt (g : Gang) (c : Cause) : Option Nat :=
  if c = .breakpoint ∧ !g.trapa.getLsbD 17 then some (g.trappc.toNat + 1) else none

/-- A stopped gang resumes: its event's split at an offset, or where it stands. -/
def Gang.resume (g : Gang) (off : Option Nat) : Gang :=
  match g.dbgStop with
  | none => g
  | some (c, i) =>
    let g' := { g with dbgStop := none }
    match g.splits[i]?, off.orElse (fun _ => g.resumeAt c) with
    | some sp, some k => g'.setSplit i { sp.sent sp.slices sp.lanes k with stopped := sp.stopped }
    | _, _ => g'

/-- The hold of a launch ends: its stopped gangs resume where they stand, and nothing of it is armed (21 R318). -/
def detach (launch : Nat) (s : State) : State :=
  (updGangs launch (fun _ g => { g.resume none with stopReq := none }) s).updLaunch launch (fun l => { l with hold := none, armed := [] })

/-- A debugger has access to a launch only in the states of 25 R383: the holds that the state no longer allows end. -/
def dropHolds (s : State) : State :=
  (s.launches.filterMap (fun e => match e.2 with
    | some l => if l.hold.isSome && s.security == .locked && !s.tenantDebugOf l.tenant then some e.1 else none
    | none => none)).foldl (fun s n => detach n s) s

/-- A mailbox's binding is in TENANT_DEBUG no longer: holds and permits follow. -/
def endDebug (m : Nat) (s : State) : State :=
  if (SMap.get none s.tenantDebug m).isNone then s
  else permitAll (dropHolds { s with tenantDebug := SMap.set none s.tenantDebug m none })

/-! ### Requests of system software -/

/-- Bytes of a measurement register, lowest first, and back. -/
def bytes512 (x : BitVec 512) : List Byte := leBytes 64 x.toNat

/-- Extend a measurement register (25 R380). -/
def extendM (n : Nat) (d : BitVec 512) (s : State) : State :=
  let x := shake256 (bytes512 (SMap.get 0 s.meas n) ++ bytes512 d)
  { s with meas := SMap.set 0 s.meas n (BitVec.ofNat 512 (numOf x)) }

def doExtend : Perform := fun m t q s => do
  require (decide (4 ≤ q.arg0 ∧ q.arg0 ≤ 7) && unused [q.arg1, q.arg3] && reachable s t.b.asid (BitVec.ofNat 64 q.arg2) 64) BAD_OBJECT
  require (m == 63) SECURITY
  pure (extendM q.arg0 (BitVec.ofNat 512 (numOf (readVa s t.b.asid (BitVec.ofNat 64 q.arg2) 64))) s, 0)

/-- EXTEND. -/
def execExtend (m : BitVec 6) (s : State) : Res := requestOp 1 doExtend m s

def doSetage : Perform := fun m _ q s => do
  require (decide (q.arg0 ≤ 5 ∧ 1 ≤ q.arg1 ∧ q.arg1 ≤ 65535) && unused [q.arg2, q.arg3]) BAD_OBJECT
  require (m == 63) SECURITY
  pure ({ s with age := SMap.set 500 s.age q.arg0 q.arg1 }, 0)

/-- SETAGE. -/
def execSetage (m : BitVec 6) (s : State) : Res := requestOp 2 doSetage m s

/-- The frames themselves are looked at only for a mailbox that may ask. -/
def doPooladd : Perform := fun m t q s => do
  require (decide (q.arg0 < 4 ∧ 1 ≤ q.arg1 ∧ q.arg1 ≤ 65536) && unused [q.arg3]) BAD_OBJECT
  require (m == 63) SECURITY
  require (reachable s t.b.asid (BitVec.ofNat 64 q.arg2) (8 * q.arg1)) BAD_OBJECT
  let fs := (List.range q.arg1).map (fun i => numOf (readVa s t.b.asid (BitVec.ofNat 64 (q.arg2 + 8 * i)) 8) * 65536)
  require (fs.all (fun f => s.frameNew f && frameDie f == q.arg0) && decide fs.Nodup) BAD_OBJECT
  let pool := SMap.get [] s.pool q.arg0 ++ fs
  pure ({ s with pool := SMap.set [] s.pool q.arg0 pool }, BitVec.ofNat 64 pool.length)

/-- POOLADD. -/
def execPooladd (m : BitVec 6) (s : State) : Res := requestOp 3 doPooladd m s

/-- A region's reserve raised by `n` pages on each die, from the pools (15 R240). -/
def raiseReserve (i : Nat) (r : Region) (n : Nat) (s : State) : State :=
  let free := (List.range 4).foldl (fun m d => SMap.set [] m d (SMap.get [] m d ++ (SMap.get [] s.pool d).take n)) r.free
  let pool := (List.range 4).foldl (fun m d => SMap.set [] m d ((SMap.get [] m d).drop n)) s.pool
  { s with pool := pool, regions := SMap.set none s.regions i (some { r with reserve := r.reserve + n, free := free }) }

/-- A region's reserve lowered by `n` pages on each die: free reserve pages return to the pools. -/
def lowerReserve (i : Nat) (r : Region) (n : Nat) (s : State) : State :=
  let pool := (List.range 4).foldl (fun m d => SMap.set [] m d (SMap.get [] m d ++ (r.freeOn d).take n)) s.pool
  let free := (List.range 4).foldl (fun m d => SMap.set [] m d ((SMap.get [] m d).drop n)) r.free
  { s with pool := pool, regions := SMap.set none s.regions i (some { r with reserve := r.reserve - n, free := free }) }

def doReserve : Perform := fun m _ q s => do
  require (decide (q.arg0 < 4096 ∧ q.arg1 < 2 ^ 32) && unused [q.arg2, q.arg3]) BAD_OBJECT
  match SMap.get none s.regions q.arg0 with
  | none => throw BAD_OBJECT
  | some r =>
    require (m == 63) SECURITY
    if r.reserve < q.arg1 then
      let n := q.arg1 - r.reserve
      require ((List.range 4).all (fun d => decide (n ≤ (SMap.get [] s.pool d).length))) RESOURCES
      pure (raiseReserve q.arg0 r n s, 0)
    else pure (lowerReserve q.arg0 r (r.reserve - q.arg1) s, 0)

/-- RESERVE. -/
def execReserve (m : BitVec 6) (s : State) : Res := requestOp 4 doReserve m s

/-- A launch called through a mailbox runs. -/
def State.running (s : State) (m : Nat) : Bool := s.launches.any (fun e => e.2.elim false (fun l => !l.closed && l.mailbox == m))

/-- Bind a mailbox; a TENANT_DEBUG of an earlier binding goes with it (25 R382). -/
def bindMailbox (m : Nat) (b : Binding) (root : Nat) (s : State) : State :=
  let s := endDebug m (s.setMailbox m { s.mailbox m with bound := some b })
  { s with roots := SMap.set none s.roots b.asid (some root) }

def doBind : Perform := fun m _ q s => do
  let tenant := bitsAt q.arg1 0 16
  require (decide (q.arg0 < 64 ∧ q.arg1 < 2 ^ 24 ∧ q.arg3 < 2 ^ 16 ∧ q.arg2 % 4096 = 0 ∧ q.arg2 < Config.memBytes) &&
    (if q.arg0 = 63 then q.arg3 == 0 && tenant == 0xFFFF else tenant != 0xFFFF)) BAD_OBJECT
  require (m == 63) SECURITY
  require (!(q.arg0 == 63 && s.running 63)) RESOURCES
  pure (bindMailbox q.arg0 ⟨tenant, q.arg3, BitVec.ofNat 8 (bitsAt q.arg1 16 8)⟩ q.arg2 s, 0)

/-- BIND. -/
def execBind (m : BitVec 6) (s : State) : Res := requestOp 5 doBind m s

def doUnbind : Perform := fun m _ q s => do
  require (decide (q.arg0 < 63) && unused [q.arg1, q.arg2, q.arg3]) BAD_OBJECT
  require (m == 63) SECURITY
  let b := s.mailbox q.arg0
  require (b.calls.isEmpty && b.frees.isEmpty && !s.running q.arg0 && !(s.objs.any (fun e => e.2.elim false (fun o => o.mailbox == q.arg0)))) RESOURCES
  pure (endDebug q.arg0 (s.setMailbox q.arg0 { b with bound := none }), 0)

/-- UNBIND. -/
def execUnbind (m : BitVec 6) (s : State) : Res := requestOp 6 doUnbind m s

/-! ### BUFFER (23 R349, R350) -/

/-- Zero a range of device memory. -/
def zeroRange (pa n : Nat) (s : State) : State := forget pa n { s with mem := dropRange s.mem pa n, poison := dropRange s.poison pa n }

/-- A descriptor in memory with EN, HOLDER and the counts as the driver writes them: x is the descriptor that the request names. -/
def descBytes (x holder : Nat) (stop en : Bool) : List Byte :=
  leBytes 8 ((if en then 1 else 0) + (if stop then 2 else 0) + bitsAt x 2 1 * 4 + holder * 2 ^ 8 + bitsAt x 24 8 * 2 ^ 24 + bitsAt x 32 32 * 2 ^ 32) ++
    leBytes 8 (bitsAt x 64 64) ++ leBytes 8 0 ++ leBytes 8 0

/-- The trace buffer of a die is disabled: its frames close, what it cannot write is dropped. -/
def stopTrace (die : Nat) (s : State) : State :=
  let s := closeFrame die (drain die s)
  let b := s.traceBuf die
  let s := if b.en then writeDev b.desc [s.byteAt (.dev b.desc) &&& 0xFE] s else s
  s.setTraceBuf die TraceBuf.off

/-- The edge buffer of a die is disabled; its serials go on (19 R307). -/
def stopEdges (die : Nat) (s : State) : State :=
  let s := flushLoss die (flushPair die s)
  let b := s.edgeBuf die
  let s := if b.en then writeDev b.desc [s.byteAt (.dev b.desc) &&& 0xFE] s else s
  s.setEdgeBuf die { EdgeBuf.off with serials := b.serials }

/-- The pair of a die now: its clock, TIME, FREQ (23 R362). -/
def State.pairNow (s : State) (die : Nat) : W64 × W64 × Nat := (SMap.get 0 s.clock die, s.time, s.fstep)

/-- Umber owes a pair record: the latest is kept, and written into the first free unit (23 R362). -/
def owePair (die : Nat) (s : State) : State :=
  let b := s.edgeBuf die
  if b.en then flushPair die (s.setEdgeBuf die { b with pair := some (s.pairNow die) }) else s

/-- The descriptor is one the driver can install. -/
def descOk (x kind : Nat) (pa : Nat) : Bool :=
  let smp := bitsAt x 24 8
  let unit := if kind = 0 then 4096 else 48
  bitsAt x 3 5 == 0 && bitsAt x 2 1 == kind && decide (2 ≤ bitsAt x 32 32) && bitsAt x 64 64 % 4096 == 0 && pa % 32 == 0 &&
    decide (bitsAt x 64 64 + bitsAt x 32 32 * unit ≤ Config.memBytes) &&
    (smp == 0 || (kind == 0 && decide (10 ≤ smp ∧ smp ≤ 20)))

/-- Device memory that 32 bytes of an address occupy. -/
def devAddr (s : State) (asid : Nat) (a : W64) : Option Nat :=
  match placeAt s asid a, placeAt s asid (a + 31) with
  | .dev p, .dev q => if q = p + 31 then some p else none
  | _, _ => none

/-- Install a trace buffer. -/
def installTrace (die x pa holder : Nat) (s : State) : State :=
  let base := bitsAt x 64 64
  let n := bitsAt x 32 32
  let stop := bitsAt x 1 1 == 1
  let s := writeDev pa (descBytes x holder stop true) (zeroRange base (n * 4096) s)
  s.setTraceBuf die { TraceBuf.off with desc := pa, en := true, base := base, nunits := n, smplog := bitsAt x 24 8, holder := holder, stop := stop }

/-- Install an edge buffer; STOP is always 1, and a pair record is written (23 R349, R362). -/
def installEdges (die x pa holder : Nat) (s : State) : State :=
  let base := bitsAt x 64 64
  let n := bitsAt x 32 32
  let s := writeDev pa (descBytes x holder true true) (zeroRange base (n * 48) s)
  owePair die (s.setEdgeBuf die { EdgeBuf.off with desc := pa, en := true, base := base, nunits := n, holder := holder,
                                                   serials := (s.edgeBuf die).serials })

def doBuffer : Perform := fun m t q s => do
  let kind := bitsAt q.arg1 0 1
  let holder := bitsAt q.arg1 16 16
  require (decide (q.arg0 < 4 ∧ q.arg1 < 2 ^ 32) && bitsAt q.arg1 1 15 == 0 && unused [q.arg3]) BAD_OBJECT
  let x := numOf (readVa s t.b.asid (BitVec.ofNat 64 q.arg2) 32)
  let pa := devAddr s t.b.asid (BitVec.ofNat 64 q.arg2)
  require (q.arg2 == 0 || (pa.elim false (descOk x kind))) BAD_OBJECT
  require (m == 63) SECURITY
  let s := if kind = 0 then stopTrace q.arg0 s else stopEdges q.arg0 s
  let s := match pa with
    | some p => if q.arg2 = 0 then s else if kind = 0 then installTrace q.arg0 x p holder s else installEdges q.arg0 x p holder s
    | none => s
  pure (permitDie q.arg0 true s, 0)

/-- BUFFER. -/
def execBuffer (m : BitVec 6) (s : State) : Res := requestOp 7 doBuffer m s

/-! ### Requests of a debugger (21 R318, R319, 23 R347, R348) -/

/-- The launch that two operands name: the mailbox and the call number. -/
def State.named (s : State) (q : Request) : Option (Nat × Launch) :=
  s.launches.findSome? (fun e => match e.2 with
    | some l => if l.mailbox = q.arg0 ∧ l.call.toNat = q.arg1 then some (e.1, l) else none
    | none => none)

/-- A launch with a privileged node. -/
def Launch.privileged (l : Launch) : Bool := l.nodes.any (fun n => n.priv)

/-- The mailbox may debug the launch (21 R318, 25 R382, R383). -/
def debugOk (s : State) (m : Nat) (b : Binding) (l : Launch) : Bool :=
  (b.tenant == l.tenant && s.tenantDebugOf b.tenant) ||
  (m == 63 && (match s.security with
    | .locked => false
    | .vendorDebug => !l.privileged
    | .opened => true))

/-- The launch of a debugger's request that needs a hold. -/
def heldLaunch (s : State) (q : Request) : Except Nat (Nat × Launch) :=
  match s.named q with
  | some (n, l) => if l.hold.isSome then .ok (n, l) else .error BAD_OBJECT
  | none => .error BAD_OBJECT

def doAttach : Perform := fun m t q s => do
  require (q.arg2 % 32 == 0 && decide (1 ≤ q.arg3 ∧ q.arg3 ≤ 65536) && reachable s t.b.asid (BitVec.ofNat 64 q.arg2) (32 * q.arg3)) BAD_OBJECT
  match s.named q with
  | none => throw BAD_OBJECT
  | some (n, l) =>
    require (debugOk s m t.b l) SECURITY
    require (!l.closed) RESOURCES
    pure (s.updLaunch n (fun l => { l with hold := some ⟨t.b.asid, BitVec.ofNat 64 q.arg2, q.arg3, 0⟩, armed := [] }), 0)

/-- ATTACH. -/
def execAttach (m : BitVec 6) (s : State) : Res := requestOp 8 doAttach m s

def doStop : Perform := fun m t q s => do
  require (decide (q.arg2 ≤ 1) && unused [q.arg3]) BAD_OBJECT
  let (n, l) ← heldLaunch s q
  require (debugOk s m t.b l) SECURITY
  pure (updGangs n (fun _ g => if g.dbgStop.isSome || g.splits.isEmpty then g else { g with stopReq := some (q.arg2 == 1) }) s, 0)

/-- STOP. -/
def execStop (m : BitVec 6) (s : State) : Res := requestOp 9 doStop m s

/-- Every stopped gang of the launch can resume at an offset. -/
def offsetOk (s : State) (launch k : Nat) : Bool :=
  (s.resident launch).all (fun w => decide (k < w.kernel.length) || w.gangs.all (fun e => e.2.dbgStop.isNone)) &&
  s.saved.all (fun e => e.2.elim true (fun x => x.wg.launch != launch || decide (k < x.wg.kernel.length) || x.wg.gangs.all (fun g => g.2.dbgStop.isNone)))

def doResume : Perform := fun m t q s => do
  let (n, l) ← heldLaunch s q
  let all := q.arg2 == 2 ^ 64 - 1
  require ((all || offsetOk s n q.arg2) && unused [q.arg3]) BAD_OBJECT
  require (debugOk s m t.b l) SECURITY
  pure (updGangs n (fun _ g => g.resume (if all then none else some q.arg2)) s, 0)

/-- RESUME. -/
def execResume (m : BitVec 6) (s : State) : Res := requestOp 10 doResume m s

def doArm : Perform := fun m t q s => do
  let (n, l) ← heldLaunch s q
  require (unused [q.arg3]) BAD_OBJECT
  require (debugOk s m t.b l) SECURITY
  let ids := ((List.range 4).map (fun i => BitVec.ofNat 16 (bitsAt q.arg2 (16 * i) 16))).filter (fun i => i != 0)
  pure (s.updLaunch n (fun l => { l with armed := ids }), 0)

/-- ARM. -/
def execArm (m : BitVec 6) (s : State) : Res := requestOp 11 doArm m s

/-- Saved workgroups of a launch are discarded, and their services end. -/
def dropSaved (launch : Nat) (s : State) : State :=
  let mine := s.saved.filter (fun e => e.2.elim false (fun x => x.wg.launch == launch))
  let s := mine.foldl (fun s e => e.2.elim s (fun x => endSaved x s)) s
  let s := { s with saved := s.saved.filter (fun e => e.2.elim true (fun x => x.wg.launch != launch)),
                    ready := s.ready.filter (fun e => e.launch != launch) }
  s.updLaunch launch (fun l => { l with nodes := (l.nodes.zipIdx).map (fun n =>
    { n.1 with running := n.1.running - mine.countP (fun e => e.2.elim false (fun x => x.wg.node == n.2)) }) })

def doTerminate : Perform := fun m t q s => do
  require (unused [q.arg2, q.arg3]) BAD_OBJECT
  let (n, l) ← heldLaunch s q
  require (debugOk s m t.b l) SECURITY
  let s := endLaunch s n ⟨Cause.code .stopRequest, 0, 0, 0, 0, 0, 0⟩
  let cores := s.cores.filterMap (fun e => match e.2.wg with
    | some w => if w.launch = n && !w.ending then some e.1 else none
    | none => none)
  let s := cores.foldl (fun s c => stopCore c s) s
  pure (resettle (dropSaved n s), 0)

/-- TERMINATE. -/
def execTerminate (m : BitVec 6) (s : State) : Res := requestOp 12 doTerminate m s

def doDetach : Perform := fun m t q s => do
  require (unused [q.arg2, q.arg3]) BAD_OBJECT
  let (n, l) ← heldLaunch s q
  require (debugOk s m t.b l) SECURITY
  pure (detach n s, 0)

/-- DETACH. -/
def execDetach (m : BitVec 6) (s : State) : Res := requestOp 13 doDetach m s

/-! ### Delivery of a stop (23 R347) -/

/-- A wait that ends by itself, at an instruction that has not retired. -/
def Wait.unretired : Wait → Bool
  | .transform _ | .accElems _ _ _ _ | .ifence | .tlbi _ _ _ | .rrel => true
  | _ => false

/-- Every word of the gang before the ones its splits stand at has retired, and every split stands at a latch-free point outside a prefix group, or waits. -/
def stopReady (s : State) (core : Nat) (g : Gang) : Bool :=
  g.loads.isEmpty && g.splits.all (fun sp => !sp.wait.unretired && (quiet s core g sp || edgeStop s core g sp))

/-- The split of a gang at which a requested stop is delivered: in mode EDGE one that stands before RENT or RLEV, in mode ANY the first. -/
def stopSplit (s : State) (core : Nat) (g : Gang) : Option (Nat × Split) :=
  match g.stopReq with
  | none => none
  | some edge =>
    if stopReady s core g then
      ((g.splits.zipIdx).find? (fun x => if edge then edgeStop s core g x.1 else !x.1.stopped)).map (fun x => (x.2, x.1))
    else none

/-- The delivery of STOP_REQUEST: TRAPPC names the word not yet issued. -/
def stopDeliveryOf (gang : Nat) (g : Gang) (i : Nat) (sp : Split) : Delivery :=
  let lane := lowLane sp.lanes
  { cause := .stopRequest, swnum := 0, trapa := 0, pc := if sp.wait = .none then sp.pc else sp.waitFirst,
    trapl := traplOf gang g sp none lane, split := i, trapOff := sp.pc, plane := g.planeOf lane, anchored := true, tag := none }

/-- STOP_DELIVERY. -/
def execStopDelivery (core gang : Nat) (s : State) : Res :=
  let g := s.gangAt core gang
  .next (match s.hold? (s.wgAt core), stopSplit s core g with
    | some h, some (i, sp) =>
      if g.dbgStop.isSome || g.service.isSome then s else toDebugger core gang h (stopDeliveryOf gang g i sp) s
    | _, _ => s)

end Sys2Proof.Machine
end

