-- ==== Sys2Proof/Machine/Device.lean ====
section
/-! DEFINITION. The device and the world outside it (25 R375 to R387, 15 R252): host accesses, registers, power, fabric and Ethernet ports, reset, boot and measurement, security states, SPDM, accounting snapshots, frequency and TIME. -/

namespace Sys2Proof.Machine

/-! ### Ports (25 R377) -/

/-- A port is up. -/
def State.portUp (s : State) (p : Nat) : Bool := decide (p < 16) && s.ports.getLsbD p

/-- The port by which a device is reached. -/
def State.routeTo (s : State) (dest : Nat) : Option Nat :=
  let n := SMap.get 0 s.routes dest
  let n := if n = 0 then Config.bootRoute dest else n
  if 0 < n ∧ s.portUp (n - 1) then some (n - 1) else none

/-- The destination of a message to the neighbour at a port, whatever its DEVID (DESIGN CHOICE, log 96). -/
def neighbour : BitVec 20 := BitVec.allOnes 20

/-- A message between neighbours, which goes no further (25 R379). -/
def isTime : FabOp → Bool
  | .time _ => true
  | _ => false

/-! ### Once each millisecond -/

/-- The millisecond of TIME. -/
def State.ms (s : State) : Nat := s.time.toNat / 10 ^ 6

/-- PAGE_SECONDS_TICK (15 R252): backed pages and free reserve pages, by the domain of their region. -/
def execPageSecondsTick (s : State) : Res :=
  .next (if s.msPage < s.ms then
      let s' := s.liveRegions.foldl (fun s r =>
        let backed := s.backed.countP (fun e => decide (e.1 / 2 ^ 32 = r.1) && e.2.isSome)
        let free := ((List.range 4).map (fun d => (r.2.freeOn d).length)).sum
        s.charge r.2.domain 5 (backed + free)) s
      { s' with msPage := s.msPage + 1 }
    else s)

/-- A frequency step, 1 to 30. -/
def stepOf (n : Nat) : Nat := min (max n 1) 30

/-- Change the frequency: TIME goes on from here; every die writes the packets that it still can, closes its open frame, and owes a pair record (25 R385, 23 R353, R362). -/
def setFstep (f : Nat) (s : State) : State :=
  if f = s.fstep then s
  else
    let s := (List.range 4).foldl (fun s d => closeFrame d (collectAll d s)) s
    let s := { s with timeBase := (SMap.get 0 s.clock 0, s.time), fstep := f, steps := s.steps + 1 }
    (List.range 4).foldl (fun s d => owePair d s) s

/-- FREQ_UPDATE (25 R385): `power` is the highest step within CAPW, `allowed` the step that the temperature allows, `hot` a junction above 105 °C (log 19). -/
def execFreqUpdate (power allowed : Nat) (hot : Bool) (s : State) : Res :=
  .next (if s.msFreq < s.ms ∧ s.pstate ≠ .off then
      let th := if hot then stepOf (s.thermal - 1) else stepOf allowed
      let s := { s with thermal := th, msFreq := s.ms }
      setFstep (min s.capstep (min (stepOf power) th)) s
    else s)

/-- No device with a lower DEVID can be reached: this one is the time reference of its domain (25 R379). -/
def State.reference (s : State) : Bool := (List.range (s.devid % 2 ^ 20)).all (fun d => (s.routeTo d).isNone)

/-- TIME_SYNC (25 R379): a timestamped message goes to each neighbour, at the other end of a port that is up; from the neighbours' messages the device learns by how much it is to slew, unless it is the reference itself; 50 ms after it joined its domain, TIME is synchronised. Before boot has ended no message goes out (25 R380). -/
def execTimeSync (slew : Int) (s : State) : Res :=
  .next (if s.msSync < s.ms ∧ s.boot = .done ∧ s.pstate ≠ .off then
      let ports := (List.range 16).filter s.portUp
      { s with sent := s.sent ++ ports.map (fun p => (p, ⟨neighbour, BitVec.ofNat 20 s.devid, 0, .time s.time⟩)),
               slew := if s.reference then 0 else slew, msSync := s.ms, unsync := s.unsync && decide ((s.time - s.joined).toNat < 50 * 10 ^ 6) }
    else s)

/-! ### Fabric and Ethernet (25 R377, R378) -/

/-- Payload bytes of a domain cross a port (23 R372, 25 R386). -/
def chargeFabric (domain : BitVec 8) (n : Nat) (s : State) : State := (s.charge domain 4 n).spend domain (400 * n)

/-- Payload bytes of a packet. -/
def fabSize : FabOp → Nat
  | .write _ _ bs _ => bs.length
  | .message bs _ => bs.length
  | .read _ _ _ | .arrive _ _ _ | .time _ => 0

/-- Send a packet. -/
def sendPacket (port : Nat) (p : FabPacket) (s : State) : State :=
  chargeFabric p.domain (fabSize p.op) { s with sent := s.sent ++ [(port, p)] }

/-- A packet's access of `n` bytes that meets a page whose differs bits cannot be corrected: an INTEGRITY with its first such byte's address for the driver (11 R216, 15 R246; DEDUCED, log 82). -/
def reportBad (asid : Nat) (va : W64) (n : Nat) (s : State) : State :=
  match (List.range n).find? (fun i => s.badPage (placeAt s asid (va + BitVec.ofNat 64 i))) with
  | some i => { s with reports := s.reports ++ [va + BitVec.ofNat 64 i] }
  | none => s

/-- A write from the fabric. One that needs backing and finds none waits, and the driver is notified (15 R249). -/
def fabricWrite (p : FabPacket) (asid : Nat) (va : W64) (bs : List Byte) (bad : List Nat) (s : State) : State :=
  let s := reportBad asid va bs.length s
  match writeImage asid va bs bad s with
  | some s' => s'.markTraffic p.domain
  | none => { s with fabWaits := s.fabWaits ++ [(p, frameless s (unbackedBy s (vaWrites s asid va bs) (vaBad s asid va bad)))] }

/-- A read from the fabric: its data goes back, with its poison (11 R216). -/
def fabricRead (port : Nat) (p : FabPacket) (asid : Nat) (va : W64) (n : Nat) (s : State) : State :=
  sendPacket port ⟨p.sender, p.dest, p.domain, .message (readVa s asid va n) (badVa s asid va n)⟩
    ((reportBad asid va n s).markTraffic p.domain)

/-- An arrival from the fabric at a barrier (19 R306): kind 5, the port as its serial, the remote blame. It releases the writes from outside the cores (11 R204). -/
def fabricArrive (port core bar : Nat) (blame : W64) (s : State) : State :=
  if (s.coreAt core).wg.isNone ∨ 16 ≤ bar then s
  else
    let a : LastArr := ⟨BitVec.ofNat 64 (dieOf core * 2 ^ 30 + 5 * 2 ^ 16 + port), s.clockAt core, blame, 0⟩
    updBarrier core bar (fun x => (x.engineArrive a [⟨0, 0, 0, 16, 0, 5, none, dieOf core, Know.upTo [] outer s.writes⟩]).check) s

/-- FABRIC_PACKET: forwarded by the routing tables, or performed. -/
def execFabricPacket (port : BitVec 4) (p : FabPacket) (s : State) : Res :=
  let n := port.toNat
  .next (if !s.portUp n ∨ s.boot ≠ .done ∨ s.pstate = .off then s
    else if p.dest.toNat ≠ s.devid % 2 ^ 20 ∧ !isTime p.op then
      match s.routeTo p.dest.toNat with
      | some q => sendPacket q p (chargeFabric p.domain (fabSize p.op) s)
      | none => s
    else
      match p.op with
      | .write asid va bs bad => fabricWrite p asid va bs bad (chargeFabric p.domain bs.length s)
      | .read asid va k => fabricRead n p asid va k s
      | .arrive core bar blame => fabricArrive n core bar blame s
      | .message bs bad => chargeFabric p.domain bs.length { s with inbox := s.inbox ++ [(n, bs, bad)] }
      | .time _ => s)

/-- PORT_FAILURE: reported to the driver, which routes around the port. -/
def execPortFailure (port : BitVec 4) (routes : List (Nat × Nat)) (s : State) : Res :=
  let n := port.toNat
  .next (if !s.portUp n ∨ s.pstate = .off then s
    else
      { s with ports := s.ports &&& ~~~(BitVec.ofNat 16 (2 ^ n)), portFaults := s.portFaults ++ [n],
               routes := routes.foldl (fun m r => SMap.set 0 m r.1 (r.2 % 16 + 1)) (s.routes.filter (fun e => decide (e.2 ≠ n + 1))) })

/-- Bytes of device memory. -/
def devBytes (s : State) (pa n : Nat) : List Byte := (List.range n).map (fun i => SMap.get 0 s.mem (pa + i))

/-- The offsets of the poisoned ones among them (11 R216). -/
def devBad (s : State) (pa n : Nat) : List Nat := (List.range n).filter (fun i => SMap.get false s.poison (pa + i))

/-- Write bytes of device memory, those at the offsets `bad` poisoned. -/
def writeMarkedDev (pa : Nat) (bs : List Byte) (bad : List Nat) (s : State) : State :=
  bad.foldl (fun s i => s.setPoisonAt (.dev (pa + i)) true) (writeDev pa bs s)

/-- A storage transfer for a launch begins or ends. -/
def storageStep (launch : Option Nat) (f : Nat → Nat) (s : State) : State :=
  launch.elim s (fun n => s.updLaunch n (fun l => { l with storage := f l.storage }))

/-- A packet leaves by an Ethernet port. -/
def sendRoce (port : BitVec 1) (bs : List Byte) (bad : List Nat) (s : State) : State := { s with roce := s.roce ++ [(port.toNat, bs, bad)] }

/-- A message arrives for the driver by an Ethernet port. -/
def recvRoce (port : BitVec 1) (bs : List Byte) (s : State) : State := { s with inbox := s.inbox ++ [(16 + port.toNat, bs, [])] }

/-- ROCEV2_PACKET: RDMA writes and reads reach device memory; messages go to the driver and come from it; as NVMe over Fabrics host the driver commands storage, whose data RDMA carries (log 71). -/
def execRocev2Packet (port : BitVec 1) (r : RoceOp) (s : State) : Res :=
  .next (if s.boot ≠ .done ∨ s.pstate = .off then s
    else
      match r with
      | .place pa bs bad => if pa + bs.length ≤ Config.memBytes ∧ bad.all (fun i => decide (i < bs.length)) then writeMarkedDev pa bs bad s else s
      | .read pa n => if pa + n ≤ Config.memBytes then sendRoce port (devBytes s pa n) (devBad s pa n) s else s
      | .message bs => recvRoce port bs s
      | .send bs => sendRoce port bs [] s
      | .command l bs => sendRoce port bs [] (storageStep l (· + 1) s)
      | .response l bs => recvRoce port bs (storageStep l (· - 1) s))

/-! ### Host accesses (25 R375, R376) -/

/-- Send to the host. -/
def toHost (x : HostMsg) (s : State) : State := { s with hostOut := s.hostOut ++ [x] }

/-- An AtomicOp of 4 or 8 bytes: the old value goes back. The releases that the value carried go on with the new one (11 R202). With `uses` the new value comes from the old one, and its bytes are poisoned where some byte of that was (11 R216; DEDUCED, log 109). -/
def hostAtomic (pa : Nat) (wide uses : Bool) (f : Nat → Nat) (s : State) : State :=
  let n := if wide then 8 else 4
  if pa % n ≠ 0 ∨ Config.memBytes < pa + n then s
  else
    let old := devBytes s pa n
    let bad := devBad s pa n
    let rels := s.relAt (.dev pa) n
    toHost (.data old bad) ((writeMarkedDev pa (leBytes n (f (numOf old))) (if uses && !bad.isEmpty then List.range n else []) s).setRelAt (.dev pa) n rels)

/-- SYSCTL as a host reads it. -/
def Power.code : Power → Nat
  | .active => 0 | .idle => 1 | .deep => 2 | .off => 3

def State.sysctl (s : State) : W64 :=
  BitVec.ofNat 64 (s.capw * 2 ^ 36 + s.preq.code * 2 ^ 30 + s.pstate.code * 2 ^ 28 + s.fstep * 2 ^ 8 + s.capstep)

/-- The dword of BAR0 at index `i`: ACCEPTED of a mailbox, SYSCTL, TIME; the write-only DOORBELL and everything else read as zero (21 R312, 25 R375). -/
def State.bar0 (s : State) (i : Nat) : W64 :=
  if i < 128 then (if i % 2 = 1 then (s.mailbox (i / 2)).accepted else 0)
  else if i = 128 then s.sysctl
  else if i = 129 then s.time
  else 0

/-- The device serves its host: it is not off, and boot has not stopped at a bad signature, after which it serves SPDM alone (25 R380, R384). -/
def State.serves (s : State) : Bool := s.pstate != .off && s.boot != .stopped

/-- BAR2_ACCESS, and reads of BAR0. -/
def execBar2Access (b : Bar2) (s : State) : Res :=
  .next (if !s.serves then s
    else
      match b with
      | .bar0 off n => if off + n ≤ 65536 then toHost (.data ((List.range n).map (fun i => byteOf (s.bar0 ((off + i) / 8)).toNat ((off + i) % 8))) []) s else s
      | .read pa n => if pa + n ≤ Config.memBytes then toHost (.data (devBytes s pa n) (devBad s pa n)) s else s
      | .write pa bs bad => if pa + bs.length ≤ Config.memBytes ∧ bad.all (fun i => decide (i < bs.length)) then writeMarkedDev pa bs bad s else s
      | .fetchAdd pa w x => hostAtomic pa w true (fun o => o + x.toNat) s
      | .swap pa w x => hostAtomic pa w false (fun _ => x.toNat) s
      | .cas pa w c x => hostAtomic pa w true (fun o => if o = c.toNat % (if w then 2 ^ 64 else 2 ^ 32) then x.toNat else o) s)

/-- REGISTER_WRITE: a write of SYSCTL reaches CAPW and CAPSTEP; a value outside its range leaves the field. -/
def execRegisterWrite (w : W64) (s : State) : Res :=
  let capw := bitsAt w.toNat 36 12
  let step := bitsAt w.toNat 0 5
  .next (if !s.serves then s
    else { s with capw := if 600 ≤ capw ∧ capw ≤ 2200 then capw else s.capw, capstep := if 1 ≤ step ∧ step ≤ 30 then step else s.capstep })

/-! ### Power (25 R384) -/

/-- No launch runs and no call is pending. -/
def State.quiet (s : State) : Bool :=
  s.launches.all (fun e => e.2.elim true (fun l => l.closed)) && s.mail.all (fun e => e.2.calls.isEmpty && e.2.frees.isEmpty)

/-- A write of PREQ. -/
def setPreq (ok : Bool) (p : Power) (s : State) : State := if ok && s.serves then { s with preq := p } else s

def execPreqIdle (s : State) : Res := .next (setPreq true .idle s)
def execPreqDeep (s : State) : Res := .next (setPreq s.quiet .deep s)
def execPreqActive (s : State) : Res := .next (setPreq true .active s)
def execPreqOff (s : State) : Res := .next (setPreq s.quiet .off s)

/-- On-chip state reads as zero (25 R384). -/
def zeroChip (s : State) : State := { forget (2 ^ 100) (2 ^ 40) s with cores := [], tlb := [] }

/-- Entries of host memory, which the device does not lose. -/
def ofHost {α : Type} (m : SMap α) : SMap α := m.filter (fun e => decide (2 ^ 90 ≤ e.1 ∧ e.1 < 2 ^ 100))

/-- Device memory and everything kept in it is lost. -/
def loseMemory (s : State) : State :=
  { forget 0 (2 ^ 90) s with
           mem := [], poison := ofHost s.poison, gTags := [], gRel := ofHost s.gRel, leaves := [], roots := [], regions := [], backed := [], pool := [], objs := [],
           saved := [], traces := [], edges := [] }

/-- PSTATE_CHANGE: the requested transition completes. Where a call has come since a request for DEEP or OFF, the condition fails and the request is given up, so that the call is not lost (25 R384; DEDUCED, log 120). -/
def execPstateChange (s : State) : Res :=
  .next (if s.preq = s.pstate then s
    else if (s.preq = .deep ∨ s.preq = .off) ∧ !s.quiet then { s with preq := s.pstate }
    else
      let s := if s.pstate = .deep then zeroChip s else s
      let s := if s.preq = .off then loseMemory (zeroChip s) else s
      { s with pstate := s.preq })

/-! ### Reset, boot and measurement (25 R380, R382) -/

/-- Whether the device powers up from OFF, or the reset zeroes for VENDOR_DEBUG. -/
def State.zeroing (s : State) : Bool := s.armed || s.pstate == .off

/-- The state a device reset leaves before boot: what is fixed for the device, what has left it, and device memory stay; TIME goes on (log 15). -/
def resetState (strap : Bool) (s : State) : State :=
  { State.reset with
    agenda := s.agenda, turn := s.turn, free := s.free, defects := s.defects, devid := s.devid, fuse := s.fuse, hmem := s.hmem,
    mem := if s.zeroing then [] else s.mem, poison := if s.zeroing then ofHost s.poison else s.poison, msix := s.msix, sent := s.sent, roce := s.roce,
    hostOut := s.hostOut, nonce := s.nonce, timeBase := (0, s.time), slewAt := s.time, joined := s.time, msFreq := s.ms, msSync := s.ms, msPage := s.ms,
    security := if strap && s.fuse then .opened else if s.armed then .vendorDebug else .locked }

/-- One boot stage: measured, then verified; boot stops at a bad signature with the measurement in place. -/
def bootStage (n : Nat) (g : Stage) (s : State) : State :=
  let s := extendM n g.digest s
  if Config.slhVerify 0 [g.digest.toNat] g.sig then s else { s with boot := .stopped }

/-- Stage one into M0, the further stages into M1. -/
def bootStages (n : Nat) : List Stage → State → State
  | [], s => s
  | g :: r, s =>
    let s := bootStage n g s
    if s.boot = .stopped then s else bootStages 1 r s

def Security.code : Security → Nat
  | .locked => 0 | .vendorDebug => 2 | .opened => 3

/-- The driver's measurements: the security state and the fuse into M2, the defect signature into M3. -/
def bootDriver (s : State) : State :=
  let s := extendM 2 (Config.stateDigest 0 (2 * s.security.code + (if s.fuse then 1 else 0))) s
  { extendM 3 (Config.stateDigest 1 s.signature) s with boot := .done }

/-- RESET: LOCKED, OPEN by the strap on a part whose lab fuse is intact, or VENDOR_DEBUG after its token; then boot. -/
def execReset (strap : Bool) (stages : List Stage) (s : State) : Res :=
  let s := bootStages 0 stages (resetState strap s)
  .next (if s.boot = .stopped then s else if stages = [] then { s with boot := .stopped } else bootDriver s)

/-! ### Security states (25 R382) -/

/-- The nonce that the device gives for its next token. -/
def State.nonceNow (s : State) : Nat := Config.nonceOf s.nonce

/-- TENANT_DEBUG_TOKEN: signed by the tenant over the device, the binding, the nonce and the expiry; only while the binding has no running launch. -/
def execTenantDebugToken (m : BitVec 6) (tenant nonce : Nat) (expiry : W64) (sig : Nat) (s : State) : Res :=
  .next (if s.boot = .done && s.pstate != .off && ((s.mailbox m.toNat).bound.map (fun b => b.tenant)) == some tenant && nonce == s.nonceNow &&
        !s.running m.toNat && decide (s.time.toNat < expiry.toNat) &&
        Config.slhVerify (1 + tenant) [s.devid, m.toNat, tenant, nonce, expiry.toNat] sig then
      let s := { s with tenantDebug := SMap.set none s.tenantDebug m.toNat (some expiry), nonce := s.nonce + 1 }
      permitAll (extendM 2 (Config.stateDigest 2 (tenant * 64 + m.toNat)) s)
    else s)

/-- VENDOR_DEBUG_TOKEN: signed by Lamud; the next reset zeroes the device and enters the state. -/
def execVendorDebugToken (sig : Nat) (s : State) : Res :=
  .next (if s.boot = .done && s.pstate != .off && Config.slhVerify 0 [s.devid, s.nonceNow] sig then { s with armed := true, nonce := s.nonce + 1 } else s)

/-- A binding leaves TENANT_DEBUG. -/
def leaveDebug (m : Nat) (s : State) : State := endDebug m s

/-- TOKEN_EXPIRY. -/
def execTokenExpiry (m : BitVec 6) (s : State) : Res :=
  .next (match SMap.get none s.tenantDebug m.toNat with
    | some e => if e.toNat ≤ s.time.toNat ∧ s.pstate ≠ .off then leaveDebug m.toNat s else s
    | none => s)

/-- TOKEN_WITHDRAWAL. -/
def execTokenWithdrawal (m : BitVec 6) (s : State) : Res :=
  .next (match SMap.get none s.tenantDebug m.toNat with
    | some _ => if s.pstate = .off then s else leaveDebug m.toNat s
    | none => s)

/-! ### SPDM (25 R381) -/

def transportKey : Transport → Nat
  | .doe => 0 | .management => 1

/-- The device answers on a transport: on both after boot, on the management port alone where boot has stopped (25 R380). -/
def State.answers (s : State) (t : Transport) : Bool :=
  s.pstate != .off && (match s.boot with
    | .done => true
    | .stopped => t == .management
    | .pending => false)

/-- Answer a request that needs the negotiation to have reached `need`, and that leaves it at `after` when that is higher. -/
def spdmOp (t : Transport) (need after : Nat) (r : State → SpdmReply) (s : State) : Res :=
  .next (if !s.answers t then s
    else
      let at_ := SMap.get 0 s.spdm (transportKey t)
      if at_ < need then toHost (.spdm t .unexpected) s
      else toHost (.spdm t (r s)) { s with spdm := SMap.set 0 s.spdm (transportKey t) (if after = 1 then 1 else max at_ after) })

def execGetVersion (t : Transport) (s : State) : Res := spdmOp t 0 1 (fun _ => .version) s
def execGetCapabilities (t : Transport) (s : State) : Res := spdmOp t 1 2 (fun _ => .capabilities) s
def execNegotiateAlgorithms (t : Transport) (s : State) : Res := spdmOp t 2 3 (fun _ => .algorithms) s
def execGetDigests (t : Transport) (s : State) : Res := spdmOp t 3 3 (fun _ => .digests Config.certDigest) s

def execGetCertificate (t : Transport) (offset length : Nat) (s : State) : Res :=
  spdmOp t 3 3 (fun _ => .certificate ((Config.certChain.drop offset).take length)) s

def execChallenge (t : Transport) (nonce : Nat) (s : State) : Res :=
  spdmOp t 3 3 (fun s => .challengeAuth nonce (Config.slhSign [nonce, s.devid])) s

/-- The security state with which block 16 reports each binding: 0 LOCKED, 1 TENANT_DEBUG, 2 VENDOR_DEBUG, 3 OPEN (log 53). -/
def State.stateBytes (s : State) : List Byte :=
  (List.range 64).filterMap (fun m => if (s.mailbox m).bound.isNone then none
    else some (BitVec.ofNat 8 (if s.security = .locked ∧ (SMap.get none s.tenantDebug m).isSome then 1 else s.security.code)))

def execGetMeasurements (t : Transport) (nonce : Nat) (s : State) : Res :=
  spdmOp t 3 3 (fun s =>
    let blocks := (List.range 16).map (fun i => SMap.get 0 s.meas i)
    let states := s.stateBytes
    .measurements blocks states nonce (Config.slhSign (nonce :: (blocks.map (fun b => b.toNat) ++ states.map (fun b => b.toNat))))) s

/-! ### Accounting snapshots (25 R387) -/

/-- The body of a snapshot. -/
def snapshotBody (s : State) (domain : BitVec 8) (nonce : W64) : List Byte :=
  leBytes 8 s.time.toNat ++ leBytes 8 nonce.toNat ++ leBytes 4 (s.devid % 2 ^ 20 + domain.toNat * 2 ^ 20) ++
    (List.range 9).flatMap (fun i => leBytes 8 (counterOf s domain i)) ++ leBytes 4 s.snapSeq

/-- ACCOUNTING_SNAPSHOT. -/
def execAccountingSnapshot (domain : BitVec 8) (nonce : W64) (s : State) : Res :=
  .next (if s.boot ≠ .done ∨ s.pstate = .off then s
    else
      let s := acctSettle domain s
      let body := snapshotBody s domain nonce
      toHost (.snapshot body (Config.slhSign [numOf body])) { s with snapSeq := s.snapSeq + 1 })

end Sys2Proof.Machine
end

