-- ==== Sys2Proof/Machine/Transform.lean ====
section
/-! DEFINITION. The transform pipe (09 R175 to R181): XTAB, XDEC, XCRC, XSRT, the start and the reply of a command. -/

namespace Sys2Proof.Machine

/-! ### Issue -/

/-- Commands as the pipe serves them: those that have arrived, in order of arrival, then those that wait behind a command of their own quadrant, so that a command has at most three of other quadrants ahead of it (09 R175; log 78). -/
def pipeOrder (q : List Nat) : List Nat :=
  let arrived := fun (x : Nat × Nat) => !(q.take x.2).any (fun g => g % 4 == x.1 % 4)
  (q.zipIdx.filter arrived ++ q.zipIdx.filter (fun x => !arrived x)).map (fun x => x.1)

/-- The command enters the pipe's queue and its split waits for the reply (09 R175). -/
def enterPipe (cx : Ctx) (op : XOp) (s : State) : State :=
  waitAt cx (.transform op) (s.updWg cx.core (fun w => { w with xq := pipeOrder (w.xq ++ [cx.gang]) }))

/-- XTAB (09 R177). -/
def execXtab (t : BitVec 2) (r : BitVec 1) (a : BitVec 6) (s : State) : Res :=
  issue s (fun cx => do
    needCollective cx
    pure (enterPipe cx (.tab t.toNat (r == 1) a.toNat) s))

/-- XDEC (09 R178, R179). -/
def execXdec (f a b c : BitVec 6) (s : State) : Res :=
  issue s (fun cx => do
    need (decide (f.toNat < 60)) (illegalOperand cx)
    needCollective cx
    regBlock cx (2 * f.toNat + 8)
    pure (enterPipe cx (.dec f.toNat a.toNat b.toNat c.toNat) s))

/-- XCRC (09 R180). -/
def execXcrc (d b c : BitVec 6) (s : State) : Res :=
  issue s (fun cx => do
    needCollective cx
    need (decide ((cx.g.sreg c.toNat).toNat ≤ 65536)) (illegalOperand cx)
    pure (enterPipe cx (.crc d.toNat b.toNat c.toNat) s))

/-- XSRT (09 R181): the keys carry one tag, S32, N32 or F32. -/
def execXsrt (f a : BitVec 6) (s : State) : Res :=
  issue s (fun cx => do
    needCollective cx
    need (decide ((cx.g.sreg a.toNat).toNat < 2)) (illegalOperand cx)
    let k := 2 * f.toNat
    regBlock cx k
    let t ← oneTag cx [k]
    need (t == .s32 || t == .n32 || t == .f32) (raise .formatTag)
    parity cx k
    parity cx (k + 1)
    pure (enterPipe cx (.srt f.toNat a.toNat) s))

/-! ### Reading the scratchpad -/

/-- A command's trap: cause, TRAPA, lane. -/
structure XFault where
  cause : Cause
  addr : W64
  lane : Nat
  deriving DecidableEq, Repr

/-- What the pipe knows of the command it runs. -/
structure XEnv where
  core : Nat
  gang : Nat
  g : Gang
  lanes : W32

/-- An operand range lies wholly in the workgroup's scratchpad, at local addresses (09 R175). -/
def pipeInside (s : State) (e : XEnv) (a : W64) (n : Nat) : Bool :=
  (bytesOf a n).all (fun b => match spaceOf b with
    | .localPad off => decide (off < (s.wgAt e.core).kernel.scratch)
    | _ => false)

/-- The byte that the pipe finds for a gang: as it stood after some write, where nothing orders the later ones before what the gang does (09 R175, 11 R203). -/
def State.pipeByte (s : State) (core gang : Nat) (a : W64) : Byte := s.seenByte (gangEye s core gang) (s.pickAt a) (placeOf s core a)

/-- Bytes of a local scratchpad range, checked as a load of the gang: PROTECTION outside the workgroup's scratchpad, RACE, INTEGRITY (09 R175, 11 R214). -/
def pipeRead (s : State) (e : XEnv) (lane : Nat) (a : W64) (n : Nat) : Except XFault (List Byte) :=
  let bs := bytesOf a n
  if !pipeInside s e a n then .error ⟨.protection, a, lane⟩
  else if bs.any (races s e.core e.gang .load) then .error ⟨.race, a, lane⟩
  else match bs.find? (fun b => s.poisonAt (placeOf s e.core b)) with
    | some b => .error ⟨.integrity, b, lane⟩
    | none => .ok (bs.map (s.pipeByte e.core e.gang))

/-- STREAM_FORMAT: the cause in [7:0], the lane in [12:8] (09 R179). -/
def streamFault (cause lane : Nat) : XFault := ⟨.streamFormat, BitVec.ofNat 64 (cause + lane * 2 ^ 8), lane⟩

/-! ### Code tables (09 R177) -/

/-- Codewords of a table as (length, code, symbol), in canonical order. -/
def XTable.codes (t : XTable) : List (Nat × Nat × Byte) :=
  ((List.range 12).foldl (fun (st : Nat × Nat × List (Nat × Nat × Byte)) i =>
    let n := (t.counts[i]?).getD 0
    let new := (List.range n).map (fun k => (i + 1, st.1 + k, (t.symbols[st.2.1 + k]?).getD 0))
    ((st.1 + n) * 2, st.2.1 + n, st.2.2 ++ new)) (0, 0, [])).2.2

/-- The counts of an image allow no code. -/
def badCounts (ns : List Nat) : Bool :=
  ns.sum == 0 || decide (256 < ns.sum) ||
  decide (4096 < ((ns.zipIdx).map (fun x => x.1 * 2 ^ (11 - x.2))).sum)

/-- Read a table image. -/
def readTable (s : State) (e : XEnv) (run : Bool) (a : W64) : Except XFault XTable := do
  let low := lowLane e.lanes
  let hd ← pipeRead s e low a 24
  let ns := (List.range 12).map (fun i => numOf ((hd.drop (2 * i)).take 2))
  if badCounts ns then throw (streamFault 6 low)
  let syms ← pipeRead s e low (a + 24) ns.sum
  pure ⟨ns, syms, run⟩

/-! ### XDEC (09 R178, R179) -/

/-- Bit `b` of a stream. -/
def streamBit (data : List Byte) (b : Nat) : Nat := bitsAt ((data[b / 8]?).getD 0).toNat (b % 8) 1

/-- The `n` bits of a stream from a position, the first the most significant. -/
def streamBits (data : List Byte) (pos n : Nat) : Nat :=
  (List.range n).foldl (fun x i => 2 * x + streamBit data (pos + i)) 0

/-- Decode the codewords that start below `lim`; each takes a bit at least, so `fuel` bounds their number. -/
def decodeChunk (t : XTable) (codes : List (Nat × Nat × Byte)) (data : List Byte) (lane nbits lim : Nat) :
    Nat → Nat → List Byte → Option Byte → Except XFault (List Byte)
  | 0, _, out, _ => .ok out
  | fuel + 1, pos, out, prev =>
    if lim ≤ pos then .ok out
    else
      match codes.find? (fun c => streamBits data pos c.1 == c.2.1) with
      | none => .error (streamFault 2 lane)
      | some (n, _, sym) =>
        if nbits < pos + n then .error (streamFault 2 lane)
        else if t.run && decide (0xF0 ≤ sym.toNat) then
          match prev with
          | none => .error (streamFault 3 lane)
          | some p =>
            let out := out ++ List.replicate (sym.toNat - 0xF0 + 1) p
            if 32 < out.length then .error (streamFault 1 lane)
            else decodeChunk t codes data lane nbits lim fuel (pos + n) out prev
        else
          let out := out ++ [sym]
          if 32 < out.length then .error (streamFault 1 lane)
          else decodeChunk t codes data lane nbits lim fuel (pos + n) out (some sym)

/-- One lane's chunk: its output symbols. The lane reads the bytes of its chunk and of the 11 bits after it, as far as the stream goes; positions count from the chunk's first bit, which begins a byte (log 67). The chunk number s[C] + l and its first bit c × W do not wrap (DESIGN CHOICE, log 111). -/
def decodeLane (s : State) (e : XEnv) (t : XTable) (stream gap : W64) (c0 w nbits l : Nat) : Except XFault (List Byte) := do
  let c := c0 + l
  let start := c * w
  if nbits ≤ start then pure []
  else
    let b ← pipeRead s e l (gap + BitVec.ofNat 64 (c / 2)) 1
    let g := bitsAt (numOf b) (4 * (c % 2)) 4
    if 11 < g then throw (streamFault 4 l)
    let data ← pipeRead s e l (stream + BitVec.ofNat 64 (start / 8)) ((min (w + 11) (nbits - start) + 7) / 8)
    decodeChunk t t.codes data l (nbits - start) (min w (nbits - start)) w g [] none

/-- XDEC's outputs by lane. A stream that leaves the scratchpad (PROTECTION, 09 R175) is looked at after the header and the table, and before what each lane meets in its chunk: 09 R179 names no order between the two traps (DESIGN CHOICE, log 101). -/
def decodeAll (s : State) (e : XEnv) (a b c : W64) : Except XFault (List (Nat × List Byte)) := do
  let low := lowLane e.lanes
  let hd ← pipeRead s e low a 16
  let x := numOf hd
  let w := bitsAt x 0 16
  if bitsAt x 18 14 ≠ 0 ∨ bitsAt x 64 64 ≠ 0 ∨ w < 64 ∨ 1024 < w ∨ w % 32 ≠ 0 then throw (streamFault 5 low)
  let t ← match SMap.get none (s.wgAt e.core).xtab (bitsAt x 16 2) with
    | some t => pure t
    | none => throw (streamFault 6 low)
  let nbits := bitsAt x 32 32
  if !pipeInside s e (a + 16) ((nbits + 7) / 8) then throw ⟨.protection, a + 16, low⟩
  (lanesOf e.lanes).mapM (fun l => do
    let out ← decodeLane s e t (a + 16) b c.toNat w nbits l
    pure (l, out))

/-- Write XDEC's destinations: eight registers of bytes, and the counts. -/
def Gang.putDecoded (g : Gang) (d : Nat) (outs : List (Nat × List Byte)) : Gang :=
  outs.foldl (fun g o =>
    let g := (List.range 8).foldl (fun g i => g.setV (d + i) o.1 (BitVec.ofNat 32 (numOf ((o.2.drop (4 * i)).take 4))) .n8x4) g
    g.setV (d + 8) o.1 (BitVec.ofNat 32 o.2.length) .n32) g

/-! ### XCRC (09 R180) -/

/-- One bit of the reflected CRC. -/
def crcBit (x : W32) : W32 := (x >>> 1) ^^^ (if x.getLsbD 0 then 0x82F63B78 else 0)

def crcByte (x : W32) (b : Byte) : W32 :=
  (List.range 8).foldl (fun x _ => crcBit x) (x ^^^ b.zeroExtend 32)

/-- CRC-32C of bytes, chained. -/
def crc32c (x : W32) (bs : List Byte) : W32 := ~~~(bs.foldl crcByte (~~~x))

/-! ### XSRT (09 R181) -/

/-- A key as a number in ascending order: natural, signed, or by the totalOrder of IEEE 754. -/
def sortKey (t : Tag) (x : W32) : Nat :=
  match t with
  | .s32 => (x ^^^ 0x80000000).toNat
  | .f32 => if x.getLsbD 31 then (~~~x).toNat else (x ^^^ 0x80000000).toNat
  | _ => x.toNat

/-- Insert a lane before the first whose key follows its own. -/
def insertLane (before : Nat → Nat → Bool) (l : Nat) : List Nat → List Nat
  | [] => [l]
  | m :: r => if before l m then l :: m :: r else m :: insertLane before l r

/-- Lanes in the order of their keys; equal keys keep ascending lane order. -/
def sortLanes (g : Gang) (k : Nat) (descending : Bool) (ls : List Nat) : List Nat :=
  let key := fun l => sortKey (g.cell k l).tag (g.cell k l).bits
  let before := fun a b => if descending then decide (key b < key a) else decide (key a < key b)
  ls.foldl (fun acc l => insertLane before l acc) []

/-- Keys and payloads move to the lanes of their ranks. -/
def Gang.sorted (g : Gang) (k : Nat) (order : List Nat) : Gang :=
  (order.zipIdx).foldl (fun y x =>
    (y.setV k x.2 (g.cell k x.1).bits (g.cell k x.1).tag).setV (k + 1) x.2 (g.cell (k + 1) x.1).bits (g.cell (k + 1) x.1).tag) g

/-! ### The pipe -/

/-- TRANSFORM_START: the oldest arrived command starts; none does in a workgroup that ends (21 R340). -/
def execTransformStart (core : Nat) (s : State) : Res :=
  let w := s.wgAt core
  .next (if !w.xrun && !w.xq.isEmpty && !w.ending then s.setWg core { w with xrun := true } else s)

/-- The split of a gang that waits for the pipe, with its command. -/
def Gang.pipeSplit (g : Gang) : Option (Nat × Split × XOp) :=
  (g.splits.zipIdx).findSome? (fun x => match x.1.wait with
    | .transform op => some (x.2, x.1, op)
    | _ => none)

/-- The effect of a command at its reply, or its trap. -/
def runTransform (s : State) (e : XEnv) (op : XOp) : Except XFault State :=
  let upd := fun (f : Gang → Gang) => s.updGang e.core e.gang f
  match op with
  | .tab t run a => do
    let x ← readTable s e run (e.g.sreg a)
    pure (s.updWg e.core (fun w => { w with xtab := SMap.set none w.xtab t (some x) }))
  | .dec f a b c => do
    let outs ← decodeAll s e (e.g.sreg a) (e.g.sreg b) (e.g.sreg c)
    pure (upd (fun g => g.putDecoded (2 * f) outs))
  | .crc d b c =>
    let n := (e.g.sreg c).toNat
    if n = 0 then .ok s
    else do
      let bs ← pipeRead s e (lowLane e.lanes) (e.g.sreg b) n
      pure (upd (fun g => g.setS d ((crc32c ((e.g.sreg d).truncate 32) bs).zeroExtend 64)))
  | .srt f a =>
    .ok (upd (fun g => g.sorted (2 * f) (sortLanes g (2 * f) ((e.g.sreg a).getLsbD 0) (lanesOf e.lanes))))

/-- Raise a trap at a waiting split in the name of a lane. -/
def trapLane (core gang i : Nat) (f : XFault) (s : State) : State :=
  let g := s.gangAt core gang
  match g.splits[i]? with
  | none => s
  | some sp =>
    if f.cause.puone then
      s.setGang core gang { g.setSplit i { sp with pc := sp.waitFirst, wait := .none } with
        service := some { cause := f.cause, addr := f.addr, faults := [(f.lane, f.addr)], malformed := false, pc := sp.waitFirst,
                          trapl := traplOf gang g sp none f.lane, split := i, trapOff := sp.pc, plane := g.planeOf f.lane,
                          anchored := true, tag := sp.waitTag, since := s.time } }
    else
      deliver core gang { cause := f.cause, swnum := 0, trapa := f.addr, pc := sp.waitFirst, trapl := traplOf gang g sp none f.lane,
                          split := i, trapOff := sp.pc, plane := g.planeOf f.lane, anchored := true, tag := sp.waitTag } s

/-- TRANSFORM_REPLY: the running command replies; its split goes on, or takes its trap. -/
def execTransformReply (core : Nat) (s : State) : Res :=
  let w := s.wgAt core
  match w.xq, w.xrun with
  | gang :: rest, true =>
    let s := s.setWg core { w with xq := pipeOrder rest, xrun := false }
    match (s.gangAt core gang).pipeSplit with
    | none => .next s
    | some (i, sp, op) =>
      match runTransform s ⟨core, gang, s.gangAt core gang, sp.lanes⟩ op with
      | .ok s' => .next (s'.updGang core gang (fun g => g.release i)).draw
      | .error f => .next (trapLane core gang i f s)
  | _, _ => .next s

end Sys2Proof.Machine
end

