-- ==== Sys2Proof/Machine/Dispatch.lean ====
section
/-! DEFINITION. The meaning of every row of the opcode table: one arm for each constructor of Instr. -/

namespace Sys2Proof.Machine

def exec (i : Instr) (s : State) : Host.Outcome State Fault Refusal :=
  match i with
  | .nop => Sys2Proof.Machine.execNop s
  | .bra p q f => Sys2Proof.Machine.execBra p q f s
  | .brc p q f => Sys2Proof.Machine.execBrc p q f s
  | .skip p q n => Sys2Proof.Machine.execSkip p q n s
  | .call p q f => Sys2Proof.Machine.execCall p q f s
  | .ret p q l => Sys2Proof.Machine.execRet p q l s
  | .jmpi p q b n => Sys2Proof.Machine.execJmpi p q b n s
  | .exit p q => Sys2Proof.Machine.execExit p q s
  | .yield => Sys2Proof.Machine.execYield s
  | .regang m => Sys2Proof.Machine.execRegang m s
  | .loop p q c f => Sys2Proof.Machine.execLoop p q c f s
  | .plsw p a => Sys2Proof.Machine.execPlsw p a s
  | .plset a => Sys2Proof.Machine.execPlset a s
  | .plmsk d a => Sys2Proof.Machine.execPlmsk d a s
  | .plocc d => Sys2Proof.Machine.execPlocc d s
  | .racq => Sys2Proof.Machine.execRacq s
  | .rrel => Sys2Proof.Machine.execRrel s
  | .rent idx => Sys2Proof.Machine.execRent idx s
  | .rlev idx => Sys2Proof.Machine.execRlev idx s
  | .pand d a b => Sys2Proof.Machine.execPand d a b s
  | .por d a b => Sys2Proof.Machine.execPor d a b s
  | .pxor d a b => Sys2Proof.Machine.execPxor d a b s
  | .pnot d a => Sys2Proof.Machine.execPnot d a s
  | .ptos d a => Sys2Proof.Machine.execPtos d a s
  | .pset d b => Sys2Proof.Machine.execPset d b s
  | .pany d a => Sys2Proof.Machine.execPany d a s
  | .pall d a => Sys2Proof.Machine.execPall d a s
  | .sadd d a b => Sys2Proof.Machine.execSadd d a b s
  | .ssub d a b => Sys2Proof.Machine.execSsub d a b s
  | .smul d a b => Sys2Proof.Machine.execSmul d a b s
  | .smulh m d a b => Sys2Proof.Machine.execSmulh m d a b s
  | .sdiv m d a b => Sys2Proof.Machine.execSdiv m d a b s
  | .srem m d a b => Sys2Proof.Machine.execSrem m d a b s
  | .sand d a b => Sys2Proof.Machine.execSand d a b s
  | .sor d a b => Sys2Proof.Machine.execSor d a b s
  | .sxor d a b => Sys2Proof.Machine.execSxor d a b s
  | .sshl d a b => Sys2Proof.Machine.execSshl d a b s
  | .sshr d a b => Sys2Proof.Machine.execSshr d a b s
  | .ssra d a b => Sys2Proof.Machine.execSsra d a b s
  | .smin m d a b => Sys2Proof.Machine.execSmin m d a b s
  | .smax m d a b => Sys2Proof.Machine.execSmax m d a b s
  | .scmp m d a b => Sys2Proof.Machine.execScmp m d a b s
  | .ssel d a b => Sys2Proof.Machine.execSsel d a b s
  | .smov d b => Sys2Proof.Machine.execSmov d b s
  | .smovi d h idx => Sys2Proof.Machine.execSmovi d h idx s
  | .slea m d a b => Sys2Proof.Machine.execSlea m d a b s
  | .sclz d a => Sys2Proof.Machine.execSclz d a s
  | .spop d a => Sys2Proof.Machine.execSpop d a s
  | .sbfe m d a b => Sys2Proof.Machine.execSbfe m d a b s
  | .vadd n d a b => Sys2Proof.Machine.execVadd n d a b s
  | .vsub n d a b => Sys2Proof.Machine.execVsub n d a b s
  | .vmul n d a b => Sys2Proof.Machine.execVmul n d a b s
  | .vmulh n d a b => Sys2Proof.Machine.execVmulh n d a b s
  | .vmad n d a b => Sys2Proof.Machine.execVmad n d a b s
  | .vand n d a b => Sys2Proof.Machine.execVand n d a b s
  | .vor n d a b => Sys2Proof.Machine.execVor n d a b s
  | .vxor n d a b => Sys2Proof.Machine.execVxor n d a b s
  | .vshl n d a b => Sys2Proof.Machine.execVshl n d a b s
  | .vshr n d a b => Sys2Proof.Machine.execVshr n d a b s
  | .vsra n d a b => Sys2Proof.Machine.execVsra n d a b s
  | .vmin n d a b => Sys2Proof.Machine.execVmin n d a b s
  | .vmax n d a b => Sys2Proof.Machine.execVmax n d a b s
  | .vabsd n d a b => Sys2Proof.Machine.execVabsd n d a b s
  | .vclz n d a => Sys2Proof.Machine.execVclz n d a s
  | .vpop n d a => Sys2Proof.Machine.execVpop n d a s
  | .vbfe n d a b => Sys2Proof.Machine.execVbfe n d a b s
  | .vbfi n d a b => Sys2Proof.Machine.execVbfi n d a b s
  | .vsel n d a b => Sys2Proof.Machine.execVsel n d a b s
  | .vmov n d a => Sys2Proof.Machine.execVmov n d a s
  | .vcmp y r p a b => Sys2Proof.Machine.execVcmp y r p a b s
  | .fadd n d a b => Sys2Proof.Machine.execFadd n d a b s
  | .fsub n d a b => Sys2Proof.Machine.execFsub n d a b s
  | .fmul n d a b => Sys2Proof.Machine.execFmul n d a b s
  | .ffma n d a b => Sys2Proof.Machine.execFfma n d a b s
  | .fmin n d a b => Sys2Proof.Machine.execFmin n d a b s
  | .fmax n d a b => Sys2Proof.Machine.execFmax n d a b s
  | .fcmp y r p a b => Sys2Proof.Machine.execFcmp y r p a b s
  | .frcp n d a => Sys2Proof.Machine.execFrcp n d a s
  | .frsq n d a => Sys2Proof.Machine.execFrsq n d a s
  | .fexp2 n d a => Sys2Proof.Machine.execFexp2 n d a s
  | .flog2 n d a => Sys2Proof.Machine.execFlog2 n d a s
  | .fclass n d a => Sys2Proof.Machine.execFclass n d a s
  | .fdot2 n d a b => Sys2Proof.Machine.execFdot2 n d a b s
  | .cvt n d a b => Sys2Proof.Machine.execCvt n d a b s
  | .cvtl6 n d a b => Sys2Proof.Machine.execCvtl6 n d a b s
  | .l6scl n d a => Sys2Proof.Machine.execL6scl n d a s
  | .tagset n d a b => Sys2Proof.Machine.execTagset n d a b s
  | .tagget n d a => Sys2Proof.Machine.execTagget n d a s
  | .pack n d a b => Sys2Proof.Machine.execPack n d a b s
  | .unpk n d a b => Sys2Proof.Machine.execUnpk n d a b s
  | .vshfl d a b => Sys2Proof.Machine.execVshfl d a b s
  | .vrot d a b => Sys2Proof.Machine.execVrot d a b s
  | .vbcst d a b => Sys2Proof.Machine.execVbcst d a b s
  | .vred d a o => Sys2Proof.Machine.execVred d a o s
  | .vscan d a e o => Sys2Proof.Machine.execVscan d a e o s
  | .vcmpt d a p => Sys2Proof.Machine.execVcmpt d a p s
  | .vbal d p m => Sys2Proof.Machine.execVbal d p m s
  | .xtab t r a => Sys2Proof.Machine.execXtab t r a s
  | .xdec f a b c => Sys2Proof.Machine.execXdec f a b c s
  | .xcrc d b c => Sys2Proof.Machine.execXcrc d b c s
  | .xsrt f a => Sys2Proof.Machine.execXsrt f a s
  | .ldb v sr x f => Sys2Proof.Machine.execLdb v sr x f s
  | .ldh v sr x f => Sys2Proof.Machine.execLdh v sr x f s
  | .ldw v sr x f => Sys2Proof.Machine.execLdw v sr x f s
  | .ldd v sr x f => Sys2Proof.Machine.execLdd v sr x f s
  | .ldq v sr x f => Sys2Proof.Machine.execLdq v sr x f s
  | .stb v sr x f => Sys2Proof.Machine.execStb v sr x f s
  | .sth v sr x f => Sys2Proof.Machine.execSth v sr x f s
  | .stw v sr x f => Sys2Proof.Machine.execStw v sr x f s
  | .std v sr x f => Sys2Proof.Machine.execStd v sr x f s
  | .stq v sr x f => Sys2Proof.Machine.execStq v sr x f s
  | .sld d sr f => Sys2Proof.Machine.execSld d sr f s
  | .sst d sr f => Sys2Proof.Machine.execSst d sr f s
  | .atom v sr x f => Sys2Proof.Machine.execAtom v sr x f s
  | .abnd v sr x => Sys2Proof.Machine.execAbnd v sr x s
  | .acas v sr x => Sys2Proof.Machine.execAcas v sr x s
  | .fence sr k => Sys2Proof.Machine.execFence sr k s
  | .ifence => Sys2Proof.Machine.execIfence s
  | .prf sr x f => Sys2Proof.Machine.execPrf sr x f s
  | .pgenum d a => Sys2Proof.Machine.execPgenum d a s
  | .pgstat d a => Sys2Proof.Machine.execPgstat d a s
  | .rginfo f d a => Sys2Proof.Machine.execRginfo f d a s
  | .opmap n a => Sys2Proof.Machine.execOpmap n a s
  | .mma c a b z o k => Sys2Proof.Machine.execMma c a b z o k s
  | .mmas c a b z o k => Sys2Proof.Machine.execMmas c a b z o k s
  | .mmac c a b z o k => Sys2Proof.Machine.execMmac c a b z o k s
  | .accz c sr => Sys2Proof.Machine.execAccz c sr s
  | .accld c n => Sys2Proof.Machine.execAccld c n s
  | .accst c n => Sys2Proof.Machine.execAccst c n s
  | .accrd f p => Sys2Proof.Machine.execAccrd f p s
  | .accwr f p => Sys2Proof.Machine.execAccwr f p s
  | .mstep w d => Sys2Proof.Machine.execMstep w d s
  | .cpy k idx r l q => Sys2Proof.Machine.execCpy k idx r l q s
  | .gath k idx d b => Sys2Proof.Machine.execGath k idx d b s
  | .scat k idx d b => Sys2Proof.Machine.execScat k idx d b s
  | .binit k idx m e => Sys2Proof.Machine.execBinit k idx m e s
  | .barv idx d => Sys2Proof.Machine.execBarv idx d s
  | .bexp idx a => Sys2Proof.Machine.execBexp idx a s
  | .bwait idx a => Sys2Proof.Machine.execBwait idx a s
  | .btest k idx d => Sys2Proof.Machine.execBtest k idx d s
  | .cwait n a => Sys2Proof.Machine.execCwait n a s
  | .stga idx d => Sys2Proof.Machine.execStga idx d s
  | .stgc idx => Sys2Proof.Machine.execStgc idx s
  | .stgw idx d => Sys2Proof.Machine.execStgw idx d s
  | .stgf idx => Sys2Proof.Machine.execStgf idx s
  | .cbar => Sys2Proof.Machine.execCbar s
  | .emit sr r => Sys2Proof.Machine.execEmit sr r s
  | .edgrd k d b => Sys2Proof.Machine.execEdgrd k d b s
  | .trap n a => Sys2Proof.Machine.execTrap n a s
  | .tret => Sys2Proof.Machine.execTret s
  | .srd n d => Sys2Proof.Machine.execSrd n d s
  | .swr n a => Sys2Proof.Machine.execSwr n a s
  | .halt a => Sys2Proof.Machine.execHalt a s
  | .bkpt n => Sys2Proof.Machine.execBkpt n s
  | .trcm d a => Sys2Proof.Machine.execTrcm d a s
  | .trcc k => Sys2Proof.Machine.execTrcc k s
  | .acct d a => Sys2Proof.Machine.execAcct d a s
  | .tlbi k a b => Sys2Proof.Machine.execTlbi k a b s
  | .watch w a b => Sys2Proof.Machine.execWatch w a b s
  | .imm idx => Sys2Proof.Machine.execImm idx s
  | .imm2 idx => Sys2Proof.Machine.execImm2 idx s
  | .mod sr c a b x y n e m => Sys2Proof.Machine.execMod sr c a b x y n e m s
  | .hintJoin j => Sys2Proof.Machine.execHintJoin j s
  | .hintStall n => Sys2Proof.Machine.execHintStall n s
  | .hintReuse a b => Sys2Proof.Machine.execHintReuse a b s
  | .hintTrace t => Sys2Proof.Machine.execHintTrace t s
  | .hintOrd o sr => Sys2Proof.Machine.execHintOrd o sr s
  | .doorbell m addr host => Sys2Proof.Machine.execDoorbell m addr host s
  | .load m choice => Sys2Proof.Machine.execLoad m choice s
  | .launch m => Sys2Proof.Machine.execLaunch m s
  | .free m => Sys2Proof.Machine.execFree m s
  | .extend m => Sys2Proof.Machine.execExtend m s
  | .setage m => Sys2Proof.Machine.execSetage m s
  | .pooladd m => Sys2Proof.Machine.execPooladd m s
  | .reserve m => Sys2Proof.Machine.execReserve m s
  | .bind m => Sys2Proof.Machine.execBind m s
  | .unbind m => Sys2Proof.Machine.execUnbind m s
  | .buffer m => Sys2Proof.Machine.execBuffer m s
  | .attach m => Sys2Proof.Machine.execAttach m s
  | .stop m => Sys2Proof.Machine.execStop m s
  | .resume m => Sys2Proof.Machine.execResume m s
  | .arm m => Sys2Proof.Machine.execArm m s
  | .terminate m => Sys2Proof.Machine.execTerminate m s
  | .detach m => Sys2Proof.Machine.execDetach m s
  | .gangExitComplete core gang => Sys2Proof.Machine.execGangExitComplete core gang s
  | .dispatch die => Sys2Proof.Machine.execDispatch die s
  | .ageing entry => Sys2Proof.Machine.execAgeing entry s
  | .contextSave core => Sys2Proof.Machine.execContextSave core s
  | .coalesceTimeout launch node => Sys2Proof.Machine.execCoalesceTimeout launch node s
  | .racqGrant core quad => Sys2Proof.Machine.execRacqGrant core quad s
  | .regStarvation core gang => Sys2Proof.Machine.execRegStarvation core gang s
  | .blockReturn core gang split => Sys2Proof.Machine.execBlockReturn core gang split s
  | .dualPathPop core gang slice => Sys2Proof.Machine.execDualPathPop core gang slice s
  | .loadReturn core gang index => Sys2Proof.Machine.execLoadReturn core gang index s
  | .matrixCommandStart core => Sys2Proof.Machine.execMatrixCommandStart core s
  | .matrixCommandRetire core => Sys2Proof.Machine.execMatrixCommandRetire core s
  | .matrixFetchFault core => Sys2Proof.Machine.execMatrixFetchFault core s
  | .synchronousReply core gang => Sys2Proof.Machine.execSynchronousReply core gang s
  | .copyCommandStart core => Sys2Proof.Machine.execCopyCommandStart core s
  | .unitLand core unit => Sys2Proof.Machine.execUnitLand core unit s
  | .copyFault core unit => Sys2Proof.Machine.execCopyFault core unit s
  | .transformStart core => Sys2Proof.Machine.execTransformStart core s
  | .transformReply core => Sys2Proof.Machine.execTransformReply core s
  | .faultService core gang act => Sys2Proof.Machine.execFaultService core gang act s
  | .commandFaultService core engine act => Sys2Proof.Machine.execCommandFaultService core engine act s
  | .backingService core gang act => Sys2Proof.Machine.execBackingService core gang act s
  | .engineBackingWait core engine act => Sys2Proof.Machine.execEngineBackingWait core engine act s
  | .integrityService core gang => Sys2Proof.Machine.execIntegrityService core gang s
  | .errorCorrection e => Sys2Proof.Machine.execErrorCorrection e s
  | .blockedWaitRelease core gang split => Sys2Proof.Machine.execBlockedWaitRelease core gang split s
  | .edgeLossWrite die => Sys2Proof.Machine.execEdgeLossWrite die s
  | .stopDelivery core gang => Sys2Proof.Machine.execStopDelivery core gang s
  | .ifenceDiscard core gang split => Sys2Proof.Machine.execIfenceDiscard core gang split s
  | .tlbiRemove core gang split => Sys2Proof.Machine.execTlbiRemove core gang split s
  | .pageSecondsTick => Sys2Proof.Machine.execPageSecondsTick s
  | .traceSample core => Sys2Proof.Machine.execTraceSample core s
  | .collectorWrite die => Sys2Proof.Machine.execCollectorWrite die s
  | .freqUpdate power allowed hot => Sys2Proof.Machine.execFreqUpdate power allowed hot s
  | .timeSync slew => Sys2Proof.Machine.execTimeSync slew s
  | .fabricPacket port p => Sys2Proof.Machine.execFabricPacket port p s
  | .portFailure port routes => Sys2Proof.Machine.execPortFailure port routes s
  | .preqIdle => Sys2Proof.Machine.execPreqIdle s
  | .preqDeep => Sys2Proof.Machine.execPreqDeep s
  | .preqActive => Sys2Proof.Machine.execPreqActive s
  | .preqOff => Sys2Proof.Machine.execPreqOff s
  | .pstateChange => Sys2Proof.Machine.execPstateChange s
  | .registerWrite w => Sys2Proof.Machine.execRegisterWrite w s
  | .bar2Access b => Sys2Proof.Machine.execBar2Access b s
  | .reset strap stages => Sys2Proof.Machine.execReset strap stages s
  | .tenantDebugToken m tenant nonce expiry sig => Sys2Proof.Machine.execTenantDebugToken m tenant nonce expiry sig s
  | .vendorDebugToken sig => Sys2Proof.Machine.execVendorDebugToken sig s
  | .tokenExpiry m => Sys2Proof.Machine.execTokenExpiry m s
  | .tokenWithdrawal m => Sys2Proof.Machine.execTokenWithdrawal m s
  | .getVersion t => Sys2Proof.Machine.execGetVersion t s
  | .getCapabilities t => Sys2Proof.Machine.execGetCapabilities t s
  | .negotiateAlgorithms t => Sys2Proof.Machine.execNegotiateAlgorithms t s
  | .getDigests t => Sys2Proof.Machine.execGetDigests t s
  | .getCertificate t offset length => Sys2Proof.Machine.execGetCertificate t offset length s
  | .challenge t nonce => Sys2Proof.Machine.execChallenge t nonce s
  | .getMeasurements t nonce => Sys2Proof.Machine.execGetMeasurements t nonce s
  | .accountingSnapshot domain nonce => Sys2Proof.Machine.execAccountingSnapshot domain nonce s
  | .unassignedOpcode w => Sys2Proof.Machine.execUnassignedOpcode w s
  | .rocev2Packet port r => Sys2Proof.Machine.execRocev2Packet port r s

end Sys2Proof.Machine
end

