-- ==== Sys2Proof/Machine/Issue.lean ====
section
/-! DEFINITION. One issue of a quadrant: the word of the candidate is fetched, decoded and performed, or the fetch traps (05 R85, R87, R104, 01 R34, 21 R329). -/

namespace Sys2Proof.Machine

/-- The trap of an offset whose words may not issue together (01 R34): PLANE_ALIGN of the whole split, at the first word of a group that a plane has begun. -/
def planeAlign (core gang i : Nat) (sp : Split) (s : State) : State :=
  let g := s.gangAt core gang
  let lane := lowLane sp.lanes
  let first := (sp.pfx.filterMap (fun e => e.2.map (fun p => p.first))).foldl min sp.pc
  deliver core gang { cause := .planeAlign, swnum := 0, trapa := 0, pc := first, trapl := traplOf gang g sp none lane, split := i,
                      trapOff := sp.pc, plane := g.planeOf lane, anchored := true,
                      tag := (sp.pfx.findSome? (fun e => e.2)).bind (fun p => p.trace) } s

/-- The state in which the word of a split issues in a plane. -/
def issuing (core gang i : Nat) (plane : Option Nat) (w : W32) (s : State) : State :=
  { s with cur := some ⟨core, gang, i, plane, w⟩ }

/-- Perform a fetched word; a refused one takes its trap (05 R87, R104, 09 R160). -/
def perform (w : W32) (s : State) : Res :=
  match decode w with
  | .ok i => exec i s
  | .error .compareN => issue s (fun cx => .error (illegalOperand cx))
  | .error _ => exec (.unassignedOpcode (some w)) s

/-- The fetch of a word has gone through the TLBs, and its free choices are used up (11 R191, log 5, 6). -/
def afterFetch (core off plane : Nat) (s : State) : State :=
  let w := s.wgAt core
  let s := match spaceOf (w.kernel.addr off plane) with
    | .global va => s.tlbFill core w.asid (va / 65536)
    | _ => s
  { s with free := s.free + 2 }

/-- A fetch that faults goes to the Puone cores with the word's address, for the lanes of its plane (11 R192, 21 R335). The word issues again in the planes that have not issued it (01 R34, R46). -/
def fetchTrap (core off plane : Nat) (c : Cause) (malformed : Bool) (s : State) : Res :=
  issue s (fun cx =>
    let lanes := cx.g.inPlane cx.sp.lanes plane
    let a := (s.wgAt core).kernel.addr off plane
    .error (.trap ⟨c, a, some (lowLane lanes), 0, (lanesOf lanes).map (fun l => (l, a)), malformed⟩))

/-- Split `i` of a gang issues its next word in a plane. -/
def issueIn (core gang i : Nat) (sp : Split) (plane : Option Nat) (s : State) : Res :=
  if (s.wgAt core).kernel.length ≤ sp.pc then exec (.unassignedOpcode none) (issuing core gang i plane 0 s)
  else
    let n := fetchPlane s core (s.gangAt core gang) sp plane
    match s.fetch core sp.pc n with
    | .word w => perform w (issuing core gang i plane w (afterFetch core sp.pc n s))
    | .translation => fetchTrap core sp.pc n .translation false (issuing core gang i plane 0 (afterFetch core sp.pc n s))
    | .integrity => fetchTrap core sp.pc n .integrity false (issuing core gang i plane 0 (afterFetch core sp.pc n s))
    | .protection m => fetchTrap core sp.pc n .protection m (issuing core gang i plane 0 (afterFetch core sp.pc n s))
    | .fault pa => .fault (.physicalAddress pa)

/-- Split `i` of a gang issues. -/
def issueSplit (core gang i : Nat) (sp : Split) (s : State) : Res :=
  match modeAt s core (s.gangAt core gang) sp with
  | .align => .next (planeAlign core gang i sp s)
  | _ => issueIn core gang i sp (planeAt s core (s.gangAt core gang) sp) s

/-- A quadrant issues its candidate, if it has one (21 R329). -/
def issueQuad (core quad : Nat) (s : State) : Res :=
  match candidate s core quad with
  | some (gang, i, sp) => issueSplit core gang i sp s
  | none => .next s

/-- The issue is over and a clock passes (log 3). -/
def settled (r : Res) : Res :=
  match r with
  | .next s => .next (tick { s with cur := none })
  | .fault f => .fault f
  | .refused x => .refused x

end Sys2Proof.Machine
end

