-- ==== Sys2Proof/Machine/Schedule.lean ====
section
/-! DEFINITION. What a step does (log 2): the head of the agenda; with an empty agenda the default schedule, which lets the agents beside the cores go first and then the quadrants in turn. -/

namespace Sys2Proof.Machine

/-! ### Steps of the other agents that the default schedule looks at -/

/-- Steps that concern one split of a gang. -/
def splitEvents (core gang i : Nat) : List Instr :=
  [.blockedWaitRelease core gang i, .blockReturn core gang i, .ifenceDiscard core gang i, .tlbiRemove core gang i]

/-- Steps that concern one gang. -/
def gangEvents (core gang : Nat) (g : Gang) : List Instr :=
  [.stopDelivery core gang, .loadReturn core gang 0, .synchronousReply core gang, .integrityService core (some gang),
   .faultService core gang .terminate, .faultService core gang .deliver, .backingService core gang .deliver] ++
  (List.range g.splits.length).flatMap (splitEvents core gang) ++
  (List.range 8).map (fun j => .dualPathPop core gang j) ++
  [.regStarvation core gang, .gangExitComplete core gang]

/-- The next unit of the copy command at the head of a queue. -/
def nextUnit (w : Workgroup) : Nat :=
  match w.cq with
  | c :: _ => c.waiting
  | [] => 0

/-- Steps that concern one core. -/
def coreEvents (core : Nat) (w : Workgroup) : List Instr :=
  w.gangs.flatMap (fun e => gangEvents core e.1 e.2) ++ (List.range 4).map (fun q => .racqGrant core q) ++
  [.matrixCommandStart core, .matrixFetchFault core, .integrityService core none, .commandFaultService core .matrix .terminate,
   .engineBackingWait core .matrix .decline, .matrixCommandRetire core, .copyCommandStart core, .copyFault core (nextUnit w),
   .commandFaultService core .copy .terminate, .engineBackingWait core .copy .decline, .unitLand core (nextUnit w),
   .transformReply core, .transformStart core, .traceSample core, .contextSave core]

/-- Requests and calls of one mailbox; a LOAD needs the driver's placement and comes from the agenda alone. -/
def mailEvents (m : BitVec 6) : List Instr :=
  [.launch m, .free m, .extend m, .setage m, .pooladd m, .reserve m, .bind m, .unbind m, .buffer m, .attach m, .stop m, .resume m,
   .arm m, .terminate m, .detach m, .tokenExpiry m]

/-- Steps that concern one die. -/
def dieEvents (die : Nat) : List Instr := [.dispatch die, .collectorWrite die, .edgeLossWrite die]

/-- Every step of the other agents that no choice of the driver, the host or the world outside decides. -/
def State.events (s : State) : List Instr :=
  s.cores.flatMap (fun e => match e.2.wg with
    | some w => coreEvents e.1 w
    | none => []) ++
  s.mail.flatMap (fun e => mailEvents (BitVec.ofNat 6 e.1)) ++ (List.range s.ready.length).map (fun i => .ageing i) ++
  s.launches.flatMap (fun e => match e.2 with
    | some l => (List.range l.nodes.length).map (fun n => .coalesceTimeout e.1 n)
    | none => []) ++
  (List.range 4).flatMap dieEvents ++ [.engineBackingWait 0 .fabric .decline, .pageSecondsTick, .pstateChange]

/-- A step changes something now. -/
def enabled (s : State) (i : Instr) : Bool :=
  match exec i s with
  | .next t => decide (t ≠ s)
  | _ => true

/-! ### The default schedule -/

/-- The quadrants of cores that hold a workgroup, from the one whose turn it is. -/
def State.quads (s : State) : List (Nat × Nat) :=
  let qs := s.cores.flatMap (fun e => if e.2.wg.isSome then (List.range 4).map (fun q => (e.1, q)) else [])
  let n := s.turn % max 1 qs.length
  qs.drop n ++ qs.take n

/-- The next quadrant that has a candidate issues. -/
def issueNext (s : State) : Res :=
  match s.quads.find? (fun q => (candidate s q.1 q.2).isSome) with
  | some q => issueQuad q.1 q.2 { s with turn := s.turn + 1 }
  | none => .next s

/-- The default schedule: an enabled step of another agent, else an issue, else only the clock. -/
def default_ (s : State) : Res :=
  match s.events.find? (enabled s) with
  | some i => exec i s
  | none => issueNext s

/-! ### Acts -/

/-- An act of the agenda. -/
def act (a : Act) (s : State) : Res :=
  match a with
  | .issue core quad => settled (issueQuad core quad s)
  | .event i => settled (exec i s)
  | .clocks n => .next (ticks n s)
  | .lacks n => .next { s with lacks := n }
  | .host none pa b => .next (writePlaces [(.host pa, b)] [] s).1
  | .host (some lane) pa b => .next { s with between := s.between ++ [(lane, pa, b)] }
  | .served n ls =>
    .next (match SMap.get none s.saved n with
      | some x => { endSaved x (setLeaves x.wg.asid ls s) with saved := SMap.set none s.saved n (some { x with services := [] }) }
      | none => s)

/-- What a step does. -/
def next (s : State) : Res :=
  match s.agenda with
  | a :: rest => act a { s with agenda := rest, cur := none }
  | [] => settled (default_ { s with cur := none })

/-! ### Placing one instruction (log 14) -/

/-- The role that admits a word's opcode: matrix instructions and copy commands need their own (01 R21). -/
def roleFor (op : Nat) : Role :=
  if 0xC0 ≤ op && op ≤ 0xC9 then .matrix else if 0xD0 ≤ op && op ≤ 0xD2 then .copy else .vector

/-- The kernel of the workgroup that runs a placed word: one plane of 64 words at address 0x10000, one slice, one gang, a full scratchpad. -/
def placeKernel (op : Nat) : Kernel :=
  let r := roleFor op
  { base := 0x10000, stride := 256, planes := 1, length := 64, trapOff := none, scratch := Config.scratchBytes, schk := false,
    ext := true, slices := 1, ncopy := if r = .copy then 1 else 0, nmat := if r = .matrix then 1 else 0,
    nvec := if r = .vector then 1 else 0 }

/-- The gang of that workgroup, at offset 0. -/
def placeGang (op clock : Nat) : Gang :=
  { launchGang (placeKernel op) 0 [] 0 0 clock with role := roleFor op }

/-- A privileged workgroup of address space 0 that holds nothing but that gang. -/
def placeGroup (op clock : Nat) : Workgroup :=
  { Workgroup.empty with
    priv := true, tenant := 0xFFFF, mailbox := 63, kernel := placeKernel op, dispatched := clock,
    bars := SMap.ofFn Barrier.empty 16 (fun _ => { Barrier.empty with members := 1 }),
    gangs := SMap.set Gang.empty [] 0 (placeGang op clock) }

/-- Put bytes into a map from an address on. -/
def putBytes (m : SMap Byte) (a : Nat) (bs : List Byte) : SMap Byte :=
  (bs.zipIdx).foldl (fun m b => SMap.set 0 m (a + b.2) b.1) m

/-- The state in which the next step fetches and runs the word `w`: it stands in device memory at 0x10000, page 1 of address space 0 maps there, core 0 holds that workgroup and has fetched afresh, and the agenda begins with an issue of its quadrant 0. -/
def placeWord (w : W32) (s : State) : State :=
  let mem := putBytes s.mem 0x10000 (bytesOfWord w)
  { s with
    agenda := .issue 0 0 :: s.agenda, cur := none, mem := mem,
    leaves := SMap.set none s.leaves (leafKey 0 1) (some (mkEntry 0 0x10000 false false false false true true true true true)),
    tlb := SMap.set [] s.tlb 0 [],
    cores := SMap.set Core.empty s.cores 0 { s.coreAt 0 with wg := some (placeGroup (opcodeOf w) (s.clockAt 0).toNat), racq := [], ibuf := mem } }

end Sys2Proof.Machine
end

