-- ==== Sys2Proof/Machine/Step.lean ====
section
/-! DEFINITION. The step of the machine, and the placing of one instruction where the next step fetches it. -/

namespace Sys2Proof.Machine

/-- One step (log 2, 3): an act of the agenda, or of the default schedule. -/
def step (s : State) : Host.Outcome State Fault Refusal := next s

/-- The instruction of bits `w`, numbered as the opcode table numbers them, stored where the next step fetches (log 14). -/
def State.withFetchWord (s : State) (nbits w : Nat) : State := placeWord (BitVec.ofNat 32 (w % 2 ^ nbits)) s

end Sys2Proof.Machine
end

