-- ==== Sys2Proof/Safety.lean ====
section
/-! DEFINITION. The vocabulary of the statements: outcomes that are a next state, what reads as before, what an issue leaves of everything it does not name, and operands as the spec's tables give them. -/

namespace Sys2Proof.Machine

/-! ### Outcomes and frames -/

/-- The outcome is a next state. -/
def Goes (r : Res) : Prop := ∃ t, r = .next t

/-- The place is a window of the on-chip physical map other than a scratchpad (11 R185). -/
def Place.onChip : Place → Bool
  | .chip _ _ _ => true
  | _ => false

/-- Every byte of device memory, host memory, default pages and scratchpads, and every accumulator element, reads in `t` as in `s`. -/
structure SameMemory (s t : State) : Prop where
  bytes : ∀ p : Place, p.onChip = false → t.byteAt p = s.byteAt p
  tiles : ∀ c k : Nat, SMap.get 0 (t.coreAt c).store.acc k = SMap.get 0 (s.coreAt c).store.acc k

/-- The latches after an issue that is not latch-class (01 R38): those of the issue's lanes are invalid in its plane, in every plane after an anchored word, and the others are `g`'s. -/
def LatchesDrop (cx : Ctx) (g : Gang) (x : SMap (Option Latch)) : Prop :=
  ∀ m < 4, ∀ i < 4, ∀ l < 32, SMap.get none x (32 * (4 * m + i) + l) =
    if cx.lanes.getLsbD l = true ∧ (cx.plane = none ∨ cx.plane = some m) then none else g.latch m i l

/-- The clock of the issue. -/
def Ctx.now (cx : Ctx) (s : State) : Nat := (s.clockAt cx.core).toNat

/-- The issuing split after its word (01 R34): its prefixes are used up, and it goes to its next plane or to the next offset. -/
def Ctx.advanced (cx : Ctx) (s : State) (g : Gang) : Split := Split.step g (cx.sp.spent cx (cx.now s)) cx.plane

/-- The issuing split, waiting at its word. -/
def Ctx.waiting (cx : Ctx) (s : State) (w : Wait) : Split :=
  { cx.sp.spent cx (cx.now s) with wait := w, waitStart := cx.now s, waitFirst := cx.first, waitPlane := cx.plane, waitTag := cx.tag }

/-- What an issue that is not latch-class leaves of the gang: `g`, with the issuing split replaced by `sp`, the latches dropped, and its clock the gang's last. -/
def IssuedAs (cx : Ctx) (s : State) (sp : Split) (g g' : Gang) : Prop :=
  ∃ x, LatchesDrop cx g x ∧ g' = { g with x := x, splits := g.splits.set cx.split sp, lastIssue := cx.now s }

/-- The same where the split goes on after its word. -/
def Issued (cx : Ctx) (s : State) (g g' : Gang) : Prop := IssuedAs cx s (cx.advanced s g) g g'

/-- The issue completes: nothing of the machine changes but the issuing gang, which becomes `g` and goes on after its word. -/
def Retires (cx : Ctx) (s : State) (g : Gang) (r : Res) : Prop :=
  ∃ t g', r = .next t ∧ SameMemory s t ∧ t = s.setGang cx.core cx.gang g' ∧ Issued cx s g g'

/-- The same for an instruction that a trace packet records, with the issuing split left as `sp`: the packets queued and the gang's SYNC bookkeeping may change too (23 R356). -/
def RetiresTracedAs (cx : Ctx) (s : State) (sp : Split) (g : Gang) (r : Res) : Prop :=
  ∃ t g' q k tr, r = .next t ∧ SameMemory s t ∧ t = { s.setGang cx.core cx.gang g' with traces := tr } ∧
    IssuedAs cx s sp { g with syncDue := q, sinceSync := k } g'

/-- The same where the split goes on after its word. -/
def RetiresTraced (cx : Ctx) (s : State) (g : Gang) (r : Res) : Prop := RetiresTracedAs cx s (cx.advanced s g) g r

/-- The issue takes the trap instead of its own effect (21 R333). -/
def TakesTrap (cx : Ctx) (s : State) (t : Trap) (r : Res) : Prop := r = .next (takeTrap cx t s)

/-- The trap of an operand or a field that the words decide: TRAPA holds the word (05 R87, 21 R335). -/
def wordTrap (cx : Ctx) (c : Cause) : Trap := ⟨c, cx.word.zeroExtend 64, none, 0, [], false⟩

/-! ### Scalar operands (05 R89, R100) -/

/-- What a scalar source field supplies: a register, or an inline integer 0 to 63. -/
def ScalarIn (cx : Ctx) (a : BitVec 8) (x : W64) : Prop :=
  (a.toNat < 64 ∧ x = cx.g.sreg a.toNat) ∨ (64 ≤ a.toNat ∧ a.toNat < 128 ∧ x = BitVec.ofNat 64 (a.toNat - 64))

/-- What source B supplies: the immediate of the prefixes, which replaces the field, or the field. -/
def ScalarInB (cx : Ctx) (b : BitVec 8) (x : W64) : Prop :=
  (cx.imm = some x ∧ b = 0) ∨ (cx.imm = none ∧ ScalarIn cx b x)

/-- The issue writes `v` to s[d] (s0 discards it) and changes nothing else. -/
def WritesScalar (cx : Ctx) (s : State) (d : BitVec 6) (v : W64) (r : Res) : Prop :=
  Retires cx s (cx.g.setS d.toNat v) r

/-- The issue writes `bits` to p[d] in the lanes of E (p0 discards it) and changes nothing else. -/
def WritesPred (cx : Ctx) (s : State) (d : Nat) (bits : W32) (r : Res) : Prop :=
  Retires cx s (cx.g.setP d cx.en bits) r

/-- The issuing split waits at its word, and nothing of the machine changes but its gang (21 R331). -/
def WaitsAt (cx : Ctx) (s : State) (w : Wait) (r : Res) : Prop :=
  ∃ t g', r = .next t ∧ SameMemory s t ∧ t = s.setGang cx.core cx.gang g' ∧ IssuedAs cx s (cx.waiting s w) cx.g g'

/-! ### Planes (07 R138) -/

/-- What source A of a plane instruction supplies in each lane; `vec` where a vector source is admitted. -/
def PlaneIn (cx : Ctx) (vec : Bool) (a : BitVec 8) (v : Nat → Nat) : Prop :=
  (vec = true ∧ a.toNat < 128 ∧ (a.toNat < 64 ∨ cx.g.ext ≠ none) ∧ (∀ l ∈ cx.ls, (cx.g.cell a.toNat l).bad = false) ∧
    v = fun l => (cx.g.cell a.toNat l).bits.toNat) ∨
  (vec = true ∧ a = 0x84 ∧ v = fun l => l) ∨ (vec = true ∧ a = 0x85 ∧ v = fun l => l / 4) ∨
  (vec = true ∧ a = 0x86 ∧ v = fun l => cx.g.planeOf l) ∨
  (144 ≤ a.toNat ∧ a.toNat < 192 ∧ v = fun _ => a.toNat - 144) ∨
  (192 ≤ a.toNat ∧ v = fun _ => (cx.g.sreg (a.toNat - 192)).toNat % 2 ^ 32)

/-! ### Control transfers (07 R128) -/

/-- Slice `j` takes a predicated transfer: p[P] XOR Q holds in some lane of E in the slice. -/
def Takes (cx : Ctx) (p : BitVec 3) (q : BitVec 1) (j : Nat) : Prop :=
  ∃ l ∈ cx.ls, l / 4 = j ∧ ((cx.g.preg p.toNat).getLsbD l != (q == 1)) = true

/-- Some slice takes it. -/
def SomeTakes (cx : Ctx) (p : BitVec 3) (q : BitVec 1) : Prop := ∃ j, Takes cx p q j

/-- The slices that take the transfer go to `t`, the others to the next offset. -/
def Branch (cx : Ctx) (p : BitVec 3) (q : BitVec 1) (t : Nat) (j k : Nat) : Prop :=
  (Takes cx p q j → k = t) ∧ (¬Takes cx p q j → k = cx.sp.pc + 1)

/-- A split holds no slice and no lane beyond those of another. -/
def Split.within (a b : Split) : Prop :=
  (∀ j < 8, a.slices.getLsbD j = true → b.slices.getLsbD j = true) ∧ ∀ l < 32, a.lanes.getLsbD l = true → b.lanes.getLsbD l = true

/-- Each slice of the split goes to the offset that `go` gives it, with slices and lanes of the split alone, with its lanes; slices with one offset form one group (01 R16), and a path moves as a whole. The gang is otherwise `g`, and nothing else changes but trace. -/
def Transfers (cx : Ctx) (s : State) (g : Gang) (go : Nat → Nat → Prop) (r : Res) : Prop :=
  ∃ t new x q k tr, r = .next t ∧ SameMemory s t ∧ LatchesDrop cx g x ∧
    t = { s.setGang cx.core cx.gang { g with splits := cx.g.splits.take cx.split ++ new ++ cx.g.splits.drop (cx.split + 1),
                                             x := x, lastIssue := cx.now s, syncDue := q, sinceSync := k } with traces := tr } ∧
    (∀ sp ∈ new, sp.wait = .none ∧ sp.nextPlane = 0 ∧ sp.path = cx.sp.path ∧ sp.pfx = [] ∧ sp.chain = [] ∧ sp.skip = [] ∧
      sp.within cx.sp) ∧
    (cx.sp.path = none →
      (∀ j ∈ slicesOf cx.sp.slices, ∃ sp ∈ new, sp.slices.getLsbD j = true ∧ go j sp.pc ∧
        ∀ l < 32, l / 4 = j → sp.lanes.getLsbD l = cx.sp.lanes.getLsbD l) ∧
      (∀ a ∈ new, ∀ b ∈ new, a.pc = b.pc → a = b)) ∧
    (cx.sp.path ≠ none →
      ∃ sp, new = [sp] ∧ sp.slices = cx.sp.slices ∧ sp.lanes = cx.sp.lanes ∧ go ((slicesOf cx.sp.slices).headD 0) sp.pc)

/-- The lanes of E in slice `j` for which a BRC's condition holds, or does not. -/
def BrcLanes (cx : Ctx) (p : BitVec 3) (q : BitVec 1) (j : Nat) (holds : Bool) (m : W32) : Prop :=
  ∀ l < 32, m.getLsbD l = (cx.en.getLsbD l && decide (l / 4 = j) && (((cx.g.preg p.toNat).getLsbD l != (q == 1)) == holds))

/-! ### Vector operands and results (05 R88, R95, 01 R37 to R39, 03 R60 to R63) -/

/-- A latch-class issue whose word names admitted operands: `n` and `d`, sources A and B that supply `va` and `vb` in every lane of E, no MOD field outside `mods`, registers granted, and no latch chain of more than sixteen issues. `third`: D is a source too; `reads`: a source is a latch. -/
structure Operands2 (cx : Ctx) (n : BitVec 1) (d : BitVec 7) (a b : BitVec 8) (third : Bool) (mods : Nat) (va vb : Nat → Val)
    (reads : Bool) : Prop where
  suppress : n = 0 ∨ (d = 0 ∧ third = false)
  mods : cx.modw.toNat &&& (mdAll - mods) = 0
  granted : d.toNat < 64 ∨ cx.g.ext ≠ none
  sources : ∃ sa sb, srcOfField cx true a = .ok sa ∧ srcB cx true b = .ok sb ∧ sa.block cx = .ok () ∧ sb.block cx = .ok () ∧
    reads = (sa.isLatch || sb.isLatch) ∧ ∀ l ∈ cx.ls, sa.read cx l = .ok (va l) ∧ sb.read cx l = .ok (vb l)
  chain : reads = true → SMap.get 0 cx.sp.chain (cx.plane.getD 0) ≤ 16

/-- The same for an instruction of source A alone. -/
structure Operands1 (cx : Ctx) (n : BitVec 1) (d : BitVec 7) (a : BitVec 8) (mods : Nat) (va : Nat → Val) (reads : Bool) : Prop where
  suppress : n = 0 ∨ d = 0
  mods : cx.modw.toNat &&& (mdAll - mods) = 0
  granted : d.toNat < 64 ∨ cx.g.ext ≠ none
  sources : ∃ sa, srcOfField cx true a = .ok sa ∧ sa.block cx = .ok () ∧ reads = sa.isLatch ∧
    ∀ l ∈ cx.ls, sa.read cx l = .ok (va l)
  chain : reads = true → SMap.get 0 cx.sp.chain (cx.plane.getD 0) ≤ 16

/-- What a lane's result is: its bits in register D, a pair for a 64-bit format, with its tag, and the same in x0; with N = 1 in x0 alone (01 R38, 03 R63). -/
def laneResult (n : BitVec 1) (d : BitVec 7) (t : Tag) (l : Nat) (r : Nat × Nat) : LaneOut :=
  if t.wide then ⟨l, [(d.toNat, BitVec.ofNat 32 r.1, t), (d.toNat + 1, BitVec.ofNat 32 (r.1 / 2 ^ 32), t)], none, false, r.2⟩
  else ⟨l, if n = 1 then [] else [(d.toNat, BitVec.ofNat 32 r.1, t)], some ⟨BitVec.ofNat 32 r.1, t, false⟩, false, r.2⟩

/-- A cell that an instruction writes: the bits under the tag, those of L6X4 with zeros in bits 7:6 of each byte (03 R58). -/
def written (bits : W32) (t : Tag) : VCell := ⟨if t = .l6x4 then bits &&& 0x3F3F3F3F else bits, t, false⟩

/-- A cell after a lane's results: the result in a register it names, else as before. -/
def cellAfter (regs : List (Nat × W32 × Tag)) (rg : Nat) (old : VCell) : VCell :=
  match regs.find? (fun e => e.1 == rg) with
  | some e => written e.2.1 e.2.2
  | none => old

/-- A latch-class issue completes with the results `out`, on the gang `g`: in the lanes of E the registers that `out` names change and no other cell does; FLAGS takes the flags of every lane; in the lanes of the issue x0 takes the new value (none outside E) and, when a latch was read, x1 to x3 take the old x0 to x2, else nothing; other lanes and planes keep their latches. The issuing split goes on with its prefixes used up and its chain counted, and nothing else changes. -/
def VecResultFrom (g : Gang) (cx : Ctx) (s : State) (reads : Bool) (out : Nat → LaneOut) (r : Res) : Prop :=
  ∃ t v x fl, r = .next t ∧ SameMemory s t ∧
    t = s.setGang cx.core cx.gang { g with
      v := v, x := x, flags := fl, lastIssue := cx.now s,
      splits := g.splits.set cx.split (Split.step g (cx.sp.chained cx reads (cx.now s)) cx.plane) } ∧
    fl = cx.ls.foldl (fun f l => f ||| BitVec.ofNat 32 (out l).flags) cx.g.flags ∧
    (∀ rg < 128, ∀ l < 32, (t.gangAt cx.core cx.gang).cell rg l =
      if l ∈ cx.ls then cellAfter (out l).regs rg (cx.g.cell rg l) else cx.g.cell rg l) ∧
    (∀ l < 32, cx.lanes.getLsbD l = true →
      (t.gangAt cx.core cx.gang).latch (cx.plane.getD 0) 0 l = (if l ∈ cx.ls then (out l).x0.map
        (fun y => ⟨(written y.bits y.tag).bits, y.tag, y.bad⟩) else none) ∧
      ∀ i < 3, (t.gangAt cx.core cx.gang).latch (cx.plane.getD 0) (i + 1) l =
        if reads then cx.g.latch (cx.plane.getD 0) i l else none) ∧
    (∀ m < 4, ∀ i < 4, ∀ l < 32, m ≠ cx.plane.getD 0 ∨ cx.lanes.getLsbD l = false →
      (t.gangAt cx.core cx.gang).latch m i l = cx.g.latch m i l)

/-- The same where the gang changes in nothing else. -/
def VecResult (cx : Ctx) (s : State) (reads : Bool) (out : Nat → LaneOut) (r : Res) : Prop :=
  VecResultFrom cx.g cx s reads out r

/-- Bits of a format that hold 2^k. -/
def FFmt.isPower (f : FFmt) (k : Int) (x : Nat) : Prop :=
  (1 - (f.bias : Int) ≤ k ∧ k ≤ f.bias ∧ x = (k + f.bias).toNat * 2 ^ f.fw) ∨ (f.emin ≤ k ∧ k < 1 - (f.bias : Int) ∧ x = 2 ^ (k - f.emin).toNat)

/-- Bits of a format that hold the integer `k`. -/
def FFmt.isInt (f : FFmt) (k : Int) (x : Nat) : Prop :=
  ∃ n m e, f.decode x = .fin n m e ∧ signedInt n m * 2 ^ e.toNat = k * 2 ^ (-e).toNat

/-- A comparison (09 R160): `bit` in p[P] in the lanes of E, and 0 or 1 tagged N32 in x0, but for a 64-bit lane, which leaves x0 invalid. -/
def CmpResult (cx : Ctx) (s : State) (p : BitVec 3) (reads : Bool) (wide bit : Nat → Bool) (flags : Nat → Nat) (r : Res) : Prop :=
  ∃ bits : W32, (∀ l ∈ cx.ls, bits.getLsbD l = bit l) ∧
    VecResultFrom (cx.g.setP p.toNat cx.en bits) cx s reads
      (fun l => ⟨l, [], if wide l then none else some ⟨if bit l then 1 else 0, .n32, false⟩, bit l, flags l⟩) r

/-- Every lane of E (lane 0 where E is empty) carries the tag `t` in `k` registers from `r` on. -/
def OneTag (cx : Ctx) (r k : Nat) (t : Tag) : Prop :=
  ∀ i < k, ∀ l ∈ lowLane cx.en :: cx.ls, (cx.g.cell (r + i) l).tag = t

/-- The sources of a lane have the common integer format `t` and supply `xs` (03 R60, R61, R63; 09 R153). -/
structure IntSources (cx : Ctx) (n : BitVec 1) (d : BitVec 7) (l : Nat) (vs : List Val) (old : List Tag) (t : Tag) (xs : List Nat) :
    Prop where
  integer : t.integer = true
  tags : ∀ u ∈ vs.filterMap Val.tag? ++ old, u = t
  untagged : vs.filterMap Val.tag? ++ old = [] → t = .s32
  signs : t.natural = true →
    cx.md.nega = false ∧ cx.md.negb = false ∧ cx.md.absa = false ∧ cx.md.absb = false ∧ cx.md.negr = false
  pair : t.wide = true → n = 0 ∧ d.toNat % 2 = 0
  bits : List.Forall₂ (fun v x => v.get cx true t l = .ok x) vs xs

/-- The sources of a lane have the common floating-point format `t`, of elements `f` (03 R60, R61). -/
structure FloatSources (vs : List Val) (old : List Tag) (t : Tag) (f : FFmt) : Prop where
  float : t.float = some f
  tags : ∀ u ∈ vs.filterMap Val.tag? ++ old, u = t
  untagged : vs.filterMap Val.tag? ++ old = [] → t = .f32

/-- A format selector in field B: an inline integer or a scalar broadcast below 16 (09 R166). -/
def SelectorIn (cx : Ctx) (b : BitVec 8) (t : Tag) : Prop :=
  ∃ k < 16, t = Tag.ofCode k ∧
    ((144 ≤ b.toNat ∧ b.toNat < 192 ∧ k = b.toNat - 144) ∨ (192 ≤ b.toNat ∧ k = (cx.g.sreg (b.toNat - 192)).toNat))

/-- The uniform source B of VROT and VBCST (09 R172). -/
def UniformIn (cx : Ctx) (b : BitVec 8) (x : W64) : Prop :=
  (cx.imm = some x ∧ b = 0) ∨ (cx.imm = none ∧
    ((144 ≤ b.toNat ∧ b.toNat < 192 ∧ x = BitVec.ofNat 64 (b.toNat - 144)) ∨ (192 ≤ b.toNat ∧ x = cx.g.sreg (b.toNat - 192))))

/-- `k` registers from `r` on exist, are granted, and hold good parity in every lane of E (01 R28, 11 R216). -/
def RegsReadable (cx : Ctx) (r k : Nat) : Prop :=
  r + k ≤ 128 ∧ (r + k ≤ 64 ∨ cx.g.ext ≠ none) ∧ ∀ i < k, ∀ l ∈ cx.ls, (cx.g.cell (r + i) l).bad = false

/-- An issue that is not latch-class writes cells: in the lanes of E the registers for which `new` gives a value change, and no other cell does; FLAGS takes `fl`. -/
def WritesCells (cx : Ctx) (s : State) (fl : Nat) (new : Nat → Nat → Option (W32 × Tag)) (r : Res) : Prop :=
  ∃ t v g', r = .next t ∧ SameMemory s t ∧ t = s.setGang cx.core cx.gang g' ∧
    Issued cx s { cx.g with v := v, flags := cx.g.flags ||| BitVec.ofNat 32 fl } g' ∧
    ∀ rg < 128, ∀ l < 32, (t.gangAt cx.core cx.gang).cell rg l =
      if l ∈ cx.ls then (match new rg l with
        | some c => written c.1 c.2
        | none => cx.g.cell rg l) else cx.g.cell rg l

/-- Lane `m` of a register as the register stands; B32 zero beyond the gang's lanes (09 R172). -/
def laneOr0 (cx : Ctx) (r m : Nat) : W32 × Tag :=
  if m < 4 * cx.wg.kernel.slices then ((cx.g.cell r m).bits, (cx.g.cell r m).tag) else (0, .b32)

/-! ### Memory accesses (11 R214, 13 R217, R218) -/

/-- A place of device memory, host memory or a scratchpad. -/
def Place.plain : Place → Bool
  | .dev _ | .host _ | .pad _ _ => true
  | _ => false

/-- The address of a lane of a format-M instruction; `u` is the unit of X = 127 (13 R217). -/
def laneAddr (cx : Ctx) (sr : BitVec 6) (x : BitVec 7) (u l : Nat) : W64 :=
  cx.g.sreg sr.toNat + (if x.toNat = 127 then BitVec.ofNat 64 (l * u) else (cx.g.raw x.toNat l).bits.signExtend 64) + (cx.imm).getD 0

/-- The lanes of E with addresses. -/
def accesses (cx : Ctx) (a : Nat → W64) : Accesses := cx.ls.map (fun l => (l, a l))

/-- Accesses of `w l` bytes a lane that pass the checks of 11 R214 up to the races: alignment, space, translation and permission, existence. -/
structure Reachable (s : State) (core : Nat) (acc : Acc) (w al : Nat → Nat) (xs : Accesses) : Prop where
  aligned : ∀ x ∈ xs, x.2.toNat % al x.1 = 0
  space : ∀ x ∈ xs, ∀ b ∈ bytesOf x.2 (w x.1), spaceOk s core b = true
  device : acc.isAtomic = true → ∀ x ∈ xs, ∀ c win off, spaceOf x.2 ≠ .phys c win off
  walk : ∀ x ∈ xs, ∀ b ∈ pageEnds x.2 (w x.1), walkFault s core acc b = none
  exist : ∀ x ∈ xs, ∀ p ∈ placesOf s core x.2 (w x.1), ∀ pa, p ≠ .beyond pa

/-- The same with no race. -/
structure Accessible (s : State) (core gang : Nat) (acc : Acc) (w al : Nat → Nat) (xs : Accesses) : Prop
    extends Reachable s core acc w al xs where
  noRace : ∀ x ∈ xs, ∀ b ∈ bytesOf x.2 (w x.1), races s core gang acc b = false

/-- No byte read is poisoned (11 R216). -/
def Intact (s : State) (core : Nat) (w : Nat → Nat) (xs : Accesses) : Prop :=
  ∀ x ∈ xs, ∀ b ∈ bytesOf x.2 (w x.1), s.poisonAt (placeOf s core b) = false

/-- The offset register of a format-M instruction can be read. -/
def OffsetReadable (cx : Ctx) (x : BitVec 7) : Prop :=
  x.toNat = 127 ∨ ((x.toNat < 64 ∨ cx.g.ext ≠ none) ∧ ∀ l ∈ cx.ls, (cx.g.cell x.toNat l).bad = false)

/-- What a memory access leaves: of the device everything but the TLBs, the draws of its `k` free choices and the core; of the core the other gangs; of the gang what `g` says, as it goes on after its word. -/
def AccessFrame (cx : Ctx) (s t : State) (k : Nat) (g : Gang) : Prop :=
  t = { s with cores := t.cores, tlb := t.tlb, free := s.free + k } ∧ (∀ c, c ≠ cx.core → t.coreAt c = s.coreAt c) ∧
  (∀ n, n ≠ cx.gang → t.gangAt cx.core n = s.gangAt cx.core n) ∧
  Issued cx s g (t.gangAt cx.core cx.gang)

/-- What a load of the issuing gang may find in the `w` bytes from `a` on (11 R194, R203): in each single-copy atomic unit the bytes that one write left, up to the later writes that nothing orders before the load, and none older than what the gang itself wrote or read there (11 R199); the bytes as they stand where every write of them happens before it. -/
structure LoadValue (cx : Ctx) (s : State) (a : W64) (w x : Nat) : Prop where
  below : x < 2 ^ (8 * w)
  units : ∀ u ∈ accessUnits ((placesOf s cx.core a w).headD .none) a w, ∃ upTo : Nat, ∀ i < u.2, ∀ p,
    (placesOf s cx.core a w)[u.1 + i]? = some p → byteOf x (u.1 + i) = s.seenByte (gangEye s cx.core cx.gang) upTo p
  settled : (∀ p ∈ placesOf s cx.core a w, ∀ e ∈ s.pastOf p, e.ordered (gangEye s cx.core cx.gang) = true) → x = s.readNum cx.core a w

/-- What a command that knows `know` finds in the `n` bytes from `a` on (11 R203, R205, 19 R280): in each aligned 4-byte unit the bytes that one write left, up to the later writes that nothing orders before the command; the bytes as they stand where every write of them happens before it. -/
structure EngineValue (s : State) (core : Nat) (know : Know) (a : W64) (n x : Nat) : Prop where
  below : x < 2 ^ (8 * n)
  units : ∃ upTo : Nat → Nat, ∀ i < n, let b := a + BitVec.ofNat 64 i
    byteOf x i = s.seenByte (engineEye (s.wgAt core) know) (upTo (b.toNat / 4)) (placeOf s core b)
  settled : (∀ p ∈ placesOf s core a n, ∀ e ∈ s.pastOf p, e.ordered (engineEye (s.wgAt core) know) = true) → x = s.readNum core a n

/-- What the lanes of a load of `u` bytes find, in ascending order: a lane finds nothing older than what an earlier lane has read (11 R199). -/
def LoadsFind (cx : Ctx) (s : State) (u : Nat) (xs : Accesses) (num : Nat → Nat) : Prop :=
  ∀ pre l a post, xs = pre ++ (l, a) :: post → LoadValue cx (noteLoads cx.core cx.gang u pre s) a u (num l)

/-- A load fills `n` registers from `v` on in the lanes of E with the words `ws` and a tag, is outstanding on them, and changes no byte of memory and no other register; what it has read is noted among the writes that later loads may see. -/
def LoadResult (cx : Ctx) (s : State) (v n : Nat) (tag : Tag) (ws : Nat → List W32) (r : Res) : Prop :=
  ∃ t vv io, r = .next t ∧ SameMemory s t ∧
    AccessFrame cx { s with past := t.past } t 131 { cx.g with v := vv, loads := cx.g.loads ++ [⟨v, n, cx.en, false, false, io⟩] } ∧
    ∀ rg < 128, ∀ l < 32, (t.gangAt cx.core cx.gang).cell rg l =
      if l ∈ cx.ls ∧ v ≤ rg ∧ rg < v + n then written ((ws l).getD (rg - v) 0) tag else cx.g.cell rg l

/-- The byte at a place after writes in order: the last one's, or the old byte. -/
def lastWrite (ws : List (Place × Byte)) (p : Place) (old : Byte) : Byte :=
  match ws.reverse.find? (fun e => e.1 == p) with
  | some e => e.2
  | none => old

/-- A store performs the writes `ws`, none of them to a default page or a register window: every other byte reads as before, and so does every register. A store that reaches host memory is outstanding (23 R344). -/
def StoreResult (cx : Ctx) (s : State) (ws : List (Place × Byte)) (r : Res) : Prop :=
  ∃ t q k, r = .next t ∧ (∀ p : Place, p.plain = true → t.byteAt p = lastWrite ws p (s.byteAt p)) ∧
    (∀ c k, SMap.get 0 (t.coreAt c).store.acc k = SMap.get 0 (s.coreAt c).store.acc k) ∧
    t = { s with cores := t.cores, mem := t.mem, poison := t.poison, hmem := t.hmem, gTags := t.gTags, gRel := t.gRel,
                 writes := t.writes, past := t.past, traces := t.traces, tlb := t.tlb, free := s.free + 1 } ∧
    (∀ c n, (c, n) ≠ (cx.core, cx.gang) → t.gangAt c n = s.gangAt c n) ∧
    Issued cx s { cx.g with syncDue := q, sinceSync := k, loads := cx.g.loads ++
      (if ws.any (fun w => w.1.onHost) then [⟨0, 0, cx.lanes, false, false, true⟩] else []) } (t.gangAt cx.core cx.gang)

/-- The data registers of a store can be read, and its accesses pass. -/
structure StoreReady (cx : Ctx) (s : State) (v x : BitVec 7) (n w al : Nat) (xs : Accesses) : Prop where
  data : RegsReadable cx v.toNat n
  offset : OffsetReadable cx x
  access : Accessible s cx.core cx.gang .store (fun _ => w) (fun _ => al) xs
  plain : ∀ a ∈ xs, ∀ p ∈ placesOf s cx.core a.2 w, p.plain = true

/-- The registers a load fills exist and are granted, and its accesses pass. -/
structure LoadReady (cx : Ctx) (s : State) (v x : BitVec 7) (n w al : Nat) (xs : Accesses) : Prop where
  range : v.toNat + n ≤ 128
  granted : v.toNat + n ≤ 64 ∨ cx.g.ext ≠ none
  offset : OffsetReadable cx x
  access : Accessible s cx.core cx.gang .load (fun _ => w) (fun _ => al) xs
  intact : Intact s cx.core (fun _ => w) xs

/-! ### Atomics (13 R228) -/

/-- A lane of an atomic on the registers from `v` on; with `two`, ACAS's new value follows its compare value. -/
def atomicLaneOf (cx : Ctx) (v : Nat) (two : Bool) (l : Nat) : ALane :=
  let c := cx.g.cell v l
  let val := fun (k : Nat) => (cx.g.cell k l).bits.toNat + if c.tag.wide then (cx.g.cell (k + 1) l).bits.toNat * 2 ^ 32 else 0
  ⟨l, c.tag.wide, c.tag, val v, if two then val (v + if c.tag.wide then 2 else 1) else 0⟩

/-- The lanes' reads and writes, one lane after the other, each behind the host's stores `hs` that fall before it: the bytes in the end, and what each lane read. -/
def atomicRun (op : ALane → Nat → Option Nat) (hs : ALane → List Place → List (Place × Byte)) :
    List (ALane × List Place) → (Place → Byte) → (Place → Byte) × List Nat
  | [], m => (m, [])
  | (a, ps) :: rest, m =>
    let m := fun p => lastWrite (hs a ps) p (m p)
    let old := (ps.zipIdx).foldl (fun n x => n + (m x.1).toNat * 2 ^ (8 * x.2)) 0
    let m' := match op a old with
      | none => m
      | some n => fun p => lastWrite (placed ps n) p (m p)
    let z := atomicRun op hs rest m'
    (z.1, old :: z.2)

/-- The operands of an atomic pass every check. -/
structure AtomicChecked (cx : Ctx) (s : State) (v x : BitVec 7) (two host : Bool) (accepts : Tag → Bool) (a : Nat → W64) : Prop where
  lanes : ∀ l ∈ cx.ls, let c := cx.g.cell v.toNat l
    let k := (if two then 2 else 1) * (if c.tag.wide then 2 else 1)
    accepts c.tag = true ∧ (c.tag.wide = true → v.toNat % 2 = 0) ∧ v.toNat + k ≤ 128 ∧ (v.toNat + k ≤ 64 ∨ cx.g.ext ≠ none) ∧
    ∀ i < k, (cx.g.cell (v.toNat + i) l).tag = c.tag ∧ (cx.g.cell (v.toNat + i) l).bad = false
  offset : OffsetReadable cx x
  access : Accessible s cx.core cx.gang (.atomic host) (fun l => (atomicLaneOf cx v.toNat two l).bytes)
    (fun l => (atomicLaneOf cx v.toNat two l).bytes) (accesses cx a)
  intact : Intact s cx.core (fun l => (atomicLaneOf cx v.toNat two l).bytes) (accesses cx a)

/-- The same where no lane names a default page. -/
structure AtomicReady (cx : Ctx) (s : State) (v x : BitVec 7) (two host : Bool) (accepts : Tag → Bool) (a : Nat → W64) : Prop
    extends AtomicChecked cx s v x two host accepts a where
  plain : ∀ l ∈ cx.ls, ∀ p ∈ placesOf s cx.core (a l) (atomicLaneOf cx v.toNat two l).bytes, p.plain = true

/-- The host's stores to its own memory that fall before a lane of an atomic on that memory (11 R198). -/
def hostStores (s : State) (a : ALane) (ps : List Place) : List (Place × Byte) :=
  if ps.any Place.onHost then (s.between.filter (fun b => b.1 == a.lane)).map (fun b => (.host b.2.1, b.2.2)) else []

/-- An atomic performs `op` lane by lane: the bytes it leaves, the old values in the data registers under their tags, every other byte and register as before. -/
def AtomicResult (cx : Ctx) (s : State) (v : BitVec 7) (two : Bool) (op : ALane → Nat → Option Nat) (a : Nat → W64) (r : Res) : Prop :=
  let run := atomicRun op (hostStores s) (cx.ls.map (fun l =>
    (atomicLaneOf cx v.toNat two l, placesOf s cx.core (a l) (atomicLaneOf cx v.toNat two l).bytes))) s.byteAt
  ∃ t g, r = .next t ∧ (∀ p : Place, p.plain = true → t.byteAt p = run.1 p) ∧ LatchesDrop cx cx.g g.x ∧
    g.splits = cx.g.splits.set cx.split (cx.advanced s cx.g) ∧ g.lastIssue = cx.now s ∧
    t = { s with cores := t.cores, mem := t.mem, poison := t.poison, hmem := t.hmem, gTags := t.gTags, gRel := t.gRel,
                 writes := t.writes, past := t.past, between := [], traces := t.traces, tlb := t.tlb, free := s.free + 1 } ∧
    (∀ c n, (c, n) ≠ (cx.core, cx.gang) → (t.gangAt c n).v = (s.gangAt c n).v ∧ (t.gangAt c n).s = (s.gangAt c n).s ∧
      (t.gangAt c n).p = (s.gangAt c n).p ∧ (t.gangAt c n).splits = (s.gangAt c n).splits) ∧
    g = t.gangAt cx.core cx.gang ∧
    g = { cx.g with v := g.v, x := g.x, splits := g.splits, lastIssue := g.lastIssue, syncDue := g.syncDue, sinceSync := g.sinceSync,
                    loads := g.loads, seen := g.seen, know := g.know, rc := g.rc, acq := g.acq, vr := g.vr } ∧
    ∀ rg < 128, ∀ l < 32, g.cell rg l =
      if l ∈ cx.ls ∧ rg = v.toNat then written (BitVec.ofNat 32 (run.2.getD (cx.ls.idxOf l) 0)) (cx.g.cell v.toNat l).tag
      else if l ∈ cx.ls ∧ rg = v.toNat + 1 ∧ (cx.g.cell v.toNat l).tag.wide = true then
        written (BitVec.ofNat 32 (run.2.getD (cx.ls.idxOf l) 0 / 2 ^ 32)) (cx.g.cell v.toNat l).tag
      else cx.g.cell rg l

/-! ### Workgroups and engines -/

/-- The issue completes: the workgroup becomes `w`, the issuing gang `g` and goes on after its word, and nothing else changes. -/
def RetiresWg (cx : Ctx) (s : State) (w : Workgroup) (g : Gang) (r : Res) : Prop :=
  ∃ t g', r = .next t ∧ SameMemory s t ∧ t = (s.setWg cx.core w).setGang cx.core cx.gang g' ∧ Issued cx s g g'

/-- The conditions of a collective instruction (01 R22). -/
structure Collective (cx : Ctx) : Prop where
  reganged : cx.g.splits.length = 1
  undivided : cx.sp.path = none
  active : cx.en = cx.wg.kernel.lanes
  plane : (cx.g.occupied cx.en).length = 1

/-- An event at a barrier, a ring or a counter: memory, other cores and every register stay; the issuing gang becomes `g`, but for what it has released and acquired, and goes on after its word; `p` is what the event does to the splits of every gang that wait for it. -/
def SyncFrame (cx : Ctx) (s t : State) (p : Gang → Gang) (g : Gang) : Prop :=
  SameMemory s t ∧ t = { s with cores := t.cores } ∧ (∀ c, c ≠ cx.core → t.coreAt c = s.coreAt c) ∧
  (∀ n, n ≠ cx.gang → ∃ a v, t.gangAt cx.core n = p { s.gangAt cx.core n with acq := a, vr := v }) ∧
  ∃ rc a v q, Issued cx s (p { g with rc := rc, acq := a, vr := v, know := q }) (t.gangAt cx.core cx.gang)

/-- The splits of a gang that wait at barrier `b` of a workgroup for a complete phase have passed it, a parked path among them, unless a pre-emption holds them (19 R295, R307, 21 R331). -/
def waitersPassed (w : Workgroup) (core b : Nat) (g : Gang) : Gang :=
  if w.preempt then g else g.mapSplits (fun sp => match sp.wait with
    | .bwait b' t => if b' = b ∧ sp.stopped = false ∧ g.service = none ∧ g.dbgStop = none ∧ (w.bar b).err = none ∧
        1 ≤ ((w.bar b).phase - BitVec.ofNat 16 t).toNat ∧ ((w.bar b).phase - BitVec.ofNat 16 t).toNat ≤ 2 ^ 15 then
      { sp with wait := .passed (objWord core 0 b) (w.bar b).comp (SMap.get [] (w.bar b).relDone (t % 2 ^ 16)) } else sp
    | _ => sp)

/-- No split of the gang waits at a REGANG, and none of the workgroup at a CPY: an exit or a return from the handler completes neither. -/
structure NothingToComplete (cx : Ctx) (s : State) : Prop where
  regang : ∀ sp ∈ cx.g.splits, ∀ m, sp.wait ≠ .regang m
  forming : ∀ n, ∀ sp ∈ (s.gangAt cx.core n).splits, ∀ r l q k ix, sp.wait ≠ .forming r l q k ix

/-- What an arrival of the issuing gang carries (19 R306): agent, clock, blame, region stack top. -/
def arrivalOf (cx : Ctx) (s : State) : LastArr :=
  ⟨BitVec.ofNat 64 (cx.core / 104 * 2 ^ 30 + cx.core % 104 * 2 ^ 23 + cx.gang * 2 ^ 19), s.clockAt cx.core, cx.g.blame, cx.g.top⟩

/-- A barrier after its arrivals and landings are counted (19 R295): the phase completes, or the barrier stands as it is. -/
def Completes (x y : Barrier) : Prop :=
  (x.err = none ∧ x.arrived = x.members ∧ x.engines ≤ x.engArrived ∧ x.pend = 0 →
    y.phase = x.phase + 1 ∧ y.arrived = 0 ∧ y.engArrived = 0 ∧ y.comp = x.last) ∧
  (¬(x.err = none ∧ x.arrived = x.members ∧ x.engines ≤ x.engArrived ∧ x.pend = 0) → y = x) ∧
  y.members = x.members ∧ y.engines = x.engines ∧ y.pend = x.pend ∧ y.rows = x.rows ∧ y.err = x.err ∧ y.last = x.last

/-- The memory and the registers of every gang, on every core, read in `t` as in `s`. -/
def SameRegisters (s t : State) : Prop :=
  ∀ c n, (t.gangAt c n).v = (s.gangAt c n).v ∧ (t.gangAt c n).s = (s.gangAt c n).s ∧ (t.gangAt c n).p = (s.gangAt c n).p ∧
    (t.gangAt c n).plane = (s.gangAt c n).plane ∧ (t.gangAt c n).om = (s.gangAt c n).om ∧ (t.gangAt c n).flags = (s.gangAt c n).flags ∧
    (t.gangAt c n).mode = (s.gangAt c n).mode

/-- The bytes written at device memory from an address on. -/
def devWrites (a : Nat) (bs : List Byte) : List (Place × Byte) := (bs.zipIdx).map (fun x => (.dev (a + x.2), x.1))

/-- The 48 bytes of an edge record of these fields (19 R308). -/
def edgeRecord (relclk arrclk ptop ctop cons prod obj pred id : Nat) : List Byte :=
  leBytes 48 (relclk * 2 ^ 320 + arrclk * 2 ^ 256 + ptop * 2 ^ 240 + ctop * 2 ^ 224 + cons % 2 ^ 32 * 2 ^ 192 + prod % 2 ^ 32 * 2 ^ 160 +
    obj % 2 ^ 32 * 2 ^ 128 + pred * 2 ^ 64 + id)

/-- A unit of a die's edge buffer takes a record, and WRCNT counts it (23 R349, R361). -/
def unitWrites48 (b : EdgeBuf) (wr : Nat) (e : List Byte) : List (Place × Byte) :=
  devWrites (b.base + wr % b.nunits * 48) e ++ devWrites (b.desc + 16) (leBytes 8 (wr + 1))

/-- The release of a split that has waited at an object since clock `start`, for the arrival `from_` (19 R307, R308, 23 R361). Where it has waited a clock, the die's next serial makes an edge id, which becomes the gang's BLAME, and, for a holder that may see it, the edge is written into the next free unit of the die's buffer, or, with none, counted as dropped; else nothing. Beside those of the edge and its count, the bytes `after` are written, and no others. -/
def ReleasesWith (after : List (Place × Byte)) (s t : State) (core gang start obj : Nat) (from_ : LastArr) : Prop :=
  let die := core / 104
  let b := s.edgeBuf die
  let now := s.clockAt core
  let g := s.gangAt core gang
  let id : W64 := BitVec.ofNat 64 (s.devid * 2 ^ 44 + die * 2 ^ 42 + (b.serials + 1) % 2 ^ 42)
  let agent := core / 104 * 2 ^ 30 + core % 104 * 2 ^ 23 + gang * 2 ^ 19
  let e := edgeRecord now.toNat from_.clock.toNat from_.top.toNat g.top.toNat agent from_.agent.toNat obj from_.blame.toNat id.toNat
  let writes := fun (ws : List (Place × Byte)) => ∀ q : Place, q.plain = true → t.byteAt q = lastWrite (ws ++ after) q (s.byteAt q)
  let shown := b.en = true ∧ s.edgeVisible (s.wgAt core) b.holder = true
  (now.toNat ≤ start → t.edgeBuf die = b ∧ (t.gangAt core gang).blame = g.blame ∧ writes []) ∧
  (start < now.toNat → (t.gangAt core gang).blame = id ∧
    (¬shown → t.edgeBuf die = { b with serials := b.serials + 1 } ∧ writes []) ∧
    (shown → b.dropped = 0 → b.pair = none →
      (s.unitFree b.desc b.wr b.nunits = true → t.edgeBuf die = { b with serials := b.serials + 1, wr := b.wr + 1 } ∧
        writes (unitWrites48 b b.wr e)) ∧
      (s.unitFree b.desc b.wr b.nunits = false → writes [] ∧ t.edgeBuf die =
        { b with serials := b.serials + 1, dropped := 1, dropFirst := id, dropLast := id, dropClock1 := now, dropClock2 := now })))

/-- The object word of an object of a core: its kind and its index (19 R283). -/
def objectWord (core kind index : Nat) : Nat := kind * 2 ^ 28 + core / 104 * 2 ^ 26 + core % 104 * 2 ^ 19 + index

/-- Tile, row and column of position `q` of a selection word (17 R276). -/
def selected (x : W64) (q : Nat) : Nat × Nat × Nat :=
  if x.getLsbD 17 then (x.toNat / 2 ^ 16 % 2, x.toNat % 128 + q, x.toNat / 2 ^ 8 % 128)
  else (x.toNat / 2 ^ 16 % 2, x.toNat % 128, x.toNat / 2 ^ 8 % 128 + q)

/-- A selection word that names `2 * n` elements of a tile. -/
def SelectionLegal (x : W64) (n : Nat) : Prop :=
  x.toNat < 2 ^ 18 ∧ x.getLsbD 15 = false ∧ x.getLsbD 7 = false ∧
    (if x.getLsbD 17 then x.toNat % 128 else x.toNat / 2 ^ 8 % 128) + 2 * n ≤ 128

/-- The element at a position of a selection. -/
def State.element (s : State) (core : Nat) (x : W64) (q : Nat) : W32 :=
  let e := selected x q
  s.tileAt core e.1 e.2.1 e.2.2

/-- Its error cannot be corrected (11 R216). -/
def State.wrongElement (s : State) (core : Nat) (x : W64) (q : Nat) : Bool :=
  let e := selected x q
  SMap.get false (s.coreAt core).store.accBad (16384 * e.1 + 128 * e.2.1 + e.2.2)

/-- The elements of a selection take the words of two registers of a gang, its tile their tag; every other element, and every byte off the chip's windows, reads as before (17 R276). -/
def ElementsWritten (s t : State) (core gang r n : Nat) (x : W64) (tag : Tag) : Prop :=
  (∀ q : Place, q.onChip = false → t.byteAt q = s.byteAt q) ∧ (t.wgAt core).tag (x.toNat / 2 ^ 16 % 2) = tag ∧
  (∀ l < n, t.element core x l = ((s.gangAt core gang).cell r l).bits ∧
    t.element core x (n + l) = ((s.gangAt core gang).cell (r + 1) l).bits) ∧
  ∀ a i j, i < 128 → j < 128 → (∀ q < 2 * n, (a, i, j) ≠ selected x q) → t.tileAt core a i j = s.tileAt core a i j

/-- The split that waits goes on after its word, with its slices and lanes: to its next plane, or to the next offset, where it goes after an anchored word (01 R34). -/
def GoesOn (s t : State) (core gang i : Nat) : Prop :=
  ∃ sp sp', (s.gangAt core gang).splits[i]? = some sp ∧ (t.gangAt core gang).splits[i]? = some sp' ∧
    sp' = Split.step (s.gangAt core gang) sp sp.waitPlane ∧ (sp.waitPlane = none → sp'.pc = sp.pc + 1) ∧
    sp'.wait = .none ∧ sp'.slices = sp.slices ∧ sp'.lanes = sp.lanes

/-- The workgroup of a core ends (21 R316, R340): a gang in service or stopped by a debugger has no split left; a split that is left is one of before that is neither stopped nor held, or whose command runs in the transform pipe. -/
def Ends (s t : State) (core : Nat) : Prop :=
  (t.wgAt core).ending = true ∧ ∀ n,
    ((s.gangAt core n).service ≠ none ∨ (s.gangAt core n).dbgStop ≠ none → (t.gangAt core n).splits = []) ∧
    ∀ sp ∈ (t.gangAt core n).splits, sp ∈ (s.gangAt core n).splits ∧ sp.stopped = false ∧
      (sp.held (s.gangAt core n) = true → ∃ op, sp.wait = .transform op)

/-! ### The transform pipe (09 R175 to R181) -/

/-- The pipe may read `n` bytes from `a` for the gang: they lie in the workgroup's scratchpad, and no byte is raced or poisoned (09 R175). -/
def PipeReadable (s : State) (core gang : Nat) (a : W64) (n : Nat) : Prop :=
  ∀ b ∈ bytesOf a n, (∃ off, spaceOf b = .localPad off ∧ off < (s.wgAt core).kernel.scratch) ∧ races s core gang .load b = false ∧
    s.poisonAt (placeOf s core b) = false

/-- Which bytes of device memory are poisoned after `n` bytes from `pa` on are stored there from outside, those at the offsets `bad` poisoned (11 R216): a unit of 32 bytes is whole again when each poisoned byte of it is overwritten (log 109). -/
def poisonStored (s : State) (pa n : Nat) (bad : List Nat) (a : Nat) : Bool :=
  let inside := fun (a : Nat) => decide (pa ≤ a ∧ a < pa + n)
  (bad.any (fun i => pa + i == a)) ||
    (SMap.get false s.poison a && (List.range 32).any (fun k => SMap.get false s.poison (a / 32 * 32 + k) && !inside (a / 32 * 32 + k)))

/-- The bytes that the transform pipe finds for a gang at `n` addresses from `a` on (11 R203). -/
def pipeBytes (s : State) (core gang : Nat) (a : W64) (n : Nat) : List Byte := (bytesOf a n).map (s.pipeByte core gang)

/-- The value by which XSRT orders keys of a format; for F32 the totalOrder of IEEE 754 (09 R181). -/
def sortValue (t : Tag) (x : W32) : Int :=
  if t = .s32 then x.toInt
  else if t = .f32 then (if x.getLsbD 31 then -1 - (x.toNat % 2 ^ 31 : Nat) else (x.toNat : Int))
  else x.toNat

/-- The codewords that start below `lim`, from bit `pos` on, decode to the symbols `out`, after the last symbol `prev` (09 R179). -/
inductive Decodes (t : XTable) (data : List Byte) (nbits lim : Nat) : Nat → Option Byte → List Byte → Prop where
  | done {pos : Nat} {prev : Option Byte} : lim ≤ pos → Decodes t data nbits lim pos prev []
  | symbol {pos n code : Nat} {prev : Option Byte} {sym : Byte} {out : List Byte} : pos < lim →
      t.codes.find? (fun c => streamBits data pos c.1 == c.2.1) = some (n, code, sym) → pos + n ≤ nbits →
      ¬(t.run = true ∧ 0xF0 ≤ sym.toNat) → Decodes t data nbits lim (pos + n) (some sym) out →
      Decodes t data nbits lim pos prev (sym :: out)
  | run {pos n code : Nat} {p sym : Byte} {out : List Byte} : pos < lim →
      t.codes.find? (fun c => streamBits data pos c.1 == c.2.1) = some (n, code, sym) → pos + n ≤ nbits →
      t.run = true → 0xF0 ≤ sym.toNat → Decodes t data nbits lim (pos + n) (some p) out →
      Decodes t data nbits lim pos (some p) (List.replicate (sym.toNat - 0xF0 + 1) p ++ out)

/-! ### The canonical form -/

/-- Device memory, host memory, cores, object slots and routes are in canonical form: keys rising, no entry that reads as an unlisted one does. -/
structure Canonical (s : State) : Prop where
  mem : Memory.wf s.mem = true
  hmem : Memory.wf s.hmem = true
  cores : SMap.wf Core.empty s.cores = true
  objs : SMap.wf none s.objs = true
  routes : SMap.wf 0 s.routes = true

end Sys2Proof.Machine
end

