-- ==== Sys2Proof/Certificates/Slice0/Obligations.lean ====
section
/-! DEFINITION. The statements about the machine, for the provers. -/

open Sys2Proof Sys2Proof.Machine

/-! ### Scalars and predicates -/

/-- Scalar arithmetic and logic (07 R146): s[D] takes the result of the operands, wrapping modulo 2^64, and nothing else changes. -/
def Obligations.ScalarArithmetic : Prop :=
  ∀ (s : State) (cx : Ctx) (d : BitVec 6) (a b : BitVec 8) (x y : W64), s.ctx? = some cx → ScalarIn cx a x → ScalarInB cx b y →
    WritesScalar cx s d (x + y) (exec (.sadd d a b) s) ∧
    WritesScalar cx s d (x - y) (exec (.ssub d a b) s) ∧
    WritesScalar cx s d (x * y) (exec (.smul d a b) s) ∧
    WritesScalar cx s d (BitVec.ofInt 64 (x.toInt * y.toInt / 2 ^ 64)) (exec (.smulh 0 d a b) s) ∧
    WritesScalar cx s d (BitVec.ofNat 64 (x.toNat * y.toNat / 2 ^ 64)) (exec (.smulh 1 d a b) s) ∧
    WritesScalar cx s d (x &&& y) (exec (.sand d a b) s) ∧
    WritesScalar cx s d (x ||| y) (exec (.sor d a b) s) ∧
    WritesScalar cx s d (x ^^^ y) (exec (.sxor d a b) s) ∧
    WritesScalar cx s d (x <<< (y.toNat % 64)) (exec (.sshl d a b) s) ∧
    WritesScalar cx s d (x >>> (y.toNat % 64)) (exec (.sshr d a b) s) ∧
    WritesScalar cx s d (x.sshiftRight (y.toNat % 64)) (exec (.ssra d a b) s) ∧
    (∀ m : BitVec 2, WritesScalar cx s d (x + (y <<< m.toNat)) (exec (.slea m d a b) s)) ∧
    WritesScalar cx s d (if cx.g.sreg d.toNat = 0 then y else x) (exec (.ssel d a b) s)

/-- Scalar comparisons, moves and counts (07 R146): the smaller, the larger and the sign of a comparison, signed or natural; a move; the count of leading zeros and of ones. -/
def Obligations.ScalarCompareAndCount : Prop :=
  ∀ (s : State) (cx : Ctx) (d : BitVec 6) (a b : BitVec 8) (x y : W64), s.ctx? = some cx → ScalarIn cx a x → ScalarInB cx b y →
    WritesScalar cx s d (if x.sle y then x else y) (exec (.smin 0 d a b) s) ∧
    WritesScalar cx s d (if x ≤ y then x else y) (exec (.smin 1 d a b) s) ∧
    WritesScalar cx s d (if x.sle y then y else x) (exec (.smax 0 d a b) s) ∧
    WritesScalar cx s d (if x ≤ y then y else x) (exec (.smax 1 d a b) s) ∧
    WritesScalar cx s d (if x.slt y then -1 else if x = y then 0 else 1) (exec (.scmp 0 d a b) s) ∧
    WritesScalar cx s d (if x < y then -1 else if x = y then 0 else 1) (exec (.scmp 1 d a b) s) ∧
    WritesScalar cx s d y (exec (.smov d b) s) ∧
    (∃ n : Nat, n ≤ 64 ∧ x.toNat < 2 ^ (64 - n) ∧ (n < 64 → 2 ^ (63 - n) ≤ x.toNat) ∧
      WritesScalar cx s d (BitVec.ofNat 64 n) (exec (.sclz d a) s)) ∧
    WritesScalar cx s d (BitVec.ofNat 64 ((List.range 64).filter (fun i => x.getLsbD i)).length) (exec (.spop d a) s)

/-- Division (07 R147): truncation toward zero with the remainder of A's sign, and the three fixed cases. -/
def Obligations.ScalarDivide : Prop :=
  ∀ (s : State) (cx : Ctx) (d : BitVec 6) (a b : BitVec 8) (x y : W64), s.ctx? = some cx → ScalarIn cx a x → ScalarInB cx b y →
    WritesScalar cx s d (if y = 0 then -1 else x.sdiv y) (exec (.sdiv 0 d a b) s) ∧
    WritesScalar cx s d (if y = 0 then BitVec.allOnes 64 else x / y) (exec (.sdiv 1 d a b) s) ∧
    WritesScalar cx s d (if y = 0 then x else x - y * x.sdiv y) (exec (.srem 0 d a b) s) ∧
    WritesScalar cx s d (if y = 0 then x else x % y) (exec (.srem 1 d a b) s)

/-- Bit fields and halfwords (07 R148, R149), bit by bit. -/
def Obligations.ScalarFields : Prop :=
  (∀ (s : State) (cx : Ctx) (m : BitVec 1) (d : BitVec 6) (a b : BitVec 8) (x y : W64), s.ctx? = some cx → ScalarIn cx a x →
    ScalarInB cx b y → ∃ v : W64,
      (∀ i < 64, v.getLsbD i =
        if i < min (y.toNat / 2 ^ 8 % 2 ^ 7) 64 then x.getLsbD (y.toNat % 64 + i)
        else (m == 1 && decide (0 < min (y.toNat / 2 ^ 8 % 2 ^ 7) 64) &&
          x.getLsbD (y.toNat % 64 + (min (y.toNat / 2 ^ 8 % 2 ^ 7) 64 - 1)))) ∧
      WritesScalar cx s d v (exec (.sbfe m d a b) s)) ∧
  (∀ (s : State) (cx : Ctx) (d : BitVec 6) (h : BitVec 2) (i : BitVec 16), s.ctx? = some cx → ∃ v : W64,
      (∀ k < 64, v.getLsbD k =
        if 16 * h.toNat ≤ k ∧ k < 16 * h.toNat + 16 then i.getLsbD (k - 16 * h.toNat) else (cx.g.sreg d.toNat).getLsbD k) ∧
      WritesScalar cx s d v (exec (.smovi d h i) s))

/-- Predicates (07 R144, R145): p[D] changes in the lanes of E alone. PTOS and PSET (07 R144, R145): the lane bits of a scalar register; a predicate from a vector register, an inline integer, a scalar or the immediate. -/
def Obligations.PredicateResults : Prop :=
  (∀ (s : State) (cx : Ctx) (d : BitVec 7) (a b : BitVec 8), s.ctx? = some cx → d.toNat < 8 → a.toNat < 8 →
      (b.toNat < 8 →
        WritesPred cx s d.toNat (cx.g.preg a.toNat &&& cx.g.preg b.toNat) (exec (.pand d a b) s) ∧
        WritesPred cx s d.toNat (cx.g.preg a.toNat ||| cx.g.preg b.toNat) (exec (.por d a b) s) ∧
        WritesPred cx s d.toNat (cx.g.preg a.toNat ^^^ cx.g.preg b.toNat) (exec (.pxor d a b) s)) ∧
      WritesPred cx s d.toNat (~~~(cx.g.preg a.toNat)) (exec (.pnot d a) s) ∧
      WritesPred cx s d.toNat (if cx.g.preg a.toNat &&& cx.en = 0 then 0 else BitVec.allOnes 32) (exec (.pany d a) s) ∧
      WritesPred cx s d.toNat (if cx.g.preg a.toNat &&& cx.en = cx.en then BitVec.allOnes 32 else 0) (exec (.pall d a) s)) ∧
  (∀ (s : State) (cx : Ctx) (d : BitVec 7) (b : BitVec 8), s.ctx? = some cx →
      (d.toNat < 64 → b.toNat < 8 → ∃ v : W64,
        (∀ k < 64, v.getLsbD k = if cx.en.getLsbD k then (cx.g.preg b.toNat).getLsbD k else (cx.g.sreg d.toNat).getLsbD k) ∧
        Retires cx s (cx.g.setS d.toNat v) (exec (.ptos d b) s)) ∧
      (d.toNat < 8 →
        (∀ i : W64, cx.imm = some i → b = 0 → WritesPred cx s d.toNat (i.truncate 32) (exec (.pset d b) s)) ∧
        (cx.imm = none →
          (b.toNat < 128 → (b.toNat < 64 ∨ cx.g.ext ≠ none) → (∀ l ∈ cx.ls, (cx.g.cell b.toNat l).bad = false) → ∃ v : W32,
            (∀ l ∈ cx.ls, v.getLsbD l = decide ((cx.g.cell b.toNat l).bits ≠ 0)) ∧ WritesPred cx s d.toNat v (exec (.pset d b) s)) ∧
          (128 ≤ b.toNat → b.toNat < 144 → TakesTrap cx s (wordTrap cx .illegalOperand) (exec (.pset d b) s)) ∧
          (144 ≤ b.toNat → b.toNat < 192 → WritesPred cx s d.toNat (BitVec.ofNat 32 (b.toNat - 144)) (exec (.pset d b) s)) ∧
          (192 ≤ b.toNat → WritesPred cx s d.toNat ((cx.g.sreg (b.toNat - 192)).truncate 32) (exec (.pset d b) s)))
      ))

/-! ### Planes, control transfers and the gang -/

/-- Plane instructions (07 R138, R139): PLSW and PLSET write the planes of their lanes, after every lane's check; PLMSK and PLOCC read them. A lane whose plane is written has no latch left in any plane (01 R38). A plane at or beyond the kernel's count in some lane raises ILLEGAL_OPERAND, and nothing changes. -/
def Obligations.PlaneResults : Prop :=
  ∀ (s : State) (cx : Ctx) (a : BitVec 8) (v : Nat → Nat), s.ctx? = some cx →
    let moved := fun (pl : SMap (BitVec 2)) (x : SMap (Option Latch)) (on : Nat → Bool) => ∀ l < 32,
      (SMap.get 0 pl l).toNat = (if on l then v l else cx.g.planeOf l) ∧
      ∀ n < 4, ∀ i < 4, SMap.get none x (32 * (4 * n + i) + l) = if on l then none else cx.g.latch n i l
    (∀ p : BitVec 3, PlaneIn cx true a v →
      (∀ l ∈ cx.ls, (cx.g.preg p.toNat).getLsbD l = true → v l < cx.wg.kernel.planes ∧ v l < 4) →
      ∃ pl x, RetiresTraced cx s { cx.g with plane := pl, x := x } (exec (.plsw p a) s) ∧ moved pl x
        (fun l => cx.en.getLsbD l && (cx.g.preg p.toNat).getLsbD l)) ∧
    (∀ p : BitVec 3, PlaneIn cx true a v → (∃ l ∈ cx.ls, (cx.g.preg p.toNat).getLsbD l = true ∧ cx.wg.kernel.planes ≤ v l) →
      TakesTrap cx s (wordTrap cx .illegalOperand) (exec (.plsw p a) s)) ∧
    (PlaneIn cx false a v → (∃ l ∈ cx.ls, cx.wg.kernel.planes ≤ v l) →
      TakesTrap cx s (wordTrap cx .illegalOperand) (exec (.plset a) s)) ∧
    (PlaneIn cx false a v → (∀ l ∈ cx.ls, v l < cx.wg.kernel.planes ∧ v l < 4) →
      ∃ pl x, RetiresTraced cx s { cx.g with plane := pl, x := x } (exec (.plset a) s) ∧ moved pl x (fun l => cx.en.getLsbD l)) ∧
    (∀ d : BitVec 3, PlaneIn cx false a v → ∃ bits : W32, (∀ l ∈ cx.ls, bits.getLsbD l = decide (cx.g.planeOf l = v l)) ∧
      WritesPred cx s d.toNat bits (exec (.plmsk d a) s)) ∧
    (∀ d : BitVec 6, ∃ x : W64, (∀ n < 64, x.getLsbD n = true ↔ n < 4 ∧ ∃ l < 32, cx.sp.lanes.getLsbD l = true ∧ cx.g.planeOf l = n) ∧
      WritesScalar cx s d x (exec (.plocc d) s))

/-- Direct and indirect transfers (07 R128, R131 to R133): every slice takes or declines by its own lanes; what results holds no slice and no lane beyond those of the split; CALL writes s63 when a slice takes it; a target outside the plane raises ILLEGAL_OPERAND, one from a register only when a slice takes it (07 R126). -/
def Obligations.Branches : Prop :=
  ∀ (s : State) (cx : Ctx) (p : BitVec 3) (q : BitVec 1), s.ctx? = some cx →
    let operand := fun (r : Res) => TakesTrap cx s (wordTrap cx .illegalOperand) r
    (∀ f : BitVec 20, (cx.sp.pc : Int) + f.toInt < 0 ∨ (cx.wg.kernel.length : Int) ≤ (cx.sp.pc : Int) + f.toInt →
      operand (exec (.bra p q f) s) ∧ operand (exec (.call p q f) s)) ∧
    (∀ (f : BitVec 20) (t : Nat), (cx.sp.pc : Int) + f.toInt = t → t < cx.wg.kernel.length →
      Transfers cx s cx.g (Branch cx p q t) (exec (.bra p q f) s) ∧
      (SomeTakes cx p q →
        Transfers cx s (cx.g.setS 63 (BitVec.ofNat 64 ((cx.sp.pc + 1) % 2 ^ 20))) (Branch cx p q t) (exec (.call p q f) s)) ∧
      (¬SomeTakes cx p q → Transfers cx s cx.g (Branch cx p q t) (exec (.call p q f) s))) ∧
    (∀ r : BitVec 6, SomeTakes cx p q → cx.wg.kernel.length ≤ (cx.g.sreg r.toNat).toNat → operand (exec (.ret p q r) s)) ∧
    (∀ r : BitVec 6, (SomeTakes cx p q → (cx.g.sreg r.toNat).toNat < cx.wg.kernel.length) →
      Transfers cx s cx.g (Branch cx p q (cx.g.sreg r.toNat).toNat) (exec (.ret p q r) s)) ∧
    (∀ (b : BitVec 14) (n : BitVec 6) (t : Int), t = (BitVec.ofInt 64 ((cx.sp.pc : Int) + b.toInt) + cx.g.sreg n.toNat).toInt →
      (SomeTakes cx p q → t < 0 ∨ cx.wg.kernel.length ≤ t → operand (exec (.jmpi p q b n) s)) ∧
      ((SomeTakes cx p q → 0 ≤ t ∧ t < cx.wg.kernel.length) →
        Transfers cx s cx.g (Branch cx p q t.toNat) (exec (.jmpi p q b n) s)))

/-- LOOP (07 R134): a count in s0 and a target outside the plane raise ILLEGAL_OPERAND; else one decrement for the issue, and a slice goes back while the count is not zero and the condition holds in it. -/
def Obligations.LoopCountsDown : Prop :=
  ∀ (s : State) (cx : Ctx) (p : BitVec 3) (q : BitVec 1) (c : BitVec 6) (f : BitVec 14) (t : Int), s.ctx? = some cx →
    (cx.sp.pc : Int) + f.toInt = t →
    (c = 0 ∨ t < 0 ∨ cx.wg.kernel.length ≤ t → TakesTrap cx s (wordTrap cx .illegalOperand) (exec (.loop p q c f) s)) ∧
    (c ≠ 0 → 0 ≤ t → t < cx.wg.kernel.length →
      Transfers cx s (cx.g.setS c.toNat (cx.g.sreg c.toNat - 1))
        (fun j k => (cx.g.sreg c.toNat - 1 ≠ 0 ∧ Takes cx p q j → k = t.toNat) ∧
          (¬(cx.g.sreg c.toNat - 1 ≠ 0 ∧ Takes cx p q j) → k = cx.sp.pc + 1)) (exec (.loop p q c f) s))

/-- BRC (01 R41 to R43, 07 R129): a slice in which the condition holds for some lanes of E and not for others divides into path 0 at the target and path 1 at the next offset, under a new entry of its stack; any other slice moves as a whole and keeps its stack. What results holds no slice and no lane beyond those of the split; stacks and splits of other slices are as before. Without a JOIN before it BRC raises ILLEGAL_INSTRUCTION; a target or a join outside the plane raises ILLEGAL_OPERAND (05 R102), a full stack DIVERGE_DEPTH. -/
def Obligations.BranchDivides : Prop :=
  (∀ (s : State) (cx : Ctx) (p : BitVec 3) (q : BitVec 1) (f : BitVec 20), s.ctx? = some cx →
    (cx.pfx.bind (fun x => x.join) = none → TakesTrap cx s (wordTrap cx .illegalInstruction) (exec (.brc p q f) s)) ∧
    (∀ jo, cx.pfx.bind (fun x => x.join) = some jo →
      let t := (cx.sp.pc : Int) + f.toInt
      let jn := (cx.sp.pc : Int) + jo.toInt
      (t < 0 ∨ cx.wg.kernel.length ≤ t ∨ jo.toInt < 1 ∨ cx.wg.kernel.length ≤ jn →
        TakesTrap cx s (wordTrap cx .illegalOperand) (exec (.brc p q f) s)) ∧
      (0 ≤ t → t < cx.wg.kernel.length → 1 ≤ jo.toInt → jn < cx.wg.kernel.length →
        (∃ j ∈ slicesOf cx.sp.slices, ∃ T F : W32, BrcLanes cx p q j true T ∧ BrcLanes cx p q j false F ∧ T ≠ 0 ∧ F ≠ 0 ∧
          16 ≤ (SMap.get [] cx.g.dp j).length) → TakesTrap cx s (Trap.plain .divergeDepth) (exec (.brc p q f) s)))) ∧
  ∀ (s : State) (cx : Ctx) (p : BitVec 3) (q : BitVec 1) (f jo : BitVec 20) (t jn : Nat), s.ctx? = some cx →
    cx.pfx.bind (fun x => x.join) = some jo → (cx.sp.pc : Int) + f.toInt = t → t < cx.wg.kernel.length → 1 ≤ jo.toInt →
    (cx.sp.pc : Int) + jo.toInt = jn → jn < cx.wg.kernel.length →
    (∀ j ∈ slicesOf cx.sp.slices, ∀ T F : W32, BrcLanes cx p q j true T → BrcLanes cx p q j false F → T ≠ 0 → F ≠ 0 →
      (SMap.get [] cx.g.dp j).length < 16) →
    ∃ t' dp x ss q' k tr, exec (.brc p q f) s = .next t' ∧ SameMemory s t' ∧ LatchesDrop cx cx.g x ∧
      t' = { s.setGang cx.core cx.gang { cx.g with splits := ss, dp := dp, x := x, lastIssue := cx.now s, syncDue := q', sinceSync := k }
             with traces := tr } ∧
      (∀ j ∈ slicesOf cx.sp.slices, ∀ T F : W32, BrcLanes cx p q j true T → BrcLanes cx p q j false F →
        (T ≠ 0 → F ≠ 0 →
          (∃ e : DPEntry, SMap.get [] dp j = e :: SMap.get [] cx.g.dp j ∧ e.join = jn ∧ e.t = T ∧ e.f = F ∧ e.outer = cx.sp.path) ∧
          (∃ a ∈ ss, a.slices = BitVec.ofNat 8 (2 ^ j) ∧ a.path = some 0 ∧ a.lanes = T ∧ a.pc = t) ∧
          (∃ a ∈ ss, a.slices = BitVec.ofNat 8 (2 ^ j) ∧ a.path = some 1 ∧ a.lanes = F ∧ a.pc = cx.sp.pc + 1)) ∧
        (T = 0 ∨ F = 0 → SMap.get [] dp j = SMap.get [] cx.g.dp j ∧
          (cx.sp.path = none ∨ slicesOf cx.sp.slices = [j] →
            ∃ a ∈ ss, a.slices.getLsbD j = true ∧ a.path = cx.sp.path ∧ a.pc = if F = 0 then t else cx.sp.pc + 1))) ∧
      (∀ a ∈ ss, a.within cx.sp ∨ ∃ i, i ≠ cx.split ∧ cx.g.splits[i]? = some a) ∧
      (∀ i a, i ≠ cx.split → cx.g.splits[i]? = some a → cx.sp.path = none ∨ a.slices ≠ cx.sp.slices → a ∈ ss) ∧
      ∀ j, j ∉ slicesOf cx.sp.slices → SMap.get [] dp j = SMap.get [] cx.g.dp j

/-- SKIP (01 R44, 07 R130): the lanes of E for which the condition holds are disabled in the body; with none left the split goes past the body. A count of 0 and a body past the end of the plane raise ILLEGAL_OPERAND; a control instruction in the body, an anchored word, or a prefix as the last word raises SKIP_BODY. That a body word which cannot be fetched is no such word is the model's (log 77). -/
def Obligations.SkipDisablesLanes : Prop :=
  ∀ (s : State) (cx : Ctx) (p : BitVec 3) (q : BitVec 1) (n : BitVec 3), s.ctx? = some cx →
    let last := cx.sp.pc + n.toNat
    let bad := fun (pl k : Nat) => badBodyWord s cx.core pl last k
    (n = 0 ∨ cx.wg.kernel.length ≤ last → TakesTrap cx s (wordTrap cx .illegalOperand) (exec (.skip p q n) s)) ∧
    (n ≠ 0 → last < cx.wg.kernel.length →
      ((∃ pl ∈ cx.g.occupied cx.sp.lanes, ∃ k, cx.sp.pc < k ∧ k ≤ last ∧ bad pl k = true) →
        TakesTrap cx s (Trap.plain .skipBody) (exec (.skip p q n) s)) ∧
      ((∀ pl ∈ cx.g.occupied cx.sp.lanes, ∀ k, cx.sp.pc < k → k ≤ last → bad pl k = false) →
        ∃ d : W32, (∀ l < 32, d.getLsbD l = (cx.en.getLsbD l && ((cx.g.preg p.toNat).getLsbD l != (q == 1)))) ∧
          let base := { cx.sp.spent cx (cx.now s) with skip := ⟨cx.sp.pc + 1, last, d⟩ :: cx.sp.skip }
          RetiresTracedAs cx s (if cx.en &&& ~~~d = 0 then base.at (last + 1) else base.at (cx.sp.pc + 1)) cx.g (exec (.skip p q n) s))) ∧
    (∀ (pl k : Nat) (w : W32), s.peek cx.core k pl = some w → 1 ≤ w.toNat / 2 ^ 24 → w.toNat / 2 ^ 24 ≤ 0x0A → bad pl k = true)

/-- NOP and YIELD (07 R127, R136, 01 R34): NOP changes nothing but the latches and the place of its split, which goes on by one offset when no plane is left to issue, and otherwise to the plane that is next; after YIELD the gang keeps the clock in which it gave up issue. The region stack takes and gives entries as 07 R142 says. -/
def Obligations.NopYieldRegions : Prop :=
  ∀ (s : State) (cx : Ctx) (i : BitVec 16), s.ctx? = some cx →
    Retires cx s cx.g (exec .nop s) ∧
    (cx.plane = none ∨ (cx.lanes = cx.sp.lanes ∧ cx.sp.skip = []) → ∃ t sp, exec .nop s = .next t ∧
      (t.gangAt cx.core cx.gang).splits[cx.split]? = some sp ∧ sp.pc = cx.sp.pc + 1 ∧ sp.slices = cx.sp.slices ∧ sp.lanes = cx.sp.lanes) ∧
    (∀ n m l, cx.plane = some n → n < m → m < 4 → l < 32 → cx.sp.lanes.getLsbD l = true → cx.g.planeOf l = m → cx.sp.skip = [] →
      cx.sp.replay = none → ∃ t sp, exec .nop s = .next t ∧ (t.gangAt cx.core cx.gang).splits[cx.split]? = some sp ∧
        sp.pc = cx.sp.pc ∧ sp.nextPlane = n + 1 ∧ sp.slices = cx.sp.slices ∧ sp.lanes = cx.sp.lanes) ∧
    Retires cx s { cx.g with yieldAt := some (s.clockAt cx.core).toNat } (exec .yield s) ∧
    TakesTrap cx s (wordTrap cx .illegalOperand) (exec (.rent 0) s) ∧
    (armedId s cx i = false →
      (i ≠ 0 → cx.g.regions.length < 16 → RetiresTraced cx s { cx.g with regions := i :: cx.g.regions } (exec (.rent i) s)) ∧
      (i ≠ 0 → 16 ≤ cx.g.regions.length → TakesTrap cx s (Trap.plain .regionStack) (exec (.rent i) s)) ∧
      (∀ rest, cx.g.regions = i :: rest → RetiresTraced cx s { cx.g with regions := rest } (exec (.rlev i) s)) ∧
      (cx.g.regions.head? ≠ some i → TakesTrap cx s (Trap.plain .regionStack) (exec (.rlev i) s)))

/-- EXIT (07 R135): the lanes of E for which the condition holds are live no more, unless the exit is one that CLUSTER_EXIT forbids; no byte of memory changes. The lanes that stay live go on at the next offset, and every register is as before; a slice with no live lane has no split and no dual-path stack left, and a gang with none discards its regions, stacks and latches. -/
def Obligations.ExitEndsLanes : Prop :=
  ∀ (s : State) (cx : Ctx) (p : BitVec 3) (q : BitVec 1), s.ctx? = some cx →
    let out := condLanes cx p q
    let live := cx.wg.kernel.lanes &&& ~~~(cx.g.exited ||| out)
    (∀ l < 32, out.getLsbD l = (cx.en.getLsbD l && ((cx.g.preg p.toNat).getLsbD l != (q == 1)))) ∧
    (clusterExit cx out = false ↔ live ≠ 0 ∨ cx.wg.cluster = false ∨ (cx.wg.clBarred = true ∧ cx.wg.clAccessed = false)) ∧
    (clusterExit cx out = true → TakesTrap cx s (Trap.plain .clusterExit) (exec (.exit p q) s)) ∧
    (clusterExit cx out = false → ∃ t, exec (.exit p q) s = .next t ∧ SameMemory s t ∧
      (NothingToComplete cx s → (∀ c ∈ s.members cx.core, (s.wgAt c).cbArr = 0) → ∃ g' q' k tr,
      t = { s.setGang cx.core cx.gang g' with traces := tr } ∧ g'.exited = cx.g.exited ||| out ∧
      (live = 0 → g' = { cx.g with exited := cx.g.exited ||| out, splits := [], dp := [], regions := [], x := [], lastIssue := cx.now s,
                                   syncDue := q', sinceSync := k }) ∧
      (live ≠ 0 → LatchesDrop cx cx.g g'.x ∧
        g' = { cx.g with exited := cx.g.exited ||| out, splits := g'.splits, dp := g'.dp, x := g'.x, lastIssue := cx.now s,
                         syncDue := q', sinceSync := k } ∧
        (∀ j < 8, live &&& sliceMask j = 0 → SMap.get [] g'.dp j = [] ∧ ∀ sp ∈ g'.splits, sp.slices.getLsbD j = false) ∧
        (∀ j < 8, live &&& sliceMask j ≠ 0 → SMap.get [] g'.dp j = SMap.get [] cx.g.dp j ∧
          (cx.sp.slices.getLsbD j = true → ∃ sp ∈ g'.splits, sp.slices.getLsbD j = true ∧ sp.pc = cx.sp.pc + 1 ∧ sp.wait = .none ∧
            sp.path = cx.sp.path ∧ sp.lanes = cx.sp.lanes &&& ~~~out) ∧
          ∀ (i : Nat) (sp : Split), i ≠ cx.split → cx.g.splits[i]? = some sp → sp.slices.getLsbD j = true →
            ∃ sp' ∈ g'.splits, sp'.slices.getLsbD j = true ∧ sp' = { sp with slices := sp'.slices }))))

/-- REGANG (01 R19, 07 R137): while a live named slice does not wait the split waits; when every live named slice waits at this REGANG they become one group at the next offset. A mask with a bit at or above the slice count, one without a slice of the split, and a dual-path stack that is not empty raise ILLEGAL_OPERAND at issue; waits at different offsets or with different masks raise it, when the last slice arrives, at the REGANG of the split with the lowest slice, and the others wait on. -/
def Obligations.RegangJoins : Prop :=
  (∀ (s : State) (cx : Ctx) (m : BitVec 8), s.ctx? = some cx →
    2 ^ cx.wg.kernel.slices ≤ m.toNat ∨ (∃ j ∈ slicesOf cx.sp.slices, m.getLsbD j = false ∨ SMap.get [] cx.g.dp j ≠ []) →
    TakesTrap cx s (wordTrap cx .illegalOperand) (exec (.regang m) s)) ∧
  (∀ (s : State) (cx : Ctx) (m n : BitVec 8) (i k off : Nat) (x low : Split), s.ctx? = some cx → m.toNat < 2 ^ cx.wg.kernel.slices →
    cx.sp.stopped = false → (∀ j ∈ slicesOf cx.sp.slices, m.getLsbD j = true ∧ SMap.get [] cx.g.dp j = []) →
    -- two splits hold the live slices that both masks name, and the other one waits at another REGANG
    i ≠ cx.split → cx.g.splits[i]? = some x → cx.g.splits.length = 2 → x.wait = .regang n → x.stopped = false → x.pc ≠ cx.sp.pc ∨ n ≠ m →
    (∀ j ∈ liveSlices cx.wg cx.g m ++ liveSlices cx.wg cx.g n, cx.sp.slices.getLsbD j = true ∨ x.slices.getLsbD j = true) →
    (∃ j ∈ liveSlices cx.wg cx.g m, x.slices.getLsbD j = true) → (∃ j ∈ liveSlices cx.wg cx.g m, cx.sp.slices.getLsbD j = true) →
    (∃ j ∈ liveSlices cx.wg cx.g n, cx.sp.slices.getLsbD j = true) → (∃ j ∈ liveSlices cx.wg cx.g n, x.slices.getLsbD j = true) →
    cx.wg.kernel.trapOff = some off → cx.g.handler = none →
    (slicesOf cx.sp.slices).headD 0 ≠ (slicesOf x.slices).headD 0 →
    (if (slicesOf cx.sp.slices).headD 0 < (slicesOf x.slices).headD 0 then k = cx.split ∧ low = cx.waiting s (.regang m) else k = i ∧ low = x) →
    ∃ t g', exec (.regang m) s = .next t ∧ SameMemory s t ∧ g' = t.gangAt cx.core cx.gang ∧ g'.trapc = 2 ∧
      g'.trappc = BitVec.ofNat 64 low.waitFirst ∧ g'.trapa = BitVec.ofNat 64 (0x09000000 + (if k = i then n else m).toNat) ∧
      (∃ sp, g'.splits[k]? = some sp ∧ sp.pc = off ∧ sp.stopped = false ∧ sp.slices = low.slices ∧ sp.wait = .none) ∧
      ∀ h y, h ≠ k → (cx.g.splits.set cx.split (cx.waiting s (.regang m)))[h]? = some y → g'.splits[h]? = some { y with stopped := true }) ∧
  ∀ (s : State) (cx : Ctx) (m : BitVec 8), s.ctx? = some cx → m.toNat < 2 ^ cx.wg.kernel.slices → cx.sp.stopped = false →
    (∀ j ∈ slicesOf cx.sp.slices, m.getLsbD j = true ∧ SMap.get [] cx.g.dp j = []) →
    (∀ i sp w, i ≠ cx.split → cx.g.splits[i]? = some sp → sp.wait = .regang w → sp.stopped = false →
      w = m ∧ sp.pc = cx.sp.pc) →
    ((∃ j ∈ liveSlices cx.wg cx.g m, cx.sp.slices.getLsbD j = false ∧
        ∀ sp ∈ cx.g.splits, sp.slices.getLsbD j = true → sp.wait ≠ .regang m) →
      WaitsAt cx s (.regang m) (exec (.regang m) s)) ∧
    ((∃ j ∈ liveSlices cx.wg cx.g m, cx.sp.slices.getLsbD j = true) →
      (∀ j ∈ liveSlices cx.wg cx.g m, cx.sp.slices.getLsbD j = true ∨
        ∃ sp ∈ cx.g.splits, sp.slices.getLsbD j = true ∧ sp.wait = .regang m ∧ sp.stopped = false) →
      ∃ t, exec (.regang m) s = .next t ∧ SameMemory s t ∧ ∃ sp ∈ (t.gangAt cx.core cx.gang).splits,
        sp.pc = cx.sp.pc + 1 ∧ sp.wait = .none ∧ ∀ j ∈ liveSlices cx.wg cx.g m, sp.slices.getLsbD j = true)

/-- RACQ and RREL (01 R26 to R29, 07 R140, R141): a free block is taken with every register INVALID; a gang that holds one goes on; otherwise the split waits in the quadrant's queue. RREL gives the block back, or waits while a write into it is outstanding. That a freed block's registers stay in the core is the model's (log 11), and the statement leaves it open. -/
def Obligations.ExtendedBlocks : Prop :=
  ∀ (s : State) (cx : Ctx), s.ctx? = some cx →
    (cx.g.ext ≠ none → Retires cx s cx.g (exec .racq s)) ∧
    (∀ b, cx.g.ext = none → (s.coreAt cx.core).requests (cx.gang % 4) = [] → cx.wg.freeBlock (cx.gang % 4) = some b →
      Retires cx s (cx.g.granted b) (exec .racq s)) ∧
    (cx.g.ext = none → (∀ r ∈ (s.coreAt cx.core).requests (cx.gang % 4), r.gang ≠ cx.gang) →
      ((s.coreAt cx.core).requests (cx.gang % 4) ≠ [] ∨ cx.wg.freeBlock (cx.gang % 4) = none) →
      ∃ t, exec .racq s = .next t ∧ SameMemory s t ∧ IssuedAs cx s (cx.waiting s .racq) cx.g (t.gangAt cx.core cx.gang) ∧
        (t.coreAt cx.core).requests (cx.gang % 4) =
          (s.coreAt cx.core).requests (cx.gang % 4) ++ [⟨cx.gang, (s.clockAt cx.core).toNat⟩]) ∧
    (cx.g.ext = none → (∃ r ∈ (s.coreAt cx.core).requests (cx.gang % 4), r.gang = cx.gang) → WaitsAt cx s .racq (exec .racq s)) ∧
    (cx.g.ext = none → Retires cx s cx.g (exec .rrel s)) ∧
    (cx.g.ext ≠ none → writesOut s cx.core cx.gang = true → WaitsAt cx s .rrel (exec .rrel s)) ∧
    (cx.g.ext ≠ none → writesOut s cx.core cx.gang = false → ∃ t v, exec .rrel s = .next t ∧ SameMemory s t ∧
      Issued cx s { cx.g with ext := none, v := v } (t.gangAt cx.core cx.gang) ∧
      ∀ r < 64, ∀ l < 32, (t.gangAt cx.core cx.gang).cell r l = cx.g.cell r l)

/-! ### Vectors -/

/-- Integer arithmetic, shifts, minimum and maximum (09 R156, R157, with 01 R28, R39 and 03 R60): each element of D is the operation's exact result on the elements' integers, after MOD, wrapped or saturated; the tag is the common format, or the N format of its width for VABSD. An extended register without a grant raises REG_BLOCK; a latch that is not valid, and a seventeenth issue of a chain, raise LATCH_INVALID; in the lowest lane whose sources are of two formats, or of one that is no integer format, FORMAT_TAG. The order of these traps, where no rule gives one, is the model's reading (log 26). -/
def Obligations.VectorIntegers : Prop :=
  (∀ (s : State) (cx : Ctx) (n : BitVec 1) (d : BitVec 7) (a b : BitVec 8) (va vb : Nat → Val) (reads : Bool) (t : Nat → Tag)
    (x y : Nat → Nat), s.ctx? = some cx → (∀ l ∈ cx.ls, IntSources cx n d l [va l, vb l] [] (t l) [x l, y l]) →
    let gives := fun (op : IntOp) => VecResult cx s reads (fun l => laneResult n d (t l) l (intElems cx.md (t l) op (x l) (y l) 0))
    let mods := mdSigns + mdNEGR + mdCLAMP + mdSAT
    (Operands2 cx n d a b false mods va vb reads →
      gives (fun m w sg _ _ p q _ => finishInt m w sg (p + q)) (exec (.vadd n d a b) s) ∧
      gives (fun m w sg _ _ p q _ => finishInt m w sg (p - q)) (exec (.vsub n d a b) s) ∧
      gives (fun m w sg _ _ p q _ => finishInt m w sg (p * q)) (exec (.vmul n d a b) s)) ∧
    (Operands2 cx n d a b false 0 va vb reads →
      gives (fun _ w _ _ _ p q _ => (wrapInt w (p * q / 2 ^ w), 0)) (exec (.vmulh n d a b) s) ∧
      gives (fun _ w _ i j _ _ _ => (i * 2 ^ (j % w) % 2 ^ w, 0)) (exec (.vshl n d a b) s) ∧
      gives (fun _ w _ i j _ _ _ => (i / 2 ^ (j % w), 0)) (exec (.vshr n d a b) s) ∧
      gives (fun _ w _ i j _ _ _ => (wrapInt w (intOf w true i / 2 ^ (j % w)), 0)) (exec (.vsra n d a b) s)) ∧
    (Operands2 cx n d a b false mdSigns va vb reads →
      gives (fun _ w _ _ _ p q _ => (wrapInt w (if p ≤ q then p else q), 0)) (exec (.vmin n d a b) s) ∧
      gives (fun _ w _ _ _ p q _ => (wrapInt w (if p ≤ q then q else p), 0)) (exec (.vmax n d a b) s) ∧
      VecResult cx s reads (fun l => laneResult n d (t l).toNatural l
        (intElems cx.md (t l) (fun _ w _ _ _ p q _ => (wrapInt w (if p ≤ q then q - p else p - q), 0)) (x l) (y l) 0))
        (exec (.vabsd n d a b) s))) ∧
  (∀ (s : State) (cx : Ctx) (d : BitVec 7) (a b : BitVec 8) (sa sb : Src) (i : Instr), s.ctx? = some cx → cx.modw = 0 →
    i ∈ [.vadd 0 d a b, .vsub 0 d a b, .vmul 0 d a b, .vmulh 0 d a b, .vshl 0 d a b, .vshr 0 d a b, .vsra 0 d a b, .vmin 0 d a b,
      .vmax 0 d a b, .vabsd 0 d a b] →
    srcOfField cx true a = .ok sa → srcB cx true b = .ok sb →
    let ungranted := cx.g.ext = none ∧ (64 ≤ d.toNat ∨ ∃ r, (sa = .reg r ∨ sb = .reg r) ∧ 64 ≤ r)
    let seventeenth := (sa.isLatch || sb.isLatch) = true ∧ 16 < SMap.get 0 cx.sp.chain (cx.plane.getD 0)
    (ungranted → TakesTrap cx s (Trap.plain .regBlock) (exec i s)) ∧
    (¬ungranted → seventeenth → TakesTrap cx s (Trap.plain .latchInvalid) (exec i s)) ∧
    (¬ungranted → ¬seventeenth → ∀ pre l post, cx.ls = pre ++ l :: post →
      (∀ m ∈ pre, ∃ va vb t x y, sa.read cx m = .ok va ∧ sb.read cx m = .ok vb ∧ IntSources cx 0 d m [va, vb] [] t [x, y]) →
      (∀ k, sa = .latch k → cx.g.latch (cx.plane.getD 0) k l = none → TakesTrap cx s (Trap.lanewise .latchInvalid l) (exec i s)) ∧
      (∀ va vb, sa.read cx l = .ok va → sb.read cx l = .ok vb → let tags := [va, vb].filterMap Val.tag?
        tags ≠ [] → (¬∃ t : Tag, t.integer = true ∧ ∀ u ∈ tags, u = t) → TakesTrap cx s (Trap.lanewise .formatTag l) (exec i s))))

/-- VMAD, VCLZ and VPOP (09 R156): the old D is the third source, of the common format; counts of leading zeros and of ones, tagged natural. On two 32-bit integers without MOD (03 R57, 09 R156, R157) VADD, VSUB and VMUL wrap modulo 2^32, and the shifts use B mod 32. -/
def Obligations.VectorMadAndCounts : Prop :=
  (∀ (s : State) (cx : Ctx) (n : BitVec 1) (d : BitVec 7) (a b : BitVec 8) (va vb : Nat → Val) (reads : Bool) (t : Nat → Tag)
      (x y z : Nat → Nat), s.ctx? = some cx →
    (Operands2 cx n d a b true (mdSigns + mdNEGR + mdCLAMP + mdSAT) va vb reads → RegsReadable cx d.toNat 1 →
      (∀ l ∈ cx.ls, IntSources cx n d l [va l, vb l, .tagged (cx.g.cell d.toNat l).bits (cx.g.cell d.toNat l).tag (some d.toNat)] []
        (t l) [x l, y l, z l]) →
      VecResult cx s reads (fun l => laneResult n d (t l) l
        (intElems cx.md (t l) (fun m w sg _ _ p q r => finishInt m w sg (p * q + r)) (x l) (y l) (z l)))
        (exec (.vmad n d a b) s)) ∧
    (Operands1 cx n d a 0 va reads → (∀ l ∈ cx.ls, IntSources cx n d l [va l] [] (t l) [x l]) →
      VecResult cx s reads (fun l => laneResult n d (t l).toNatural l
        (intElems cx.md (t l) (fun _ w _ i _ _ _ _ => (w - i.size, 0)) (x l) 0 0)) (exec (.vclz n d a) s) ∧
      VecResult cx s reads (fun l => laneResult n d (t l).toNatural l
        (intElems cx.md (t l) (fun _ w _ i _ _ _ _ => (((List.range w).filter (fun k => i.testBit k)).length, 0)) (x l) 0 0))
        (exec (.vpop n d a) s))) ∧
  (∀ (sg : Bool) (x y : W32),
    let m : ModF := ModF.of 0
    let t : Tag := if sg then .s32 else .n32
    intElems m t opAdd x.toNat y.toNat 0 = ((x + y).toNat, 0) ∧ intElems m t opSub x.toNat y.toNat 0 = ((x - y).toNat, 0) ∧
    intElems m t opMul x.toNat y.toNat 0 = ((x * y).toNat, 0) ∧
    intElems m t opShl x.toNat y.toNat 0 = ((x <<< (y.toNat % 32)).toNat, 0) ∧
    intElems m t opShr x.toNat y.toNat 0 = ((x >>> (y.toNat % 32)).toNat, 0) ∧
    intElems m t opSra x.toNat y.toNat 0 = ((x.sshiftRight (y.toNat % 32)).toNat, 0))

/-- Bit fields (09 R158): the field of A from bit pos, of len bits, sign-extended in S32; or A's low len bits put into D there. -/
def Obligations.VectorFields : Prop :=
  ∀ (s : State) (cx : Ctx) (n : BitVec 1) (d : BitVec 7) (a b : BitVec 8) (va vb : Nat → Val) (reads : Bool) (t : Nat → Tag)
    (x y : Nat → W32), s.ctx? = some cx →
    (∀ l ∈ cx.ls, IntSources cx n d l [va l, vb l] [] (t l) [(x l).toNat, (y l).toNat] ∧ (t l = .s32 ∨ t l = .n32)) →
    ∀ pos len : Nat → Nat, (∀ l, pos l = (y l).toNat % 32) → (∀ l, len l = min ((y l).toNat / 2 ^ 8 % 2 ^ 6) 32) →
    (Operands2 cx n d a b false 0 va vb reads → ∃ v : Nat → W32,
      (∀ l ∈ cx.ls, ∀ i < 32, (v l).getLsbD i =
        if i < len l then (x l).getLsbD (pos l + i)
        else (decide (t l = .s32) && decide (0 < len l) && (x l).getLsbD (pos l + (len l - 1)))) ∧
      VecResult cx s reads (fun l => laneResult n d (t l) l ((v l).toNat, 0)) (exec (.vbfe n d a b) s)) ∧
    (Operands2 cx n d a b true 0 va vb reads → RegsReadable cx d.toNat 1 → ∃ v : Nat → W32,
      (∀ l ∈ cx.ls, ∀ i < 32, (v l).getLsbD i =
        if pos l ≤ i ∧ i < pos l + len l then (x l).getLsbD (i - pos l) else (cx.g.cell d.toNat l).bits.getLsbD i) ∧
      VecResult cx s reads (fun l => laneResult n d (t l) l ((v l).toNat, 0)) (exec (.vbfi n d a b) s))

/-- Bitwise operations, selection and moves (03 R62, 09 R156, R159): no tag is checked; the result's tag is A's, else B's, else B32; VSEL chooses by the old D. That VAND, VOR and VXOR work on 64 bits under the tag of a pair is the model's reading (log 36). -/
def Obligations.VectorBitsAndMoves : Prop :=
  ∀ (s : State) (cx : Ctx) (n : BitVec 1) (d : BitVec 7) (a b : BitVec 8) (va vb : Nat → Val) (reads : Bool) (t : Nat → Tag)
    (x y : Nat → Nat), s.ctx? = some cx →
    (∀ l ∈ cx.ls, t l = (match (va l).tag?, (vb l).tag? with
      | some u, _ => u
      | none, some u => u
      | none, none => .b32)) →
    (Operands2 cx n d a b false 0 va vb reads →
      (∀ l ∈ cx.ls, ((t l).wide = true → n = 0 ∧ d.toNat % 2 = 0) ∧
        (va l).get cx false (t l) l = .ok (x l) ∧ (vb l).get cx false (t l) l = .ok (y l)) →
      VecResult cx s reads (fun l => laneResult n d (t l) l (x l &&& y l, 0)) (exec (.vand n d a b) s) ∧
      VecResult cx s reads (fun l => laneResult n d (t l) l (x l ||| y l, 0)) (exec (.vor n d a b) s) ∧
      VecResult cx s reads (fun l => laneResult n d (t l) l (x l ^^^ y l, 0)) (exec (.vxor n d a b) s)) ∧
    (Operands2 cx n d a b true 0 va vb reads → RegsReadable cx d.toNat 1 →
      VecResult cx s reads (fun l =>
        let v : W32 := if (cx.g.cell d.toNat l).bits ≠ 0 then BitVec.ofNat 32 ((va l).inFormat (t l)) else BitVec.ofNat 32 ((vb l).inFormat (t l))
        ⟨l, [(d.toNat, v, t l)], some ⟨v, t l, false⟩, false, 0⟩) (exec (.vsel n d a b) s)) ∧
    (Operands1 cx n d a 0 va reads →
      VecResult cx s reads (fun l =>
        let u : Tag := match (va l).tag? with
          | some u => u
          | none => if a.toNat < 144 then .n32 else if a.toNat < 192 then .s32 else .b32
        let v : W32 := BitVec.ofNat 32 (va l).low
        ⟨l, if n = 1 then [] else [(d.toNat, v, u)], some ⟨v, u, false⟩, false, 0⟩) (exec (.vmov n d a) s))

/-- Floating-point arithmetic (09 R161, 03 R65 to R69): each element is the exact sum, difference, product or fused product and sum, after the sign fields of MOD, rounded once in the format and rounding of the issue, with its flags; minimum and maximum by the order of 03 R68. -/
def Obligations.VectorFloats : Prop :=
  ∀ (s : State) (cx : Ctx) (n : BitVec 1) (d : BitVec 7) (a b : BitVec 8) (va vb : Nat → Val) (reads : Bool) (t : Nat → Tag)
    (f : Nat → FFmt), s.ctx? = some cx →
    let gives := fun (z : Nat → Nat) (op : FEnv → Nat → Nat → Nat → Flagged) => VecResult cx s reads (fun l => laneResult n d (t l) l
      (floatElems (f l) (op (cx.fenv (f l))) ((va l).inFormat (t l)) ((vb l).inFormat (t l)) (z l)))
    (Operands2 cx n d a b false mdAll va vb reads → (∀ l ∈ cx.ls, FloatSources [va l, vb l] [] (t l) (f l)) →
      gives (fun _ => 0) (fun v i j _ => v.finish [v.a i, v.b j] 0) (exec (.fadd n d a b) s) ∧
      gives (fun _ => 0) (fun v i j _ => v.finish [v.a i, (v.b j).negate] 0) (exec (.fsub n d a b) s) ∧
      gives (fun _ => 0) (fun v i j _ => v.finish [((v.a i).mul (v.b j)).1] ((v.a i).mul (v.b j)).2) (exec (.fmul n d a b) s)) ∧
    (Operands2 cx n d a b true mdAll va vb reads → RegsReadable cx d.toNat 1 →
      (∀ l ∈ cx.ls, FloatSources [va l, vb l] [(cx.g.cell d.toNat l).tag] (t l) (f l)) →
      gives (fun l => (cx.g.cell d.toNat l).bits.toNat) (fun v i j k =>
        v.finish [((v.a i).mul (v.b j)).1, v.f.decode (flushOperand v.f v.ftz k)] ((v.a i).mul (v.b j)).2) (exec (.ffma n d a b) s)) ∧
    (Operands2 cx n d a b false (mdSigns + mdNEGR + mdCLAMP) va vb reads → (∀ l ∈ cx.ls, FloatSources [va l, vb l] [] (t l) (f l)) →
      gives (fun _ => 0) (fun v i j _ => finishFloat v.f v.m
        (minMax v.f v.ftz false (signBits v.f v.m.absa v.m.nega i) (signBits v.f v.m.absb v.m.negb j))) (exec (.fmin n d a b) s) ∧
      gives (fun _ => 0) (fun v i j _ => finishFloat v.f v.m
        (minMax v.f v.ftz true (signBits v.f v.m.absa v.m.nega i) (signBits v.f v.m.absb v.m.negb j))) (exec (.fmax n d a b) s))

/-- VCMP and FCMP (09 R160, R162): the relation on every pair of elements, all of them or any; with a NaN only NE and UN hold. -/
def Obligations.VectorCompares : Prop :=
  ∀ (s : State) (cx : Ctx) (y : BitVec 1) (r p : BitVec 3) (a b : BitVec 8) (va vb : Nat → Val) (reads : Bool) (t : Nat → Tag),
    s.ctx? = some cx → Operands2 cx 0 0 a b false mdSigns va vb reads →
    (∀ i j : Nat → Nat, r.toNat < 6 → (∀ l ∈ cx.ls, IntSources cx 0 0 l [va l, vb l] [] (t l) [i l, j l]) →
      let rel := fun (u v : Int) => match r.toNat with
        | 0 => decide (u = v) | 1 => decide (u ≠ v) | 2 => decide (u < v) | 3 => decide (u ≤ v) | 4 => decide (v < u) | _ => decide (v ≤ u)
      let on := fun l => List.zipWith (fun e f =>
          rel (signInt cx.md.absa cx.md.nega (intOf (t l).width (t l).signed e)) (signInt cx.md.absb cx.md.negb (intOf (t l).width (t l).signed f)))
        (elems (t l).width (i l)) (elems (t l).width (j l))
      CmpResult cx s p reads (fun l => (t l).wide) (fun l => if y = 1 then (on l).any id else (on l).all id) (fun _ => 0)
        (exec (.vcmp y r p a b) s)) ∧
    (∀ f : Nat → FFmt, (∀ l ∈ cx.ls, FloatSources [va l, vb l] [] (t l) (f l)) →
      let ea := fun l e => flushOperand (f l) cx.g.ftz (signBits (f l) cx.md.absa cx.md.nega e)
      let eb := fun l e => flushOperand (f l) cx.g.ftz (signBits (f l) cx.md.absb cx.md.negb e)
      let on := fun l => List.zipWith (fun e e' => floatRel (f l) r.toNat (ea l e) (eb l e'))
        (elems (f l).width ((va l).inFormat (t l))) (elems (f l).width ((vb l).inFormat (t l)))
      ∃ fl : Nat → Nat, CmpResult cx s p reads (fun _ => false) (fun l => if y = 1 then (on l).any id else (on l).all id) fl
        (exec (.fcmp y r p a b) s) ∧ ∀ l, fl l = 0 ∨ fl l = flIV)

/-- The approximate functions, FCLASS and FDOT2 (09 R163 to R165): each element's approximation with its flags; without MOD and FTZ the special operands of the table of 09 R163, its exact results, and the overflow of FEXP2; a one-hot class, tagged natural; two products of halves and the F32 addend, rounded once. Which bits within its bound the device returns for an approximate function is an opaque constant (log 10), and EXP2 scales the absolute bound of FLOG2 (log 76). -/
def Obligations.VectorApproxClassDot : Prop :=
  (∀ (op : Nat) (t : Tag) (f : FFmt) (rm : RM) (w x : Nat), op = 0x67 ∨ op = 0x68 ∨ op = 0x69 ∨ op = 0x6A → f ∈ [fF32, fF16, fBF16] →
    x < 2 ^ f.width →
    let gives := fun (r fl : Nat) => approxElem op t ⟨f, ModF.of 0, rm, false⟩ w x = (r, fl)
    let exact := fun (r : Nat) => gives r (if f.subnormal r = true then flUF else 0)
    (∀ q, f.decode x = .nan q → gives f.nan (if q = true then flIV else 0)) ∧
    (∀ n, f.decode x = .inf n →
      (op = 0x67 → gives (f.signed n 0) 0) ∧ (op = 0x69 → gives (if n = true then 0 else f.infBits) 0) ∧
      (op = 0x68 → if n = true then gives f.nan flIV else gives 0 0) ∧ (op = 0x6A → if n = true then gives f.nan flIV else gives f.infBits 0)) ∧
    (∀ n e, f.decode x = .fin n 0 e → (op = 0x67 ∨ op = 0x68 → gives (f.signed n f.infBits) flDZ) ∧
      (op = 0x6A → gives (f.signed true f.infBits) flDZ)) ∧
    (∀ m e, f.decode x = .fin true m e → m ≠ 0 → op = 0x68 ∨ op = 0x6A → gives f.nan flIV) ∧
    (∀ (n : Bool) (k : Int) (a r : Nat), op = 0x67 → x = f.signed n a → f.isPower k a → f.isPower (-k) r → exact (f.signed n r)) ∧
    (∀ (k : Int) (r : Nat), op = 0x68 → f.isPower (2 * k) x → f.isPower (-k) r → exact r) ∧
    (∀ (k : Int) (r : Nat), op = 0x69 → f.isInt k x → f.isPower k r → exact r) ∧
    (∀ (k : Int) (r : Nat), op = 0x6A → f.isPower k x → r < 2 ^ f.width → f.isInt k r → f.neg r = decide (k < 0) → gives r 0) ∧
    (∀ m e, op = 0x69 → f.decode x = .fin false m e → (f.bias + 1) * 2 ^ (-e).toNat ≤ m * 2 ^ e.toNat →
      gives f.infBits (flOF + flIX))) ∧
  ∀ (s : State) (cx : Ctx) (n : BitVec 1) (d : BitVec 7) (a b : BitVec 8) (va vb : Nat → Val) (reads : Bool) (t : Nat → Tag)
    (f : Nat → FFmt), s.ctx? = some cx →
    ((∀ l ∈ cx.ls, FloatSources [va l] [] (t l) (f l)) →
      (Operands1 cx n d a (mdNEGA + mdABSA + mdNEGR + mdEXP2 + mdCLAMP + mdSAT) va reads →
        let gives := fun (op : Nat) => VecResult cx s reads (fun l => laneResult n d (t l) l
          (floatElems (f l) (fun e _ _ => approxElem op (t l) (cx.fenv (f l)) cx.modw.toNat e) ((va l).inFormat (t l)) 0 0))
        gives 0x67 (exec (.frcp n d a) s) ∧ gives 0x68 (exec (.frsq n d a) s) ∧ gives 0x69 (exec (.fexp2 n d a) s) ∧
        gives 0x6A (exec (.flog2 n d a) s)) ∧
      (Operands1 cx n d a 0 va reads →
        VecResult cx s reads (fun l => laneResult n d (t l).toNatural l
          (joinElems (f l).width ((elems (f l).width ((va l).inFormat (t l))).map (fun e => 2 ^ classOf (f l) e)), 0))
          (exec (.fclass n d a) s))) ∧
    (Operands2 cx n d a b true mdAll va vb reads → RegsReadable cx d.toNat 1 → (∀ l ∈ cx.ls, (cx.g.cell d.toNat l).tag = .f32) →
      (∀ l ∈ cx.ls, FloatSources [va l, vb l] [] (t l) (f l) ∧ (t l = .f16x2 ∨ t l = .bf16x2)) →
      VecResult cx s reads (fun l =>
        let v := cx.fenv (f l)
        let ps := List.zipWith (fun e e' => (v.a e).mul (v.b e')) (elems 16 ((va l).inFormat (t l))) (elems 16 ((vb l).inFormat (t l)))
        laneResult n d .f32 l ((cx.fenv fF32).finish
          (ps.map (fun p => p.1) ++ [fF32.decode (flushOperand fF32 v.ftz (cx.g.cell d.toNat l).bits.toNat)])
          (ps.foldl (fun fl p => fl ||| p.2) 0))) (exec (.fdot2 n d a b) s))

/-- CVT, TAGSET and TAGGET (09 R167, R171, 03 R70): every element converted within its group; the bits as they are under a named tag, with bits 7:6 of each byte zero under L6X4, where 03 R58 is the model's reading of TAGSET too (log 73); the tag's code as N32. That all 64 bits of a scalar select the format is the model's choice (log 118). -/
def Obligations.VectorConversions : Prop :=
  ∀ (s : State) (cx : Ctx) (n : BitVec 1) (d : BitVec 7) (a b : BitVec 8) (va : Nat → Val) (reads : Bool) (t : Tag)
    (st : Nat → Tag) (x : Nat → Nat), s.ctx? = some cx →
    (Operands1 cx n d a (mdSAT + mdRND) va reads → a.toNat < 132 → SelectorIn cx b t →
      (∀ te, t.elem = some te → (∀ l ∈ cx.ls, (va l).tag? = some (st l) ∧ (∃ se, (st l).elem = some se ∧ (st l).width = t.width ∧
          (cx.md.rnd = 0 ∨ se.isFloat = true ∨ te.isFloat = true)) ∧
          ((st l).wide = true → n = 0 ∧ d.toNat % 2 = 0) ∧ (va l).get cx true (st l) l = .ok (x l)) →
        VecResult cx s reads (fun l =>
          let r := convElems cx.round cx.g.ftz cx.md.sat ((st l).elem.getD te) te (elems (st l).width (x l))
          laneResult n d t l (if st l = t then (x l, 0) else (joinElems t.width r.1, r.2))) (exec (.cvt n d a b) s))) ∧
    (Operands1 cx n d a 0 va reads → SelectorIn cx b t → t ≠ .rsvD → t ≠ .rsvE →
      (t.wide = false → VecResult cx s reads (fun l => laneResult n d t l ((va l).low, 0)) (exec (.tagset n d a b) s)) ∧
      (t.wide = true → n = 0 → d.toNat % 2 = 0 → a.toNat % 2 = 0 → a.toNat < 128 → RegsReadable cx a.toNat 2 →
        VecResult cx s reads (fun l => laneResult n d t l
          ((cx.g.cell a.toNat l).bits.toNat + (cx.g.cell (a.toNat + 1) l).bits.toNat * 2 ^ 32, 0)) (exec (.tagset n d a b) s))) ∧
    (Operands1 cx n d a 0 va reads → a.toNat < 132 →
      VecResult cx s reads (fun l => laneResult n d .n32 l (((va l).tag?.getD .b32).code, 0)) (exec (.tagget n d a) s))

/-- PACK, UNPK, CVTL6 and L6SCL (09 R168 to R170, 03 R78, R79): two registers into one of half the width and back, L6 codes with a scale, and the scale of each group of eight lanes. The value of a negative element that UNPK takes to a natural format is the model's (log 75). -/
def Obligations.VectorPacks : Prop :=
  ∀ (s : State) (cx : Ctx) (n : BitVec 1) (d : BitVec 7) (a b : BitVec 8) (t st : Tag), s.ctx? = some cx →
    n = 0 ∨ d = 0 → d.toNat < 64 ∨ cx.g.ext ≠ none →
    (cx.modw.toNat &&& (mdAll - (mdSAT + mdRND)) = 0 → RegsReadable cx a.toNat 2 → SelectorIn cx b t → OneTag cx a.toNat 2 st →
      packs st t = true → (∀ se te, st.elem = some se → t.elem = some te → (cx.md.rnd = 0 ∨ se.isFloat = true ∨ te.isFloat = true) →
        VecResult cx s false (fun l =>
          let r := convElems cx.round cx.g.ftz cx.md.sat se te
            (elems st.width (cx.g.cell a.toNat l).bits.toNat ++ elems st.width (cx.g.cell (a.toNat + 1) l).bits.toNat)
          laneResult n d t l (joinElems t.width r.1, r.2)) (exec (.pack n d a b) s))) ∧
    (cx.modw.toNat &&& mdAll = 0 → n = 0 → RegsReadable cx a.toNat 1 → OneTag cx a.toNat 1 st →
      (d.toNat + 2 ≤ 64 ∨ (d.toNat + 2 ≤ 128 ∧ cx.g.ext ≠ none)) → SelectorIn cx b t → unpacks st t = true →
      (∀ se te, st.elem = some se → t.elem = some te →
        VecResult cx s false (fun l =>
          let y := convElems cx.round cx.g.ftz false se te (elems st.width (cx.g.cell a.toNat l).bits.toNat)
          let z := fun (e : List Nat) => BitVec.ofNat 32 (joinElems t.width e)
          ⟨l, [(d.toNat, z (y.1.take (32 / t.width)), t), (d.toNat + 1, z (y.1.drop (32 / t.width)), t)],
            some ⟨z (y.1.take (32 / t.width)), t, false⟩, false, y.2⟩) (exec (.unpk n d a b) s))) ∧
    (∀ (vb : Nat → Val) (reads : Bool), cx.modw.toNat &&& mdAll = 0 → n = 0 → RegsReadable cx a.toNat 1 → OneTag cx a.toNat 1 .l6x4 →
      (d.toNat + 4 ≤ 64 ∨ (d.toNat + 4 ≤ 128 ∧ cx.g.ext ≠ none)) →
      (∃ sb, srcOfField cx true b = .ok sb ∧ sb.block cx = .ok () ∧ reads = sb.isLatch ∧
        (reads = true → SMap.get 0 cx.sp.chain (cx.plane.getD 0) ≤ 16) ∧ ∀ l ∈ cx.ls, sb.read cx l = .ok (vb l)) →
      (∀ l ∈ cx.ls, (vb l).low ≤ 255) →
      VecResult cx s reads (fun l =>
        let rs := (elems 8 (cx.g.cell a.toNat l).bits.toNat).map (fun c => l6ToF32 cx.g.ftz (vb l).low (c % 64))
        ⟨l, (List.range 4).map (fun i => (d.toNat + i, BitVec.ofNat 32 ((rs.map (fun r => r.1)).getD i 0), .f32)),
          some ⟨BitVec.ofNat 32 ((rs.map (fun r => r.1)).headD 0), .f32, false⟩, false, rs.foldl (fun f r => f ||| r.2) 0⟩)
        (exec (.unpk n d a b) s)) ∧
    (cx.modw.toNat &&& mdAll = 0 → RegsReadable cx a.toNat 4 → (∀ i < 4, ∀ l ∈ cx.ls, (cx.g.cell (a.toNat + i) l).tag = .f32) →
      let x := fun l => (List.range 4).map (fun i => (cx.g.cell (a.toNat + i) l).bits.toNat)
      (∀ (vb : Nat → Val) (reads : Bool),
        (∃ sb, srcB cx true b = .ok sb ∧ sb.block cx = .ok () ∧ reads = sb.isLatch ∧
          (reads = true → SMap.get 0 cx.sp.chain (cx.plane.getD 0) ≤ 16) ∧ ∀ l ∈ cx.ls, sb.read cx l = .ok (vb l)) →
        (∀ l ∈ cx.ls, (vb l).low ≤ 255) →
        VecResult cx s reads (fun l => laneResult n d .l6x4 l (joinElems 8 ((x l).map (fun e => (toL6 (vb l).low e).1)),
          (x l).foldl (fun f e => f ||| (toL6 (vb l).low e).2) 0)) (exec (.cvtl6 n d a b) s)) ∧
      VecResult cx s false (fun l => laneResult n d .n32 l
        (blockScale ((cx.ls.filter (fun k => k / 8 == l / 8)).flatMap x), 0)) (exec (.l6scl n d a) s))

/-- Lane operations (09 R172, R174): a register read from chosen lanes as it stands, with its tags; the compaction of the lanes that a predicate selects, and their ranks or their count. That VROT takes a register or an inline integer as a natural number and an immediate as a signed one is the model's reading (log 36); that VBCST compares all 64 bits of a scalar is its choice (log 118). -/
def Obligations.LaneMoves : Prop :=
  ∀ (s : State) (cx : Ctx) (d : BitVec 7), s.ctx? = some cx → d.toNat < 64 ∨ cx.g.ext ≠ none →
    let lanes := 4 * cx.wg.kernel.slices
    (∀ a b : BitVec 8, a.toNat < 128 → a.toNat < 64 ∨ cx.g.ext ≠ none →
      let good := fun (m : Nat) => m < lanes → (cx.g.cell a.toNat m).bad = false
      (∀ (sb : Src) (m : Nat → Val), srcB cx false b = .ok sb → sb.block cx = .ok () →
        (∀ l ∈ cx.ls, sb.read cx l = .ok (m l) ∧ good (m l).low) →
        WritesCells cx s 0 (fun rg l => if rg = d.toNat then some (laneOr0 cx a.toNat (m l).low) else none) (exec (.vshfl d a b) s)) ∧
      (∀ k : W64, UniformIn cx b k →
        (let n : Nat := if cx.imm.isSome then (k.toInt % (lanes : Nat)).toNat else k.toNat
        (∀ l ∈ cx.ls, good ((l + n) % lanes)) →
          WritesCells cx s 0 (fun rg l => if rg = d.toNat then some (laneOr0 cx a.toNat ((l + n) % lanes)) else none)
            (exec (.vrot d a b) s)) ∧
        (k.toNat < lanes → good k.toNat →
          WritesCells cx s 0 (fun rg _ => if rg = d.toNat then some (laneOr0 cx a.toNat k.toNat) else none) (exec (.vbcst d a b) s)))) ∧
    (∀ p : BitVec 3,
      let sel := cx.ls.filter (fun l => (cx.g.preg p.toNat).getLsbD l)
      (∀ a : BitVec 8, a.toNat < 128 → a.toNat < 64 ∨ cx.g.ext ≠ none → (∀ l ∈ sel, (cx.g.cell a.toNat l).bad = false) →
        WritesCells cx s 0 (fun rg l => if rg = d.toNat then
          (sel[cx.ls.idxOf l]?).map (fun k => ((cx.g.cell a.toNat k).bits, (cx.g.cell a.toNat k).tag)) else none) (exec (.vcmpt d a p) s)) ∧
      WritesCells cx s 0 (fun rg l => if rg = d.toNat then
        some (BitVec.ofNat 32 (sel.countP (fun k => decide (k < l))), .n32) else none) (exec (.vbal d p 0) s) ∧
      WritesCells cx s 0 (fun rg _ => if rg = d.toNat then some (BitVec.ofNat 32 sel.length, .n32) else none) (exec (.vbal d p 1) s))

/-- Reductions and scans (09 R173): over the lanes of E in ascending order; VRED gives every lane the last running value, VSCAN its own or, when exclusive, the one before it. The running values of an ADD of 32-bit integers are the sums of the lanes so far, modulo 2^32 (09 R173). That the bitwise operations combine a pair as 64 bits, and L6X4, B32 and INVALID as 32, is the model's reading (log 36), and so is what redRun, the model's own function of a lane's values, gives where the first lane of a floating-point operation holds a NaN (log 117). -/
def Obligations.LaneReductions : Prop :=
  (∀ (s : State) (cx : Ctx) (d : BitVec 7) (a : BitVec 8) (o : BitVec 4) (t : Tag) (x : Nat → Nat), s.ctx? = some cx → o.toNat < 9 →
      a.toNat < 128 → (t.wide = true → a.toNat % 2 = 0 ∧ d.toNat % 2 = 0) → RegsReadable cx a.toNat (if t.wide then 2 else 1) →
      d.toNat < 64 ∨ cx.g.ext ≠ none → OneTag cx a.toNat (if t.wide then 2 else 1) t → redAccepts o.toNat t = true →
      (∀ l ∈ cx.ls, x l = if t.wide then (cx.g.cell a.toNat l).bits.toNat + (cx.g.cell (a.toNat + 1) l).bits.toNat * 2 ^ 32
        else (cx.g.cell a.toNat l).bits.toNat) →
      let run := redRun o.toNat t cx.g.rm cx.g.ftz (cx.ls.map x)
      let put := fun (z : Nat → Nat) => WritesCells cx s run.2 (fun rg l =>
        if rg = d.toNat then some (BitVec.ofNat 32 (z l), t)
        else if t.wide ∧ rg = d.toNat + 1 then some (BitVec.ofNat 32 (z l / 2 ^ 32), t) else none)
      put (fun _ => run.1.getLastD 0) (exec (.vred d a o) s) ∧
      put (fun l => run.1.getD (cx.ls.idxOf l) 0) (exec (.vscan d a 0 o) s) ∧
      put (fun l => if cx.ls.idxOf l = 0 then redIdentityLane o.toNat t else run.1.getD (cx.ls.idxOf l - 1) 0) (exec (.vscan d a 1 o) s)) ∧
  (∀ (t : Tag) (rm : RM) (ftz : Bool) (xs : List Nat), t = .s32 ∨ t = .n32 → (∀ x ∈ xs, x < 2 ^ 32) →
      (redRun 0 t rm ftz xs).1 = (List.range xs.length).map (fun i => (xs.take (i + 1)).sum % 2 ^ 32) ∧ (redRun 0 t rm ftz xs).2 = 0)

/-! ### Memory -/

/-- Loads (13 R222 to R224): each lane's bytes, little-endian, into registers tagged F: those that stand there where every write of them happens before the load, and in a race, unit by unit, those that some write left (11 R194, R203); a byte or a halfword is sign-extended under S32 and zero-extended otherwise; under L6X4 three bytes give four codes. No byte of memory changes. In the lowest lane whose address is not aligned ALIGNMENT is raised, and where every access can be made, in the lowest lane that races, RACE (11 R214). The draw of a free choice and the translations kept in the TLBs are the model's (log 6); data return at issue, and what orders a write before a load is read from the gang's acquires (log 1, 107). -/
def Obligations.Loads : Prop :=
  ∀ (s : State) (cx : Ctx) (v : BitVec 7) (sr : BitVec 6) (x : BitVec 7) (f : BitVec 4), s.ctx? = some cx →
    let xs := fun (u : Nat) => accesses cx (laneAddr cx sr x u)
    let found := fun (u : Nat) (num : Nat → Nat) => LoadsFind cx s u (xs u) num
    let tag := Tag.ofCode f.toNat
    (f.toNat < 3 → LoadReady cx s v x 1 1 1 (xs 1) → ∃ num, found 1 num ∧
      LoadResult cx s v.toNat 1 tag (fun l => [if f = 1 then (BitVec.ofNat 8 (num l)).signExtend 32 else BitVec.ofNat 32 (num l)])
        (exec (.ldb v sr x f) s)) ∧
    (f.toNat < 3 → LoadReady cx s v x 1 2 2 (xs 2) → ∃ num, found 2 num ∧
      LoadResult cx s v.toNat 1 tag (fun l => [if f = 1 then (BitVec.ofNat 16 (num l)).signExtend 32 else BitVec.ofNat 32 (num l)])
        (exec (.ldh v sr x f) s)) ∧
    (f.toNat < 10 → LoadReady cx s v x 1 4 4 (xs 4) → ∃ num, found 4 num ∧
      LoadResult cx s v.toNat 1 tag (fun l => [BitVec.ofNat 32 (num l)]) (exec (.ldw v sr x f) s)) ∧
    (f = 10 → LoadReady cx s v x 1 3 1 (xs 3) → ∃ (num : Nat → Nat) (y : Nat → W32), found 3 num ∧
      (∀ l ∈ cx.ls, ∀ i < 4, ∀ k < 8, (y l).getLsbD (8 * i + k) = (decide (k < 6) && (num l).testBit (6 * i + k))) ∧
      LoadResult cx s v.toNat 1 .l6x4 (fun l => [y l]) (exec (.ldw v sr x f) s)) ∧
    (f.toNat < 13 → f ≠ 10 → v.toNat % 2 = 0 →
      (LoadReady cx s v x 2 8 8 (xs 8) → ∃ num, found 8 num ∧
        LoadResult cx s v.toNat 2 tag (fun l => [BitVec.ofNat 32 (num l), BitVec.ofNat 32 (num l / 2 ^ 32)]) (exec (.ldd v sr x f) s)) ∧
      (LoadReady cx s v x 4 16 8 (xs 16) → ∃ num, found 16 num ∧
        LoadResult cx s v.toNat 4 tag (fun l => (List.range 4).map (fun i => BitVec.ofNat 32 (num l / 2 ^ (32 * i))))
          (exec (.ldq v sr x f) s))) ∧
    (∀ (i : Instr) (u al k : Nat), (i, u, al, k) ∈ [(.ldb v sr x f, 1, 1, 1), (.ldh v sr x f, 2, 2, 1), (.ldw v sr x f, 4, 4, 1),
        (.ldd v sr x f, 8, 8, 2), (.ldq v sr x f, 16, 8, 4)] →
      (if u ≤ 2 then f.toNat < 3 else if u = 4 then f.toNat < 10 else f.toNat < 13 ∧ f ≠ 10 ∧ v.toNat % 2 = 0) →
      v.toNat + k ≤ 128 → v.toNat + k ≤ 64 ∨ cx.g.ext ≠ none → x.toNat = 127 ∨ x.toNat < 64 ∨ cx.g.ext ≠ none →
      ∀ pre l a post, xs u = pre ++ (l, a) :: post →
        ((∀ y ∈ pre, y.2.toNat % al = 0) → a.toNat % al ≠ 0 → TakesTrap cx s (Trap.at .alignment l a) (exec i s)) ∧
        (Reachable s cx.core .load (fun _ => u) (fun _ => al) (xs u) →
          (∀ y ∈ pre, ∀ b ∈ bytesOf y.2 u, races s cx.core cx.gang .load b = false) →
          (∃ b ∈ bytesOf a u, races s cx.core cx.gang .load b = true) → TakesTrap cx s (Trap.at .race l a) (exec i s)))

/-- Stores (13 R225): the low bytes of the data registers, whatever their tags (03 R59), little-endian, at each lane's address, the lanes in ascending order; every byte at any other place reads as before. In the lowest lane whose address is not aligned ALIGNMENT is raised, and where every access can be made, in the lowest lane that races, RACE (11 R214). The draw of a free choice and the translations kept in the TLBs are the model's (log 6); the bytes are written at issue (log 1). -/
def Obligations.Stores : Prop :=
  ∀ (s : State) (cx : Ctx) (v : BitVec 7) (sr : BitVec 6) (x : BitVec 7), s.ctx? = some cx →
    let xs := fun (u : Nat) => accesses cx (laneAddr cx sr x u)
    let bytes := fun (u : Nat) (val : Nat → Nat) => cx.ls.flatMap (fun l => placed (placesOf s cx.core (laneAddr cx sr x u l) u) (val l))
    let word := fun (i l : Nat) => (cx.g.raw (v.toNat + i) l).bits.toNat
    (StoreReady cx s v x 1 1 1 (xs 1) → StoreResult cx s (bytes 1 (word 0)) (exec (.stb v sr x 0) s)) ∧
    (StoreReady cx s v x 1 2 2 (xs 2) → StoreResult cx s (bytes 2 (word 0)) (exec (.sth v sr x 0) s)) ∧
    (StoreReady cx s v x 1 4 4 (xs 4) → StoreResult cx s (bytes 4 (word 0)) (exec (.stw v sr x 0) s)) ∧
    (StoreReady cx s v x 1 3 1 (xs 3) →
      StoreResult cx s (bytes 3 (fun l => (List.range 4).foldl (fun n i => n + word 0 l / 2 ^ (8 * i) % 2 ^ 6 * 2 ^ (6 * i)) 0))
        (exec (.stw v sr x 10) s)) ∧
    (v.toNat % 2 = 0 →
      (StoreReady cx s v x 2 8 8 (xs 8) →
        StoreResult cx s (bytes 8 (fun l => word 0 l + word 1 l * 2 ^ 32)) (exec (.std v sr x 0) s)) ∧
      (StoreReady cx s v x 4 16 8 (xs 16) →
        StoreResult cx s (bytes 16 (fun l => word 0 l + word 1 l * 2 ^ 32 + word 2 l * 2 ^ 64 + word 3 l * 2 ^ 96))
          (exec (.stq v sr x 0) s))) ∧
    (∀ (i : Instr) (u al k : Nat), (i, u, al, k) ∈ [(.stb v sr x 0, 1, 1, 1), (.sth v sr x 0, 2, 2, 1), (.stw v sr x 0, 4, 4, 1),
        (.std v sr x 0, 8, 8, 2), (.stq v sr x 0, 16, 8, 4)] →
      (8 ≤ u → v.toNat % 2 = 0) → v.toNat + k ≤ 128 → v.toNat + k ≤ 64 ∨ cx.g.ext ≠ none → x.toNat = 127 ∨ x.toNat < 64 ∨ cx.g.ext ≠ none →
      ∀ pre l a post, xs u = pre ++ (l, a) :: post →
        ((∀ y ∈ pre, y.2.toNat % al = 0) → a.toNat % al ≠ 0 → TakesTrap cx s (Trap.at .alignment l a) (exec i s)) ∧
        (Reachable s cx.core .store (fun _ => u) (fun _ => al) (xs u) →
          (∀ y ∈ xs u, ∀ p ∈ placesOf s cx.core y.2 u, p.plain = true) →
          (∀ y ∈ pre, ∀ b ∈ bytesOf y.2 u, races s cx.core cx.gang .store b = false) →
          (∃ b ∈ bytesOf a u, races s cx.core cx.gang .store b = true) → TakesTrap cx s (Trap.at .race l a) (exec i s)))

/-- SLD and SST (13 R227): one access of 1, 2, 4 or 8 bytes at s[S] plus the immediate, zero- or sign-extended into s[D], or the low bytes of s[D]; what SLD finds is what LoadValue says (11 R203). The draws of free choices and the translations kept in the TLBs are the model's (log 6); the data stand in s[D] at the issue, with the load still outstanding, and what orders a write before a load is read from the gang's acquires (log 1, 17, 107). -/
def Obligations.ScalarAccesses : Prop :=
  ∀ (s : State) (cx : Ctx) (d sr : BitVec 6) (f : BitVec 4), s.ctx? = some cx →
    let a := cx.g.sreg sr.toNat + (cx.imm).getD 0
    let w := 2 ^ (f.toNat % 4)
    (f.toNat < 7 → Accessible s cx.core cx.gang .load (fun _ => w) (fun _ => w) [(0, a)] → Intact s cx.core (fun _ => w) [(0, a)] →
      ∃ (t : State) (x : Nat) (y : W64) (io : Bool), exec (.sld d sr f) s = .next t ∧ SameMemory s t ∧ LoadValue cx s a w x ∧
        AccessFrame cx { s with past := t.past } t 131 { cx.g.setS d.toNat y with loads := cx.g.loads ++ [⟨d.toNat, 1, cx.sp.lanes, false, true, io⟩] } ∧
        ∀ k < 64, y.getLsbD k = if k < 8 * w then x.testBit k else (decide (4 ≤ f.toNat) && x.testBit (8 * w - 1))) ∧
    (f.toNat < 4 → Accessible s cx.core cx.gang .store (fun _ => w) (fun _ => w) [(0, a)] →
      (∀ p ∈ placesOf s cx.core a w, p.plain = true) →
      StoreResult cx s (placed (placesOf s cx.core a w) (cx.g.sreg d.toNat).toNat) (exec (.sst d sr f) s))

/-- Atomics (13 R228 to R232): every lane in turn reads the value at its address, writes the operation's result, and takes the old value; ABND writes only below its bound, ACAS only over its compare value. The operations of ATOM on 32-bit integers (13 R229, R230). A store of the host to its own memory may fall between two lanes (11 R198). The order of lanes with different addresses, the draw of a free choice and the TLBs are the model's (log 1, 6). That every lane's address is translated before the first lane is performed is the model's reading (log 33). -/
def Obligations.Atomics : Prop :=
  (∀ (s : State) (cx : Ctx) (v : BitVec 7) (sr : BitVec 6) (x : BitVec 7) (f : BitVec 4), s.ctx? = some cx →
      let a := fun (two : Bool) (l : Nat) => laneAddr cx sr x (atomicLaneOf cx v.toNat two l).bytes l
      (f.toNat < 11 →
        AtomicReady cx s v x false (f == 0 || f == 9)
          (fun t => if f.toNat < 9 then t == .b32 || t == .s32 || t == .n32 || t == .s64 || t == .n64
            else if f = 9 then decide (t.code ≤ 12) else t == .f32 || t == .f16x2 || t == .bf16x2) (a false) →
        AtomicResult cx s v false (fun l old => some (atomNew f.toNat l old)) (a false) (exec (.atom v sr x f) s)) ∧
      (AtomicReady cx s v x false false (fun t => t == .b32 || t == .s32 || t == .n32 || t == .s64 || t == .n64) (a false) →
        AtomicResult cx s v false (fun l old =>
          if (if l.tag.signed then intOf (8 * l.bytes) true old < intOf (8 * l.bytes) true l.x else old < l.x) then
            some ((old + 1) % 2 ^ (8 * l.bytes)) else none) (a false) (exec (.abnd v sr x) s)) ∧
      (AtomicReady cx s v x true true (fun t => decide (t.code ≤ 12)) (a true) →
        AtomicResult cx s v true (fun l old => if old = l.x then some l.y else none) (a true) (exec (.acas v sr x) s))) ∧
  (∀ (l : Nat) (t : Tag) (x : W32) (old : W32),
      let new := fun f => atomNew f ⟨l, false, t, x.toNat, 0⟩ old.toNat
      new 0 = (old + x).toNat ∧ new 1 = (old - x).toNat ∧ new 2 = (if x.slt old then x else old).toNat ∧
      new 3 = (if x < old then x else old).toNat ∧ new 4 = (if old.slt x then x else old).toNat ∧
      new 5 = (if old < x then x else old).toNat ∧ new 6 = (old &&& x).toNat ∧ new 7 = (old ||| x).toNat ∧
      new 8 = (old ^^^ x).toNat ∧ new 9 = x.toNat)

/-- Fences, IFENCE and PRF (13 R233 to R235): no byte of memory and no register changes; a fence changes the gang's release counts and vectors, the releases that its later atomics carry and what it has acquired, alone (log 107); IFENCE discards what the core has fetched, once the gang's stores and atomics are performed. That every earlier event has been performed at issue, and the TLBs that PRF fills, are the model's choice (log 1, 6). -/
def Obligations.FencesAndPrefetch : Prop :=
  ∀ (s : State) (cx : Ctx), s.ctx? = some cx →
    (∀ (sc : BitVec 3) (k : BitVec 2), sc.toNat < 6 → ∃ t rc a vr rf kn, exec (.fence sc k) s = .next t ∧ SameMemory s t ∧
      t = { s with cores := t.cores } ∧ Issued cx s { cx.g with rc := rc, acq := a, vr := vr, relFence := rf, know := kn } (t.gangAt cx.core cx.gang)) ∧
    (cx.g.atomicsOut = true → WaitsAt cx s .ifence (exec .ifence s)) ∧
    (cx.g.atomicsOut = false → ∃ t, exec .ifence s = .next t ∧ SameMemory s t ∧ (t.coreAt cx.core).ibuf = s.mem ∧
      t = { s with cores := t.cores } ∧ Issued cx s cx.g (t.gangAt cx.core cx.gang)) ∧
    (∀ (sr : BitVec 6) (x : BitVec 7) (f : BitVec 4), f.toNat < 3 → x.toNat = 127 ∨ x.toNat < 64 ∨ cx.g.ext ≠ none →
      ∃ t, exec (.prf sr x f) s = .next t ∧ SameMemory s t ∧ t = { s with cores := t.cores, tlb := t.tlb } ∧
        Issued cx s cx.g (t.gangAt cx.core cx.gang))

/-- Queries of default regions (15 R253 to R255): at a page that can be read PGENUM tells which of 64 pages are backed, PGSTAT the page's state, RGINFO a word of the region's descriptor (15 R238): BASE; DEFAULT; CHECK, SKIP, LOGW, DOMAIN, VALID, INDEX and PAGES; RESERVE and the free reserve on the page's die. Each gives 0 outside a region and at an address that is not a global virtual one; RGINFO has no word 4 to 63. PGENUM and PGSTAT raise INTEGRITY where the state of a page that they read cannot be corrected (15 R246), with the address moved to that page (log 82). The write operations that they show are those performed before (log 119); the draw of a free choice and the translations kept in the TLBs are the model's (log 6). -/
def Obligations.RegionQueries : Prop :=
  ∀ (s : State) (cx : Ctx) (d a w : BitVec 6), s.ctx? = some cx →
    let ad := cx.g.sreg a.toNat
    let gives := fun (r : Res) (z : W64) => ∃ t, r = .next t ∧ SameMemory s t ∧ AccessFrame cx s t 1 (cx.g.setS d.toNat z)
    (4 ≤ w.toNat → TakesTrap cx s (wordTrap cx .illegalInstruction) (exec (.rginfo w d a) s)) ∧
    ((∀ va, spaceOf ad ≠ .global va) → WritesScalar cx s d 0 (exec (.pgenum d a) s) ∧ WritesScalar cx s d 0 (exec (.pgstat d a) s) ∧
      (w.toNat < 4 → WritesScalar cx s d 0 (exec (.rginfo w d a) s))) ∧
    (∀ va, spaceOf ad = .global va → walkFault s cx.core .load ad = none →
      ((∀ i n o, placeOf s cx.core ad ≠ .page i n o) → (∀ pa, s.translate cx.core cx.wg.asid (va / 65536) ≠ .beyond pa) →
        gives (exec (.pgenum d a) s) 0 ∧ gives (exec (.pgstat d a) s) 0 ∧ (w.toNat < 4 → gives (exec (.rginfo w d a) s) 0)) ∧
      (∀ i n o (r : Region), placeOf s cx.core ad = .page i n o → SMap.get none s.regions i = some r →
        let bad := fun (k : Nat) => s.badPage (.page i (n + k) 0)
        let integrity := fun (k : Nat) => Trap.at .integrity (lowLane cx.en) (ad + BitVec.ofNat 64 (65536 * k))
        ((∀ k < 64, bad k = false) → ∃ e : W64,
          (∀ k < 64, e.getLsbD k = (decide (n + k < r.pages) && (s.backedAt i (n + k)).isSome)) ∧ gives (exec (.pgenum d a) s) e) ∧
        (∀ k < 64, bad k = true → (∀ j < k, bad j = false) → TakesTrap cx s (integrity k) (exec (.pgenum d a) s)) ∧
        (bad 0 = false → gives (exec (.pgstat d a) s) (BitVec.ofNat 64 (2 ^ 63 + i * 2 ^ 32 + (match s.backedAt i n with
          | some b => 2 ^ 12 + ((List.range 2048).filter (fun k => b.differs.getLsbD k)).length
          | none => 0)))) ∧
        (bad 0 = true → TakesTrap cx s (integrity 0) (exec (.pgstat d a) s)) ∧
        (w = 0 → gives (exec (.rginfo w d a) s) r.base) ∧
        (w = 1 → gives (exec (.rginfo w d a) s) r.default) ∧
        (w = 2 → gives (exec (.rginfo w d a) s) (BitVec.ofNat 64 (r.pages * 2 ^ 32 + i * 2 ^ 20 + 1 * 2 ^ 19 + r.domain.toNat * 2 ^ 4 +
          r.logw.toNat * 2 ^ 2 + r.skip.toNat * 2 + r.check.toNat))) ∧
        (w = 3 → gives (exec (.rginfo w d a) s) (BitVec.ofNat 64 ((r.freeOn (r.dieOf n)).length * 2 ^ 32 + r.reserve)))))

/-- Writes to default pages (15 R244, R247): a byte equal to the pattern leaves an unbacked page unbacked; another byte backs the page with a free frame filled with the pattern, and its sector's differs bit is set. So does a store (SST) and an atomic (ATOM, by one lane) that leaves a byte unlike the pattern; without a free frame BACKING_EXHAUSTED names the lane and its address, for an atomic whatever it would leave. The die of a page is an opaque constant (log 9), and the frame is the one that the model takes first (log 92); the draw of a free choice and the translations kept in the TLBs, which the clause of an SST of pattern bytes admits, are the model's (log 6). -/
def Obligations.DefaultPageWrites : Prop :=
  (∀ (s : State) (i n off : Nat) (b : Byte) (r : Region), SMap.get none s.regions i = some r → s.backedAt i n = none → off < 65536 →
    (b = r.pattern off → writeOp i n [(off, b)] [] s = (s, [], true)) ∧
    (∀ f s', b ≠ r.pattern off → takeFrame i (r.dieOf n) s = some (f, s') → ∃ t, writeOp i n [(off, b)] [] s = (t, [], true) ∧
      (∃ k : Backed, t.backedAt i n = some k ∧ k.frame = f ∧ k.differs = BitVec.ofNat 2048 (2 ^ (off / 32)) ∧ k.bad = false) ∧
      (∀ o < 65536, t.byteAt (.page i n o) = if o = off then b else r.pattern o) ∧
      (∀ pa, pa < f ∨ f + 65536 ≤ pa → SMap.get 0 t.mem pa = SMap.get 0 s.mem pa)) ∧
    (b ≠ r.pattern off → takeFrame i (r.dieOf n) s = none → (writeOp i n [(off, b)] [] s).2.2 = false)) ∧
  ∀ (s : State) (cx : Ctx) (i n off : Nat) (r : Region), s.ctx? = some cx → SMap.get none s.regions i = some r → s.backedAt i n = none →
    let page := fun (o : Nat) => Place.page i n o
    let on := fun (a : W64) (w : Nat) => placesOf s cx.core a w = (List.range w).map (fun k => page (off + k)) ∧
      off % w = 0 ∧ off + w ≤ 65536
    let reads := fun (w x : Nat) (t : State) => ∀ o < 65536, t.byteAt (page o) =
      lastWrite (placed ((List.range w).map (fun k => page (off + k))) x) (page o) (r.pattern o)
    let backs := fun (f : Nat) (t : State) =>
      (∃ k : Backed, t.backedAt i n = some k ∧ k.frame = f ∧ k.differs = BitVec.ofNat 2048 (2 ^ (off / 32)) ∧ k.bad = false) ∧
      ∀ pa, pa < f ∨ f + 65536 ≤ pa → SMap.get 0 t.mem pa = SMap.get 0 s.mem pa
    (∀ (d sr : BitVec 6) (f4 : BitVec 4) (a : W64), f4.toNat < 4 → a = cx.g.sreg sr.toNat + (cx.imm).getD 0 → on a (2 ^ f4.toNat) →
      Accessible s cx.core cx.gang .store (fun _ => 2 ^ f4.toNat) (fun _ => 2 ^ f4.toNat) [(0, a)] →
      let x := (cx.g.sreg d.toNat).toNat
      let same := ∀ k < 2 ^ f4.toNat, byteOf x k = r.pattern (off + k)
      (same → StoreResult cx s [] (exec (.sst d sr f4) s)) ∧
      (∀ f s', ¬same → takeFrame i (r.dieOf n) s = some (f, s') → ∃ t q m, exec (.sst d sr f4) s = .next t ∧
        reads (2 ^ f4.toNat) x t ∧ backs f t ∧ Issued cx s { cx.g with syncDue := q, sinceSync := m } (t.gangAt cx.core cx.gang)) ∧
      (¬same → takeFrame i (r.dieOf n) s = none → TakesTrap cx s (Trap.at .backingExhausted 0 a) (exec (.sst d sr f4) s))) ∧
    (∀ (v x : BitVec 7) (sr : BitVec 6) (f4 : BitVec 4) (l : Nat), cx.ls = [l] → f4.toNat < 10 →
      let op := atomicLaneOf cx v.toNat false l
      let a := fun (j : Nat) => laneAddr cx sr x (atomicLaneOf cx v.toNat false j).bytes j
      on (a l) op.bytes →
      AtomicChecked cx s v x false (f4 == 0 || f4 == 9) (fun t => if f4.toNat < 9 then t == .b32 || t == .s32 || t == .n32 || t == .s64 || t == .n64
        else decide (t.code ≤ 12)) a →
      let old := s.readNum cx.core (a l) op.bytes
      (∀ f s', takeFrame i (r.dieOf n) s = some (f, s') → ∃ t, exec (.atom v sr x f4) s = .next t ∧
        reads op.bytes (atomNew f4.toNat op old) t ∧
        ((∃ k < op.bytes, byteOf (atomNew f4.toNat op old) k ≠ r.pattern (off + k)) → backs f t) ∧
        ((∀ k < op.bytes, byteOf (atomNew f4.toNat op old) k = r.pattern (off + k)) → t.backedAt i n = none ∧ t.mem = s.mem) ∧
        (t.gangAt cx.core cx.gang).cell v.toNat l = written (BitVec.ofNat 32 old) op.tag ∧
        (t.gangAt cx.core cx.gang).splits = cx.g.splits.set cx.split (cx.advanced s cx.g)) ∧
      (takeFrame i (r.dieOf n) s = none → TakesTrap cx s (Trap.at .backingExhausted l (a l)) (exec (.atom v sr x f4) s)))

/-! ### Prefixes -/

/-- Prefixes (05 R97 to R102): a prefix in order, admitted by the instruction of its group, is held for that instruction, with the first word of its group; nothing else changes but the split's place: no latch is lost. The immediate is the 24 bits of IMM, or those of IMM2 and IMM, sign-extended. That a prefix its instruction does not admit traps at the prefix word, so that admission is a hypothesis here, is the model's reading (log 28). -/
def Obligations.PrefixesAreHeld : Prop :=
  (∀ (p : Pfx) (a b : BitVec 24), p.imm = some a →
    (p.imm2 = none → ∃ x, p.immediate = some x ∧ x.toInt = a.toInt) ∧
    (p.imm2 = some b → ∃ x, p.immediate = some x ∧ x.toInt = b.toInt * 2 ^ 24 + a.toNat)) ∧
  ∀ (s : State) (cx : Ctx), s.ctx? = some cx →
    let held := fun (k : PKind) (i : Instr) (stall : Nat) (p : Pfx) => inOrder cx.pfx k = true → admitted s cx k = true →
      ∃ t, exec i s = .next t ∧ SameMemory s t ∧ t = s.setGang cx.core cx.gang { cx.g with
        splits := cx.g.splits.set cx.split (Split.step cx.g { cx.sp with
          pfx := SMap.set none cx.sp.pfx cx.key (some p), lastIssue := cx.sp.stamped cx.g cx.plane (cx.now s), stall := stall } cx.plane),
        lastIssue := cx.now s }
    let p := fun (k : PKind) => { cx.pfx.getD (Pfx.fresh cx.sp.pc) with kinds := (cx.pfx.getD (Pfx.fresh cx.sp.pc)).kinds ++ [k] }
    (∀ i, held .imm (.imm i) cx.sp.stall { p .imm with last := 2, imm := some i }) ∧
    (∀ i, held .imm2 (.imm2 i) cx.sp.stall { p .imm2 with last := 3, imm2 := some i }) ∧
    (∀ st cl na nb aa ab nr e m, ∃ w : BitVec 24, held .mod (.mod st cl na nb aa ab nr e m) cx.sp.stall { p .mod with last := 4, mod_ := some w } ∧
      ModF.of w = ⟨st == 1, cl == 1, na == 1, nb == 1, aa == 1, ab == 1, nr == 1, e.toInt, m.toNat⟩) ∧
    (∀ j, held .join (.hintJoin j) cx.sp.stall { p .join with last := 1, join := some j }) ∧
    (∀ n, held .stall (.hintStall n) (cx.now s + n.toNat) { p .stall with last := 0, stall := true }) ∧
    (∀ a b, held .reuse (.hintReuse a b) cx.sp.stall { p .reuse with last := 0, reuse := true }) ∧
    (∀ g, held .trace (.hintTrace g) cx.sp.stall { p .trace with last := 0, trace := some g }) ∧
    (∀ o sc : BitVec 3, 1 ≤ o.toNat → o.toNat ≤ 4 → sc.toNat ≤ 5 →
      held .ord (.hintOrd o sc) cx.sp.stall { p .ord with last := 0, ord := some (o, sc) })

/-! ### The matrix engine -/

/-- Matrix commands and operand maps (17 R257 to R259, R271 to R275): with valid maps and operands, a COLLECTIVE gang of the role MATRIX queues the command; its number, the pending tag of its tile, the counter c2 and the record that MSTEP reads change, nothing else. With eight commands queued the word has no effect yet, and in a workgroup that ends its command is discarded (21 R340). OPMAP loads 32 bytes into an operand map, as a load finds them, byte by byte (log 107). In a gang of another role every matrix instruction raises ROLE, and where it is not collective COLLECTIVE_ISSUE, before any other check (01 R21, R22, 17 R258). That a word with the queue full has no effect yet is the model's form of the wait (log 61); the draw of a free choice and the translations that OPMAP leaves in the TLBs are the model's too (log 6). -/
def Obligations.MatrixCommands : Prop :=
  (∀ (s : State) (cx : Ctx), s.ctx? = some cx →
    let stops := fun (r : Res) => (cx.g.role ≠ .matrix → TakesTrap cx s (Trap.plain .role) r) ∧
      (cx.g.role = .matrix → ¬Collective cx → TakesTrap cx s (Trap.plain .collectiveIssue) r)
    (∀ c a b z o k, stops (exec (.mma c a b z o k) s) ∧ stops (exec (.mmas c a b z o k) s) ∧ stops (exec (.mmac c a b z o k) s)) ∧
    (∀ c x n a, stops (exec (.accz c x) s) ∧ stops (exec (.accld c n) s) ∧ stops (exec (.accst c n) s) ∧ stops (exec (.opmap n a) s)) ∧
    (∀ f p, stops (exec (.accrd f p) s) ∧ stops (exec (.accwr f p) s)) ∧
    ∀ w d : BitVec 6, w.toNat < 3 → stops (exec (.mstep w d) s)) ∧
  ∀ (s : State) (cx : Ctx), s.ctx? = some cx → cx.g.role = .matrix → Collective cx →
    let queued := fun (pend : Option Tag) (rec : Option MRec) (ok : MatCmd → Prop) (r : Res) =>
      (cx.wg.ending = true → Retires cx s cx.g r) ∧
      (cx.wg.ending = false → 8 ≤ cx.wg.mq.length → r = .next s) ∧
      (cx.wg.ending = false → cx.wg.mq.length < 8 → ∃ c : MatCmd, ok c ∧ c.gang = cx.gang ∧ c.state = .queued ∧ c.serial = SMap.get 0 cx.wg.serials 3 ∧
        c.blame = cx.g.blame ∧ c.top = cx.g.top ∧ c.counters = [] ∧ c.done = 0 ∧ c.flags = 0 ∧
        RetiresWg cx s
          { cx.wg with pendTag := (pend.elim cx.wg.pendTag (fun t => SMap.set .b32 cx.wg.pendTag c.acc t)), mq := cx.wg.mq ++ [c],
                       serials := SMap.set 0 cx.wg.serials 3 ((c.serial + 1) % 2 ^ 16),
                       mmacs := if c.kind = .mmac then cx.wg.mmacs + 1 else cx.wg.mmacs }
          { cx.g with c := SMap.set 0 cx.g.c 2 (SMap.get 0 cx.g.c 2 + 1), cIssued := SMap.set 0 cx.g.cIssued 2 (SMap.get 0 cx.g.cIssued 2 + 1),
                      mrec := rec.getD cx.g.mrec } r)
    let map := fun (n : Nat) => SMap.get 0 cx.g.om n
    let product := fun (kind : MatKind) (code : Nat) (c : BitVec 1) (a b : BitVec 2) (z : BitVec 1) (o k : BitVec 6) (r : Res) =>
      let ma := map a.toNat
      let mb := map (b.toNat + 4)
      let n := (cx.g.sreg k.toNat).toNat
      let k0 := (cx.g.sreg o.toNat).toNat
      ∀ t : Tag, 1 ≤ n → n ≤ 512 → k0 ≤ 8190 → mpRows ma ≠ 0 → mpRows mb ≠ 0 → mpMaj ma = 0 → (mpFmt mb = 0 → mpMaj mb = 0) →
        (kind = .mmac → cx.wg.cluster = true) → pairTag (mpFmt ma) (mpFmt mb) = some t →
        (z = 1 ∨ SMap.get .b32 cx.wg.pendTag c.toNat = .b32 ∨ SMap.get .b32 cx.wg.pendTag c.toNat = t) →
        (mpFmt ma = 0 → (∀ x ∈ [mpRows ma, mpCols ma, mpRows mb, mpCols mb, n, k0], x % 128 = 0) ∧
          (mpScale ma).toNat % 512 = 0 ∧ (mpScale mb).toNat % 512 = 0) →
        (∀ m ∈ [ma, mb], mpFmt m = 0 ∨ ((mpBase m).toNat % fmtSize (mpFmt m) = 0 ∧ mpStride m % fmtSize (mpFmt m) = 0)) →
        (kind = .mmas → (mpBitmap ma).toNat % 8 = 0 ∧ (mpBitmap mb).toNat % 8 = 0) →
        queued (some t) (some ⟨code, c.toNat, 1, 0, 0, [], n⟩) (fun x => x.kind = kind ∧ x.acc = c.toNat ∧ x.mapA = ma ∧ x.mapB = mb ∧
          x.z = decide (z = 1) ∧ x.k = n ∧ x.k0 = k0 ∧ x.tag = t) r
    (∀ c a b z o k, product .mma 0 c a b z o k (exec (.mma c a b z o k) s)) ∧
    (∀ c a b z o k, product .mmas 1 c a b z o k (exec (.mmas c a b z o k) s)) ∧
    (∀ c a b z o k, product .mmac 2 c a b z o k (exec (.mmac c a b z o k) s)) ∧
    (∀ c sg : BitVec 1, queued (some (if sg = 1 then .s32 else .f32)) none
      (fun x => x.kind = .accz ∧ x.acc = c.toNat ∧ x.tag = if sg = 1 then .s32 else .f32) (exec (.accz c sg) s)) ∧
    (∀ (c : BitVec 1) (n : BitVec 3), mpRows (map n.toNat) ≠ 0 → (mpFmt (map n.toNat) = 5 ∨ mpFmt (map n.toNat) = 6) →
      (mpBase (map n.toNat)).toNat % 4 = 0 → mpStride (map n.toNat) % 4 = 0 →
      queued (some (if mpFmt (map n.toNat) = 5 then .f32 else .s32)) none (fun x => x.kind = .accld ∧ x.acc = c.toNat ∧
        x.mapA = map n.toNat ∧ x.tag = if mpFmt (map n.toNat) = 5 then .f32 else .s32) (exec (.accld c n) s)) ∧
    (∀ (c : BitVec 1) (n : BitVec 3) (t : Tag), t = SMap.get .b32 cx.wg.pendTag c.toNat → mpRows (map n.toNat) ≠ 0 →
      ((t = .f32 ∧ mpFmt (map n.toNat) ∈ [5, 1, 2]) ∨ (t = .s32 ∧ mpFmt (map n.toNat) ∈ [6, 3, 4]) ∨
        (t = .b32 ∧ mpFmt (map n.toNat) ∈ [5, 6])) →
      (mpBase (map n.toNat)).toNat % fmtSize (mpFmt (map n.toNat)) = 0 → mpStride (map n.toNat) % fmtSize (mpFmt (map n.toNat)) = 0 →
      queued none none (fun x => x.kind = .accst ∧ x.acc = c.toNat ∧ x.mapA = map n.toNat ∧ x.tag = t) (exec (.accst c n) s)) ∧
    (∀ (n : BitVec 3) (a : BitVec 6) (m : BitVec 256), let x := cx.g.sreg a.toNat
      Accessible s cx.core cx.gang .load (fun _ => 32) (fun _ => 32) [(lowLane cx.en, x)] →
      Intact s cx.core (fun _ => 32) [(lowLane cx.en, x)] → m = BitVec.ofNat 256 (s.loadNum cx.core cx.gang 0 x 32) →
      LoadValue cx s x 32 m.toNat ∧ (mpFmt m ≠ 7 → m.getLsbD 26 = false → m.getLsbD 27 = false → mpRows m ≠ 0 → mpCols m ≠ 0 →
      ∃ t, exec (.opmap n a) s = .next t ∧ SameMemory s t ∧
        AccessFrame cx { s with past := t.past } t 163 { cx.g with om := SMap.set 0 cx.g.om n.toNat m }))

/-- Tile elements and MSTEP (17 R276, R277): with no earlier command queued, position q of the selection is lane q of the first register, or lane q − L of the second; behind earlier commands the split waits, and its reply does the same once they have retired. An element whose error cannot be corrected raises INTEGRITY in the reader (11 R216). MSTEP reads a word of the last product's record. Which of the allowed values MSTEP reads of a running command is a free choice, and the statement is of a gang with no product queued (log 24). -/
def Obligations.TileElements : Prop :=
  (∀ (s : State) (cx : Ctx), s.ctx? = some cx → cx.g.role = .matrix → Collective cx → cx.wg.kernel.slices ≤ 8 →
    let n := 4 * cx.wg.kernel.slices
    let next := SMap.get 0 cx.wg.serials 3
    let tile := fun (x : W64) => x.toNat / 2 ^ 16 % 2
    let wrong := s.wrongElement cx.core
    (∀ (f p : BitVec 6) (x : W64), x = cx.g.sreg p.toNat → SelectionLegal x n → f.toNat < 32 ∨ cx.g.ext ≠ none →
      (cx.wg.behind next = true → WaitsAt cx s (.accElems false (2 * f.toNat) x next) (exec (.accrd f p) s)) ∧
      (cx.wg.behind next = false → (∃ q < 2 * n, wrong x q = true) →
        ∃ l a, TakesTrap cx s (Trap.at .integrity l a) (exec (.accrd f p) s)) ∧
      (cx.wg.behind next = false → (∀ q < 2 * n, wrong x q = false) → WritesCells cx s 0 (fun rg l =>
        if rg = 2 * f.toNat then some (s.element cx.core x l, cx.wg.tag (tile x))
        else if rg = 2 * f.toNat + 1 then some (s.element cx.core x (n + l), cx.wg.tag (tile x))
        else none) (exec (.accrd f p) s)) ∧
      (∀ t : Tag, (t = .f32 ∨ t = .s32) → OneTag cx (2 * f.toNat) 2 t → RegsReadable cx (2 * f.toNat) 2 →
        (cx.wg.pending (tile x) = t ∨ cx.wg.pending (tile x) = .b32) →
        (cx.wg.behind next = true → ∃ t', exec (.accwr f p) s = .next t' ∧ SameMemory s t' ∧ (t'.wgAt cx.core).pending (tile x) = t ∧
          IssuedAs cx s (cx.waiting s (.accElems true (2 * f.toNat) x next)) cx.g (t'.gangAt cx.core cx.gang)) ∧
        (cx.wg.behind next = false → ∃ t', exec (.accwr f p) s = .next t' ∧ t' = { s with cores := t'.cores } ∧
          (∀ c, c ≠ cx.core → t'.coreAt c = s.coreAt c) ∧ Issued cx s cx.g (t'.gangAt cx.core cx.gang) ∧
          (t'.wgAt cx.core).pending (tile x) = t ∧ ElementsWritten s t' cx.core cx.gang (2 * f.toNat) n x t))) ∧
    (∀ w d : BitVec 6, w.toNat < 3 → (∀ c ∈ cx.wg.mq, c.gang = cx.gang → c.isProduct = false) →
      ∃ g', exec (.mstep w d) s = .next { s.setGang cx.core cx.gang g' with free := s.free + 16 } ∧
        Issued cx s (cx.g.setS d.toNat (BitVec.ofNat 64 (cx.g.mrec.word w.toNat))) g')) ∧
  (∀ (s : State) (core gang : Nat) (sp : Split) (wr : Bool) (r k : Nat) (x : W64), (s.gangAt core gang).splits = [sp] →
    sp.wait = .accElems wr r x k → (s.gangAt core gang).canRelease sp = true → (s.wgAt core).behind k = false →
    (s.wgAt core).kernel.slices ≤ 8 →
    let n := 4 * (s.wgAt core).kernel.slices
    let g := s.gangAt core gang
    let tag := (s.wgAt core).tag (x.toNat / 2 ^ 16 % 2)
    let replies := fun (keep : State → Prop) => ∃ t, exec (.synchronousReply core gang) s = .next t ∧ keep t
    (wr = false → (∃ q < 2 * n, s.wrongElement core x q = true) → replies (fun t => SameMemory s t ∧ SameRegisters s t ∧
      ∃ v, (t.gangAt core gang).service = some v ∧ v.cause = .integrity ∧ v.pc = sp.waitFirst)) ∧
    (wr = false → (∀ q < 2 * n, s.wrongElement core x q = false) → replies (fun t => SameMemory s t ∧ GoesOn s t core gang 0 ∧
      (∀ c m, (c, m) ≠ (core, gang) → t.gangAt c m = s.gangAt c m) ∧ (t.gangAt core gang).s = g.s ∧ (t.gangAt core gang).p = g.p ∧
      ∀ rg < 128, ∀ l < 32, (t.gangAt core gang).cell rg l =
        if l < n ∧ rg = r then written (s.element core x l) tag
        else if l < n ∧ rg = r + 1 then written (s.element core x (n + l)) tag else g.cell rg l)) ∧
    (wr = true → SelectionLegal x n → replies (fun t => GoesOn s t core gang 0 ∧ SameRegisters s t ∧
      ElementsWritten s t core gang r n x (g.cell r 0).tag)))

/-- The matrix engine (17 R268 to R275): a queued command at the head starts, with its tag and under Z a tile of zeros; an MMAC with those of its number on the four cores of its node. A command that meets no fault retires, and the gang's c2 falls by one; one that meets faults stops, and each panel that meets neither a fault nor a shared fetch of a stopped rank has finished. The tile of an S8 or N8 product holds the wrapped sum of the old value and the products formed; that of an F16 or BF16 product adds the exact sum of each group of four positions, rounded to F32, to the old value, and that of an L6 product the exact sum of each block of 32, under its two scales (03 R72 to R76). An infinity or a NaN of a group meets the accumulator as log 74 says. That a command's panels advance to their faults or to their end in one step is the model's (log 35, 55), and so are the bytes that a position fetches and the wait of the ranks of an MMAC (log 84, 85). What a command reads is what a load may find that knows what its gang knew at the issue (11 R203, R205; log 107). -/
def Obligations.MatrixEngine : Prop :=
  ∀ (s : State) (core : Nat) (c : MatCmd) (rest : List MatCmd), (s.wgAt core).mq = c :: rest → (s.coreAt core).wg ≠ none →
    let tile := fun (t : State) (a i j : Nat) => SMap.get 0 (t.coreAt core).store.acc (16384 * a + 128 * i + j)
    let same := fun (t : State) => ∀ q : Place, q.onChip = false → t.byteAt q = s.byteAt q
    let retired := fun (t : State) => (t.wgAt core).mq = rest ∧
      SMap.get 0 (t.gangAt core c.gang).c 2 = SMap.get 0 (s.gangAt core c.gang).c 2 - 1 ∧
      (∀ n, (t.gangAt core n).v = (s.gangAt core n).v ∧ (t.gangAt core n).s = (s.gangAt core n).s ∧
        ((∀ sp ∈ (s.gangAt core n).splits, ∀ m, sp.wait ≠ .cwait 2 m) → (t.gangAt core n).splits = (s.gangAt core n).splits))
    (c.state = .queued → (s.wgAt core).preempt = false → c.kind = .mmac → (s.members core).length = 4 →
      (∀ m ∈ s.members core, ∃ d r, (s.wgAt m).mq = d :: r ∧ d.kind = .mmac ∧ d.mmacNo = c.mmacNo ∧ d.state = .queued ∧ elemsFirst s m d = false) →
      elemsFirst s core c = false → ∃ t, exec (.matrixCommandStart core) s = .next t ∧ same t ∧ t = { s with cores := t.cores } ∧
        ∀ m ∈ s.members core, ∀ d r, (s.wgAt m).mq = d :: r → (t.wgAt m).mq = { d with state := .running } :: r ∧
          (t.wgAt m).tag d.acc = d.tag ∧ ∀ a i j, i < 128 → j < 128 → SMap.get 0 (t.coreAt m).store.acc (16384 * a + 128 * i + j) =
            if d.z = true ∧ a = d.acc then 0 else SMap.get 0 (s.coreAt m).store.acc (16384 * a + 128 * i + j)) ∧
    (c.state = .queued → (s.wgAt core).preempt = false → c.kind ≠ .mmac → elemsFirst s core c = false → ∃ t, exec (.matrixCommandStart core) s = .next t ∧ same t ∧
      t = { s with cores := t.cores } ∧ (t.wgAt core).mq = { c with state := .running } :: rest ∧
      (t.wgAt core).tag c.acc = (if c.kind = .accst then (s.wgAt core).tag c.acc else c.tag) ∧
      (∀ a i j, i < 128 → j < 128 → tile t a i j = if c.z = true ∧ a = c.acc then 0 else tile s a i j)) ∧
    (c.state = .running → matrixFaults s core c = [] → matrixBeyond s core c = none →
      (c.kind = .accz → ∃ t, exec (.matrixCommandRetire core) s = .next t ∧ same t ∧ retired t ∧
        ∀ a i j, i < 128 → j < 128 → tile t a i j = if a = c.acc then 0 else tile s a i j) ∧
      (c.kind = .accld → ∃ t, exec (.matrixCommandRetire core) s = .next t ∧ same t ∧ retired t ∧
        ∀ a i j, i < 128 → j < 128 → tile t a i j = if a = c.acc then
          (if i < mpRows c.mapA ∧ j < mpCols c.mapA then BitVec.ofNat 32 (s.engineNum core c.know (tAddr c.mapA i j) 4) else 0) else tile s a i j) ∧
      (c.kind = .accst → (∀ w ∈ storeWrites s core c, w.1.plain = true) → ∃ t, exec (.matrixCommandRetire core) s = .next t ∧ retired t ∧
        (∀ a i j, i < 128 → j < 128 → tile t a i j = tile s a i j) ∧
        ∀ q : Place, q.plain = true → t.byteAt q = lastWrite ((storeWrites s core c).map (fun w => (w.1, w.2.1))) q (s.byteAt q)) ∧
      (c.isProduct = true → matrixWaits s core c = false → ∃ t, exec (.matrixCommandRetire core) s = .next t ∧ same t ∧ retired t ∧
        let v := MEnv.of s core c
        let ks := (List.range c.k).map (fun d => c.k0 + d)
        let unit := fun (n i j u : Nat) => v.formed s i j (ks.filter (fun k => k / n == u))
        let units := fun (n : Nat) => List.range ((c.k0 + c.k) / n + 1)
        let read := s.engineNum core c.know
        let code := fun (r : W64 × Nat) (k : Nat) => bitsAt (read r.1 r.2) (6 * (k % 32) % 8) 6
        (∀ a i j, i < 128 → j < 128 → a ≠ c.acc ∨ ¬(v.ro + i < mpRows c.mapA ∧ v.co + j < mpCols c.mapB) → tile t a i j = tile s a i j) ∧
        (∀ i j, i < 128 → j < 128 → v.ro + i < mpRows c.mapA → v.co + j < mpCols c.mapB → c.done = 0 → c.counters = [] →
          3 ≤ mpFmt c.mapA → (tile t c.acc i j).toInt = ((tile s c.acc i j).toInt +
            ((v.formed s i j ks).map (fun k =>
              intOf 8 (mpFmt c.mapA == 3) (read (v.aBytes i k).1 1) * intOf 8 (mpFmt c.mapB == 3) (read (v.bBytes j k).1 1))).sum).bmod (2 ^ 32)) ∧
        (∀ i j, i < 128 → j < 128 → v.ro + i < mpRows c.mapA → v.co + j < mpCols c.mapB → c.done = 0 → c.counters = [] →
          (∀ f : FFmt, (mpFmt c.mapA = 1 ∧ f = fF16) ∨ (mpFmt c.mapA = 2 ∧ f = fBF16) →
            tile t c.acc i j = BitVec.ofNat 32 ((units 4).foldl (fun acc u => match unit 4 i j u with
              | [] => acc
              | ps => (addBits fF32 .rne acc (match (sumValues (ps.map (fun k =>
                    ((f.decode (read (v.aBytes i k).1 2)).mul (f.decode (read (v.bBytes j k).1 2))).1))).1 with
                  | .num d _ => (roundDyadic fF32 .rne false d).1
                  | x => (x.round fF32 .rne).1)).1) (tile s c.acc i j).toNat)) ∧
          (mpFmt c.mapA = 0 →
            tile t c.acc i j = BitVec.ofNat 32 ((units 32).foldl (fun acc u => match unit 32 i j u with
              | [] => acc
              | k :: r =>
                let ea := read (v.aScale i k) 1
                let eb := read (v.bScale j k) 1
                if ea = 0xFF ∨ eb = 0xFF ∨ (fF32.decode acc).isNan = true then fF32.nan
                else (addBits fF32 .rne acc (roundDyadic fF32 .rne false
                  ⟨((k :: r).map (fun k => l6Product (code (v.aBytes i k) k) (code (v.bBytes j k) k))).sum, (ea : Int) + eb - 277⟩).1).1)
              (tile s c.acc i j).toNat))))) ∧
    (∀ (a : W64) (n : Nat), EngineValue s core c.know a n (s.engineNum core c.know a n)) ∧
    (c.state = .running → matrixFaults s core c ≠ [] → ∃ t c', exec (.matrixFetchFault core) s = .next t ∧ same t ∧
      (t.wgAt core).mq = c' :: rest ∧ c'.state = .faulted ∧ c'.services = c.services + 1 ∧ c'.faults = matrixFaults s core c ∧
      (c.isProduct = true → ∀ p < 16, c'.done.getLsbD p = ((MEnv.of s core c).firstStop s p).isNone))

/-! ### The copy engine -/

/-- CPY, GATH and SCAT (19 R279 to R290): GATH and SCAT queue a command from the descriptor at s[D]; a CPY of a later sequence number waits, one of an earlier raises ILLEGAL_OPERAND, and one of the expected number waits until every live COPY gang has issued the CPY of that number. The last of them forms one command, whose parts are the gangs' slices of the blocks, each covered once; it counts in every gang's c0, and every gang goes on. A ring target captures the filling slot at PROD. In a workgroup that ends, a GATH or a SCAT is discarded and no CPY forms (21 R340), nor in one that is to be pre-empted (21 R331). The descriptor is read as a load reads it, and the command keeps what its gang knew (log 107). In a gang of another role they raise ROLE, and a CPY that is not collective COLLECTIVE_ISSUE (01 R21, R22). That a word with the queue full has no effect yet is the model's form of the wait (log 61); the draw of a free choice and the TLBs are the model's too (log 6). The form of the ring error's TRAPA is the model's (log 41), and so is which of the waiting gangs has completed a formation (log 79). -/
def Obligations.CopyCommands : Prop :=
  ∀ (s : State) (cx : Ctx) (k : BitVec 2) (i : BitVec 4), s.ctx? = some cx → k ≠ 3 → (k = 0 → i = 0) → (k = 2 → i.toNat < 4) →
    (∀ r l q : BitVec 6, (cx.g.role ≠ .copy → TakesTrap cx s (Trap.plain .role) (exec (.gath k i r l) s) ∧
        TakesTrap cx s (Trap.plain .role) (exec (.scat k i r l) s) ∧ TakesTrap cx s (Trap.plain .role) (exec (.cpy k i r l q) s)) ∧
      (cx.g.role = .copy → ¬Collective cx → TakesTrap cx s (Trap.plain .collectiveIssue) (exec (.cpy k i r l q) s)) ∧
      (cx.g.role = .copy → Collective cx → (cx.g.sreg q.toNat).toNat < cx.wg.cpySeq.toNat →
        TakesTrap cx s (wordTrap cx .illegalOperand) (exec (.cpy k i r l q) s))) ∧
    (cx.g.role = .copy → SMap.wf Core.empty s.cores = true →
    let ring := cx.wg.ring i.toNat
    (k = 2 → ring.slots ≠ 0 ∧ (ring.at ring.prod).st = .filling) →
    let target : Target := if k = 1 then .barrier i.toNat else if k = 2 then .ring i.toNat ring.prod else .none
    let rings := if k = 2 then SMap.set Ring.zero cx.wg.rings i.toNat { ring with prod := (ring.prod + 1) % ring.slots } else cx.wg.rings
    let others := fun (t : State) (n : Nat) => t = { s with cores := t.cores, tlb := t.tlb, free := s.free + 131 + n, traces := t.traces, past := t.past } ∧
      (t.wgAt cx.core).rings = rings
    let counted := fun (g : Gang) (j : Nat) => { g with c := SMap.set 0 g.c j (SMap.get 0 g.c j + 1),
                                                        cIssued := SMap.set 0 g.cIssued j (SMap.get 0 g.cIssued j + 1) }
    (∀ (d b : BitVec 6) (desc : BitVec 512), let a := cx.g.sreg d.toNat
      Accessible s cx.core cx.gang .load (fun _ => 32) (fun _ => 32) [(lowLane cx.en, a)] →
      Intact s cx.core (fun _ => 32) [(lowLane cx.en, a)] → desc = BitVec.ofNat 512 (s.loadNum cx.core cx.gang 0 a 32) →
      LoadValue cx s a 32 desc.toNat ∧ (gdIllegal desc = false → gdMisaligned desc = false →
      ∀ (kind : CopyKind) (r : Res), (kind, r) ∈ [(CopyKind.gath, exec (.gath k i d b) s), (CopyKind.scat, exec (.scat k i d b) s)] →
        (cx.wg.ending = true → ∃ t, r = .next t ∧ SameMemory s t ∧ AccessFrame cx { s with past := t.past } t 163 cx.g) ∧
        (cx.wg.ending = false → 32 ≤ cx.wg.cq.length → r = .next s) ∧
        (cx.wg.ending = false → cx.wg.cq.length < 32 → ∃ t c q m, r = .next t ∧ SameMemory s t ∧ others t 32 ∧
          (∀ c n, (c, n) ≠ (cx.core, cx.gang) → t.gangAt c n = s.gangAt c n) ∧
          Issued cx s { counted cx.g 1 with syncDue := q, sinceSync := m } (t.gangAt cx.core cx.gang) ∧
          (t.wgAt cx.core).cq = cx.wg.cq ++ [c] ∧
          c.kind = kind ∧ c.target = target ∧ c.desc = desc ∧ c.bias = cx.g.sreg b.toNat ∧ c.gang = cx.gang ∧
          c.serial = SMap.get 0 cx.wg.serials 2 ∧ c.blame = cx.g.blame ∧ c.top = cx.g.top ∧ c.state = .queued ∧
          c.know = knowOf s cx.core cx.gang))) ∧
    (∀ (r l q : BitVec 6), Collective cx → cx.gang ∈ cx.wg.copyGangs →
      let n := cx.g.sreg q.toNat
      let a := cx.g.sreg r.toNat
      let cover := cx.g.sreg l.toNat
      let wait : Wait := .forming a cover n k.toNat i.toNat
      (cx.wg.cpySeq.toNat < n.toNat → WaitsAt cx s wait (exec (.cpy k i r l q) s)) ∧
      (n = cx.wg.cpySeq → (cx.wg.ending = true ∨ cx.wg.preempt = true ∨ ∃ h ∈ cx.wg.copyGangs, h ≠ cx.gang ∧
          ∀ sp ∈ (s.gangAt cx.core h).splits, ∀ r l j ix, sp.wait ≠ .forming r l cx.wg.cpySeq j ix) →
        ∃ g', exec (.cpy k i r l q) s = .next ((s.setWg cx.core { cx.wg with cpyLast := cx.gang }).setGang cx.core cx.gang g') ∧
          IssuedAs cx s (cx.waiting s wait) cx.g g') ∧
      (∀ (d : BitVec 512) (part : Nat → W64), n = cx.wg.cpySeq → cx.wg.ending = false → cx.wg.cq.length < 32 → cx.sp.stopped = false → part cx.gang = cover →
        (∀ h ∈ cx.wg.copyGangs, h ≠ cx.gang → ∃ sp, (s.gangAt cx.core h).splits = [sp] ∧ sp.stopped = false ∧
          sp.wait = .forming a (part h) n k.toNat i.toNat) →
        Accessible s cx.core cx.gang .load (fun _ => 64) (fun _ => 64) [(0, a)] → Intact s cx.core (fun _ => 64) [(0, a)] →
        d = BitVec.ofNat 512 (s.loadNum cx.core cx.gang 0 a 64) → cx.wg.preempt = false → lyIllegal d = false → lyMisaligned d = false →
        let first := fun (h : Nat) => (part h).toNat % 2 ^ 32
        let count := fun (h : Nat) => (part h).toNat / 2 ^ 32
        (cx.wg.copyGangs.map count).sum = lyBlocks d → (∀ h ∈ cx.wg.copyGangs, count h = 0 ∨ first h + count h ≤ lyBlocks d) →
        (∀ h ∈ cx.wg.copyGangs, ∀ h' ∈ cx.wg.copyGangs, h ≠ h' → count h = 0 ∨ count h' = 0 ∨ first h + count h ≤ first h' ∨
          first h' + count h' ≤ first h) →
        ∃ t c x m, exec (.cpy k i r l q) s = .next t ∧ LoadValue cx s a 64 d.toNat ∧ SameMemory s t ∧ others t 64 ∧
          IssuedAs cx s (Split.step cx.g (cx.waiting s wait) cx.plane) { counted cx.g 0 with syncDue := x, sinceSync := m }
            (t.gangAt cx.core cx.gang) ∧
          (∀ h ∈ cx.wg.copyGangs, h ≠ cx.gang → GoesOn s t cx.core h 0 ∧
            SMap.get 0 (t.gangAt cx.core h).c 0 = SMap.get 0 (s.gangAt cx.core h).c 0 + 1) ∧
          (∀ c n, c ≠ cx.core ∨ n ∉ cx.wg.copyGangs → t.gangAt c n = s.gangAt c n) ∧
          (t.wgAt cx.core).cq = cx.wg.cq ++ [c] ∧ (t.wgAt cx.core).cpySeq = cx.wg.cpySeq + 1 ∧
          c.kind = .cpy ∧ c.target = target ∧ c.desc = d ∧ c.parts = cx.wg.copyGangs.map (fun h => (h, first h, count h)) ∧
          c.gang = cx.gang ∧ c.serial = SMap.get 0 cx.wg.serials 1 ∧ c.blame = cx.g.blame ∧ c.top = cx.g.top ∧ c.state = .queued)))

/-- The copy engine (19 R280, R281, R290): the head command starts, a gather with its index vector; a unit that meets no fault lands, its bytes at their destinations, and reduces the pending count of a barrier target, and a command that is to be pre-empted stops with it; with the last unit the command arrives, commits its slot, and retires; a unit that faults stops the command. What a command reads is what a load may find that knows what its gangs knew at the issue (11 R203, R205), byte by byte or index by index, as the model takes it (log 1, 107). -/
def Obligations.CopyEngine : Prop :=
  ∀ (s : State) (core : Nat) (c : CopyCmd) (rest : List CopyCmd), (s.wgAt core).cq = c :: rest → (s.coreAt core).wg ≠ none →
    let w := s.wgAt core
    let idx := (List.range (gdCount c.desc)).map (fun i => gdIdx c.desc + BitVec.ofNat 64 (4 * i))
    (c.state = .queued → w.preempt = false →
      (c.kind = .cpy → ∃ t, exec (.copyCommandStart core) s = .next t ∧ SameMemory s t ∧
        t = s.setWg core { w with cq := { c with state := .running, started := true } :: rest }) ∧
      (c.kind ≠ .cpy → c.idx = [] → c.err = none → (∀ a ∈ idx, engineFaults s core .load a 4 = [] ∧ (∀ p ∈ placesOf s core a 4, ∀ pa, p ≠ .beyond pa) ∧
          ∀ b ∈ bytesOf a 4, s.poisonAt (placeOf s core b) = false) →
        ∃ t, exec (.copyCommandStart core) s = .next t ∧ SameMemory s t ∧ t = { s.setWg core { w with
          cq := { c with state := .running, started := true, idx := idx.map (fun a => BitVec.ofNat 32 (s.engineNum core c.know a 4)) } :: rest } with
          free := s.free + 1 })) ∧
    (∀ (a : W64) (n : Nat), EngineValue s core c.know a n (s.engineNum core c.know a n)) ∧
    (∀ u : Nat, (unitWrites s core c u).map (fun x => (x.1, x.2.1)) = (c.moves u).flatMap (fun m => (List.range m.2.2).map (fun i =>
      (placeOf s core (m.2.1 + BitVec.ofNat 64 i), byteOf (s.engineNum core c.know (m.1 + BitVec.ofNat 64 i) 1) 0)))) ∧
    (∀ u, c.state = .running → c.mayLand u = true →
      (unitFaults s core c u ≠ [] → ∃ t, exec (.copyFault core u) s = .next t ∧ SameMemory s t ∧
        (t.wgAt core).cq = { c with state := .faulted, faults := unitFaults s core c u, since := s.time } :: rest) ∧
      (unitFaults s core c u = [] → c.err = none →
        (∀ m ∈ c.moves u, ∀ p ∈ placesOf s core m.1 m.2.2 ++ placesOf s core m.2.1 m.2.2, ∀ pa, p ≠ .beyond pa) →
        (∀ x ∈ unitWrites s core c u, x.1.plain = true ∧ x.2.2 = false) →
        let bytes := fun (t : State) => ∀ q : Place, q.plain = true →
          t.byteAt q = lastWrite ((unitWrites s core c u).map (fun x => (x.1, x.2.1))) q (s.byteAt q)
        let regs := fun (t : State) => ∀ n, (t.gangAt core n).v = (s.gangAt core n).v ∧ (t.gangAt core n).s = (s.gangAt core n).s
        let lands := fun (x : Barrier) => { x with pend := x.pend - if x.rows then 1 else c.unitBytes }
        let fits := fun (x : Barrier) => x.err = none ∧ (if x.rows then 1 else c.unitBytes) ≤ x.pend
        ((∃ v < c.units, v ≠ u ∧ c.has v = false) → ∃ t, exec (.unitLand core u) s = .next t ∧ bytes t ∧ regs t ∧
          (t.wgAt core).cq = { c with landed := SMap.set false c.landed u true, state := if w.preempt then .queued else .running } :: rest ∧
          (c.target = .none → (t.wgAt core).bars = w.bars) ∧
          (∀ b, c.target = .barrier b → fits (w.bar b) → Completes (lands (w.bar b)) ((t.wgAt core).bar b))) ∧
        ((∀ v < c.units, v ≠ u → c.has v = true) → (∀ e ∈ w.gangs, ∀ sp ∈ e.2.splits, ∀ r l q j ix, sp.wait ≠ .forming r l q j ix) →
          ∃ t, exec (.unitLand core u) s = .next t ∧ bytes t ∧ regs t ∧ (t.wgAt core).cq = rest ∧
            (c.kind ≠ .cpy → SMap.get 0 (t.gangAt core c.gang).c 1 = SMap.get 0 (s.gangAt core c.gang).c 1 - 1) ∧
            (∀ g slot, c.target = .ring g slot → (((t.wgAt core).ring g).at slot).st = .full) ∧
            (∀ b, c.target = .barrier b → fits (w.bar b) → (w.bar b).engArrived < (w.bar b).engines →
              ∃ a rl, Completes { lands (w.bar b) with engArrived := (w.bar b).engArrived + 1, last := a, rel := rl } ((t.wgAt core).bar b)))))

/-! ### Barriers, rings, counters -/

/-- Barriers (19 R291 to R299). BINIT gives a barrier its members, unless a command targets it or some split waits at it, one that a dual path has parked among them; BARV names the phase and arrives, and its completion lets every split that waits for a complete phase pass; BEXP adds to the pending count; BWAIT returns when its phase is complete, raises the error's cause, or BARRIER_ORPHAN where nothing can complete the phase that is current, or waits; BTEST reads the status word of a barrier or of a ring (19 R300). That a wait in which nothing can complete the phase traps once the split waits is the model's reading (log 25), and so are the second look of a split that was stopped, in service or held, and the releases that a passed one acquires (log 39, 81). -/
def Obligations.Barriers : Prop :=
  ∀ (s : State) (cx : Ctx) (i : BitVec 4), s.ctx? = some cx →
    let b := i.toNat
    let x := cx.wg.bar b
    (∀ (k : BitVec 2) (m e : BitVec 6), k.toNat < 2 →
      let mask := cx.g.sreg m.toNat
      let n := (cx.g.sreg e.toNat).toNat
      let count := (List.range 16).countP (fun j => mask.getLsbD j) + n
      mask.toNat < 2 ^ min cx.wg.kernel.gangs 16 → 1 ≤ count → count ≤ 255 → (∀ c ∈ cx.wg.cq, c.target ≠ .barrier b) →
      (∀ q ∈ cx.wg.gangs, ∀ sp ∈ q.2.allSplits, ∀ t, sp.wait ≠ .bwait b t) →
      RetiresWg cx s (cx.wg.setBar b
        { x with members := mask.truncate 16, engines := n, rows := decide (k = 1), phase := 0, arrived := 0, engArrived := 0, pend := 0,
                 err := none, last := LastArr.zero, rel := [], relDone := [] }) cx.g (exec (.binit k i m e) s)) ∧
    (∀ (k : BitVec 2) (m e : BitVec 6), k.toNat < 2 → (∃ q ∈ cx.wg.gangs, ∃ sp ∈ q.2.allSplits, ∃ t, sp.wait = .bwait b t) →
      TakesTrap cx s (wordTrap cx .illegalOperand) (exec (.binit k i m e) s)) ∧
    (∀ d : BitVec 6, x.members.getLsbD cx.gang = true → let g := cx.g.setS d.toNat (x.phase.zeroExtend 64)
      (x.err ≠ none → Retires cx s g (exec (.barv i d) s)) ∧
      (x.err = none → x.arrived.getLsbD cx.gang = true → TakesTrap cx s (Trap.plain .barrierOverflow) (exec (.barv i d) s)) ∧
      (x.err = none → x.arrived.getLsbD cx.gang = false → ∃ t rl, exec (.barv i d) s = .next t ∧ SyncFrame cx s t (waitersPassed (t.wgAt cx.core) cx.core b) g ∧
        t.wgAt cx.core = { cx.wg with gangs := (t.wgAt cx.core).gangs, bars := (t.wgAt cx.core).bars } ∧
        (∀ j, j ≠ b → (t.wgAt cx.core).bar j = cx.wg.bar j) ∧
        Completes { x with arrived := x.arrived ||| BitVec.ofNat 16 (2 ^ cx.gang), last := arrivalOf cx s, rel := rl } ((t.wgAt cx.core).bar b))) ∧
    (∀ d : BitVec 6, x.members.getLsbD cx.gang = false → TakesTrap cx s (wordTrap cx .illegalOperand) (exec (.barv i d) s)) ∧
    (∀ a : BitVec 6, let n := (cx.g.sreg a.toNat).toNat
      (2 ^ 24 ≤ n → TakesTrap cx s (wordTrap cx .illegalOperand) (exec (.bexp i a) s)) ∧
      (n < 2 ^ 24 → x.err ≠ none → Retires cx s cx.g (exec (.bexp i a) s)) ∧
      (n < 2 ^ 24 → x.err = none → x.pend + n < 2 ^ 24 → RetiresWg cx s (cx.wg.setBar b { x with pend := x.pend + n }) cx.g (exec (.bexp i a) s)) ∧
      (n < 2 ^ 24 → x.err = none → 2 ^ 24 ≤ x.pend + n → TakesTrap cx s (Trap.plain .barrierOverflow) (exec (.bexp i a) s))) ∧
    (∀ a : BitVec 6, let t := (cx.g.sreg a.toNat).toNat % 2 ^ 16
      let complete := 1 ≤ (x.phase - BitVec.ofNat 16 t).toNat ∧ (x.phase - BitVec.ofNat 16 t).toNat ≤ 2 ^ 15
      let trapa : W64 := BitVec.ofNat 64 (b + t * 2 ^ 16)
      (∀ c, x.err = some c → TakesTrap cx s ⟨c, trapa, none, 0, [], false⟩ (exec (.bwait i a) s)) ∧
      (x.err = none → complete → ∃ t', exec (.bwait i a) s = .next t' ∧ SyncFrame cx s t' (fun g => g) cx.g ∧
        t'.wgAt cx.core = { cx.wg with gangs := (t'.wgAt cx.core).gangs }) ∧
      (x.err = none → BitVec.ofNat 16 t = x.phase → cx.wg.abandoned b = true → TakesTrap cx s ⟨.barrierOrphan, trapa, none, 0, [], false⟩ (exec (.bwait i a) s)) ∧
      (x.err = none → ¬complete → BitVec.ofNat 16 t ≠ x.phase ∨ cx.wg.abandoned b = false → WaitsAt cx s (.bwait b t) (exec (.bwait i a) s))) ∧
    (∀ d : BitVec 6, WritesScalar cx s d (BitVec.ofNat 64 (x.phase.toNat +
        ((List.range 16).countP (fun j => x.members.getLsbD j) + x.engines) * 2 ^ 16 +
        ((List.range 16).countP (fun j => x.arrived.getLsbD j) + x.engArrived) * 2 ^ 24 + x.pend * 2 ^ 32 +
        (if x.rows then 2 ^ 56 else 0) + (if x.err = none then 0 else 2 ^ 57))) (exec (.btest 0 i d) s)) ∧
    (∀ d : BitVec 6, let r := cx.wg.ring b
      let slots := List.range r.slots
      (4 ≤ b → TakesTrap cx s (wordTrap cx .illegalOperand) (exec (.btest 2 i d) s)) ∧
      (b < 4 → WritesScalar cx s d (BitVec.ofNat 64 (r.prod + r.cons * 2 ^ 8 + (slots.map (fun k =>
          (match (r.at k).st with | .empty => 0 | .filling => 1 | .full => 2 | .draining => 3) * 2 ^ (16 + 2 * k))).sum +
        (slots.map (fun k => if (r.at k).phase then 2 ^ (40 + k) else 0)).sum + r.slots * 2 ^ 48 +
        (if ∃ k ∈ slots, (r.at k).err ≠ none then 2 ^ 57 else 0))) (exec (.btest 2 i d) s)))

/-- Stage rings (01 R24, 19 R300, R301). A producer takes the empty slot at PROD and commits it full; a consumer takes the full slot at CONS and frees it, inverting its phase; each index then advances modulo the slot count. A slot in another state makes STGA and STGW wait, or is RING_MISUSE. TRAPA of a ring error has the form that the model gives it (log 41). -/
def Obligations.StageRings : Prop :=
  ∀ (s : State) (cx : Ctx) (i : BitVec 4) (d : BitVec 6), s.ctx? = some cx → i.toNat < 4 →
    let r := cx.wg.ring i.toNat
    let p := r.at r.prod
    let c := r.at r.cons
    let misuse := fun (x : Res) => TakesTrap cx s (Trap.plain .ringMisuse) x
    let becomes := fun (g : Gang) (r' : Ring) (x : Res) => ∃ t, x = .next t ∧ SyncFrame cx s t (fun g => g) g ∧
      t.wgAt cx.core = { cx.wg with gangs := (t.wgAt cx.core).gangs, rings := SMap.set Ring.zero cx.wg.rings i.toNat r' }
    let put := fun (k : Nat) (x : Slot) => { r with slot := SMap.set Slot.zero r.slot k x }
    (∀ m : BitVec 6, let n := (cx.g.sreg m.toNat).toNat
      1 ≤ n → n ≤ 8 → (∀ q ∈ cx.wg.cq, ∀ slot, q.target ≠ .ring i.toNat slot) →
      (∀ q ∈ cx.wg.gangs, ∀ sp ∈ q.2.allSplits, ∀ k, sp.wait ≠ .stga i.toNat k ∧ sp.wait ≠ .stgw i.toNat k) →
      RetiresWg cx s (cx.wg.setRing i.toNat ⟨n, [], 0, 0⟩) cx.g (exec (.binit 2 i m 0) s)) ∧
    (r.slots = 0 → misuse (exec (.stga i d) s) ∧ misuse (exec (.stgc i) s) ∧ misuse (exec (.stgw i d) s) ∧ misuse (exec (.stgf i) s)) ∧
    (0 < r.slots →
      (p.st = .empty → becomes (cx.g.setS d.toNat (BitVec.ofNat 64 r.prod)) (put r.prod { p with st := .filling }) (exec (.stga i d) s)) ∧
      (p.st = .filling → misuse (exec (.stga i d) s)) ∧
      (p.st = .full ∨ p.st = .draining → WaitsAt cx s (.stga i.toNat d.toNat) (exec (.stga i d) s)) ∧
      (p.st = .filling → ∃ rl, becomes cx.g
        { put r.prod ⟨.full, p.phase, none, arrivalOf cx s, rl⟩ with prod := (r.prod + 1) % r.slots } (exec (.stgc i) s)) ∧
      (p.st ≠ .filling → misuse (exec (.stgc i) s)) ∧
      (c.st = .full → c.err = none → becomes (cx.g.setS d.toNat (BitVec.ofNat 64 r.cons)) (put r.cons { c with st := .draining }) (exec (.stgw i d) s)) ∧
      (∀ e a, c.st = .full → c.err = some (e, a) → e ≠ .ringMisuse →
        TakesTrap cx s ⟨e, BitVec.ofNat 64 (16 + i.toNat + r.cons * 2 ^ 16), none, 0, [], false⟩ (exec (.stgw i d) s)) ∧
      (c.st = .draining → misuse (exec (.stgw i d) s)) ∧
      (c.st = .empty ∨ c.st = .filling → WaitsAt cx s (.stgw i.toNat d.toNat) (exec (.stgw i d) s)) ∧
      (c.st = .draining → ∃ rl, becomes cx.g
        { put r.cons ⟨.empty, !c.phase, none, arrivalOf cx s, rl⟩ with cons := (r.cons + 1) % r.slots } (exec (.stgf i) s)) ∧
      (c.st ≠ .draining → misuse (exec (.stgf i) s)))

/-- CWAIT and CBAR (19 R303, R304): CWAIT goes on when its counter is at most s[A] and no error of a covered command is pending, and takes up what the commands that it covers knew and wrote; of a pending one it raises the cause instead, with the command's first address in TRAPA, and the gang holds it no more; CBAR arrives, and completes when every live gang of every member workgroup has arrived. That several covered errors are raised in the order in which their commands retired is the model's choice (log 110); what a return of CWAIT acquires of a command (11 R206), and the record of what a gang knows to happen before its later reads, are read by the model as logs 103 and 107 say. -/
def Obligations.CounterAndClusterWaits : Prop :=
  ∀ (s : State) (cx : Ctx), s.ctx? = some cx →
    (∀ (n : BitVec 2) (a : BitVec 6), let lim := (cx.g.sreg a.toNat).toNat
      let covers := fun (e : CmdErr) => e.cls = n.toNat ∧ e.number + lim ≤ SMap.get 0 cx.g.cIssued n.toNat
      ((SMap.get 0 cx.g.c n.toNat).toNat ≤ lim → (∀ e ∈ cx.g.cErr, ¬covers e) →
        let covered := cx.g.cRel.filter (fun e => decide (e.cls = n.toNat ∧ e.number + lim ≤ SMap.get 0 cx.g.cIssued n.toNat))
        ∃ a', Retires cx s { cx.g with acq := a', know := covered.foldl (fun k e => k.join e.rel.know) cx.g.know } (exec (.cwait n a) s)) ∧
      ((SMap.get 0 cx.g.c n.toNat).toNat ≤ lim → ∀ before e rest, cx.g.cErr = before ++ e :: rest → (∀ x ∈ before, ¬covers x) → covers e →
        let g := { cx.g with cErr := before ++ rest }
        TakesTrap { cx with g := g } (s.setGang cx.core cx.gang g) ⟨e.cause, e.addr, none, 0, [], false⟩ (exec (.cwait n a) s)) ∧
      (lim < (SMap.get 0 cx.g.c n.toNat).toNat → WaitsAt cx s (.cwait n.toNat lim) (exec (.cwait n a) s))) ∧
    (SMap.wf Core.empty s.cores = true → cx.gang ∈ cx.wg.live → cx.gang < 16 →
      let arrived := fun (c g : Nat) => (s.wgAt c).cbArr.getLsbD g = true ∨ (c = cx.core ∧ g = cx.gang)
      let full := ∀ c ∈ s.members cx.core, ∀ g ∈ (s.wgAt c).live, arrived c g
      (full → cx.wg.cbArr.getLsbD cx.gang = false → ∃ t, exec .cbar s = .next t ∧ SameMemory s t ∧ SameRegisters s t ∧
        (∀ c ∈ s.members cx.core, (t.wgAt c).cbDone = (s.wgAt c).cbDone + 1 ∧ (t.wgAt c).cbArr = 0 ∧ (t.wgAt c).clBarred = true ∧
          (t.wgAt c).clAccessed = false) ∧
        LatchesDrop cx cx.g (t.gangAt cx.core cx.gang).x ∧ (t.gangAt cx.core cx.gang).splits[cx.split]? = some (cx.advanced s cx.g)) ∧
      (¬full → ∃ t, exec .cbar s = .next t ∧ SameMemory s t ∧ SameRegisters s t ∧
        (t.wgAt cx.core).cbArr = cx.wg.cbArr ||| BitVec.ofNat 16 (2 ^ cx.gang) ∧
        (∀ c ∈ s.members cx.core, (t.wgAt c).cbDone = (s.wgAt c).cbDone) ∧
        LatchesDrop cx cx.g (t.gangAt cx.core cx.gang).x ∧
        (t.gangAt cx.core cx.gang).splits[cx.split]? = some (cx.waiting s (.cbar cx.wg.cbDone))))

/-- EMIT and EDGRD (19 R305, R306, R310): the record's bytes go to the next place of the successor's queue in device memory, and every other byte reads as before; with the queue full, or behind another EMIT that waits for it, the split waits with the record. EDGRD reads BLAME, or a field of the last-arriver record of the object that a word names. That an EMIT waits behind any EMIT that waits for the queue though it has space, a stopped, a held or a parked one among them, is the model's reading of 19 R305 (log 102); the record is read as a load reads it, byte by byte (log 107). -/
def Obligations.EmitAndBlame : Prop :=
  ∀ (s : State) (cx : Ctx), s.ctx? = some cx →
    (∀ (sr r : BitVec 6) (me n : Node) (idx : Nat), s.nodeOf cx.wg.launch cx.wg.node = some me →
      me.succs[(cx.g.sreg sr.toNat).toNat]? = some idx → s.nodeOf cx.wg.launch idx = some n → n.mode1 = true →
      let a := cx.g.sreg r.toNat
      Accessible s cx.core cx.gang .load (fun _ => n.rsize) (fun _ => 8) [(lowLane cx.en, a)] →
      Intact s cx.core (fun _ => n.rsize) [(lowLane cx.en, a)] →
      let num := s.loadNum cx.core cx.gang 0 a n.rsize
      let record := leBytes n.rsize num
      LoadValue cx s a n.rsize num ∧
      (n.pushed - n.freed < n.qsize → s.emitters cx.wg.launch idx = [] → ∃ t m, exec (.emit sr r) s = .next t ∧
        (∀ q : Place, q.plain = true → t.byteAt q =
          lastWrite ((record.zipIdx).map (fun x => (.dev (n.qbase.toNat + n.pushed % n.qsize * n.rsize + x.2), x.1))) q (s.byteAt q)) ∧
        SameRegisters s t ∧ t.nodeOf cx.wg.launch idx = some m ∧ m.pushed = n.pushed + 1 ∧ m.waiting = n.waiting ++ [arrivalOf cx s] ∧
        LatchesDrop cx cx.g (t.gangAt cx.core cx.gang).x ∧ (t.gangAt cx.core cx.gang).splits[cx.split]? = some (cx.advanced s cx.g)) ∧
      (n.qsize ≤ n.pushed - n.freed ∨ s.emitters cx.wg.launch idx ≠ [] → ∃ t, exec (.emit sr r) s = .next t ∧ SameMemory s t ∧ SameRegisters s t ∧
        LatchesDrop cx cx.g (t.gangAt cx.core cx.gang).x ∧
        (t.gangAt cx.core cx.gang).splits[cx.split]? = some (cx.waiting s (.emit idx record n.tickets none)))) ∧
    (∀ d : BitVec 6, WritesScalar cx s d cx.g.blame (exec (.edgrd 0 d 0) s)) ∧
    (∀ (k : BitVec 2) (d b : BitVec 6) (kind idx : Nat) (o : LastArr), k ≠ 0 → cx.core < 416 →
      (cx.g.sreg b.toNat).toNat = kind * 2 ^ 28 + cx.core / 104 * 2 ^ 26 + (if kind = 3 then 0 else cx.core % 104 * 2 ^ 19) + idx →
      ((kind = 0 ∧ idx < 16 ∧ o = (cx.wg.bar idx).last) ∨
        (kind = 1 ∧ idx < 32 ∧ o = ((cx.wg.ring (idx / 8)).at (idx % 8)).last) ∨
        (kind = 3 ∧ idx = cx.core % 104 / 4 ∧ o = cx.wg.cbLast) ∨
        (kind = 4 ∧ idx < 4 ∧ o = SMap.get LastArr.zero cx.g.cLast idx)) →
      WritesScalar cx s d (if k = 1 then BitVec.ofNat 64 (o.agent.toNat % 2 ^ 32) else if k = 2 then o.blame else o.clock) (exec (.edgrd k d b) s))

/-- The release of a blocked split (19 R296, R301, R303 to R305, R307): once what it waits for holds, or has held (19 R295, R303), the split goes on after its word, unless a pre-emption holds it (21 R331); an STGA or an STGW takes its slot, an EMIT that is the first in the order of arrival appends its record; every register is as before but the slot's index. A split that has waited for at least one clock takes the die's next serial: its id becomes the gang's BLAME, and its edge is written to the buffer of a holder who may see it, or counted as dropped; another leaves BLAME as it is and writes nothing (19 R307, 23 R361). That a split whose wait has ended while it was stopped or held goes on later, with the record of that end, is the model's reading (log 81). -/
def Obligations.BlockedWaitsEnd : Prop :=
  ∀ (s : State) (core gang i : Nat) (sp : Split), (s.gangAt core gang).splits[i]? = some sp → (s.gangAt core gang).canRelease sp = true →
    let w := s.wgAt core
    let g := s.gangAt core gang
    let ends := fun (obj : Nat) (from_ : LastArr) (after : List (Place × Byte)) (u : State) (keep : State → Prop) => w.preempt = false →
      ∃ t, exec (.blockedWaitRelease core gang i) s = .next t ∧ GoesOn s t core gang i ∧ SameRegisters u t ∧
        ReleasesWith after s t core gang sp.waitStart obj from_ ∧ keep t
    (w.preempt = true → exec (.blockedWaitRelease core gang i) s = .next s) ∧
    (∀ obj by_ rels, sp.wait = .passed obj by_ rels → ends obj by_ [] s (fun _ => True)) ∧
    (∀ b t, sp.wait = .bwait b t → (w.bar b).err = none → (w.bar b).completed (BitVec.ofNat 16 t) = true →
      ends (objectWord core 0 b) (w.bar b).comp [] s (fun _ => True)) ∧
    (∀ k n, sp.wait = .cwait k n → g.counter k ≤ n → g.coveredErr k n = none →
      ends (objectWord core 4 k) (SMap.get LastArr.zero g.cLast k) [] s (fun _ => True)) ∧
    (∀ n, sp.wait = .cbar n → n < w.cbDone →
      ends (3 * 2 ^ 28 + core / 104 * 2 ^ 26 + core % 104 / 4) w.cbLast [] s (fun _ => True)) ∧
    (∀ node bs k by_ n, sp.wait = .emit node bs k by_ → s.nodeOf w.launch node = some n → n.space = true →
      (s.emitters w.launch node).head? = some (core, gang, i) →
      ends (5 * 2 ^ 28 + n.dies.headD 0 * 2 ^ 26 + node) (by_.getD n.freedBy)
        (devWrites (n.qbase.toNat + n.pushed % n.qsize * n.rsize) bs) s
        (fun t => ∃ m, t.nodeOf w.launch node = some m ∧ m.pushed = n.pushed + 1)) ∧
    (∀ r d, sp.wait = .stga r d → ((w.ring r).at (w.ring r).prod).st = .empty →
      ends (objectWord core 1 (8 * r + (w.ring r).prod)) ((w.ring r).at (w.ring r).prod).last []
        (s.setGang core gang (g.setS d (BitVec.ofNat 64 (w.ring r).prod)))
        (fun t => (((t.wgAt core).ring r).at (w.ring r).prod).st = .filling)) ∧
    (∀ r d, sp.wait = .stgw r d → ((w.ring r).at (w.ring r).cons).st = .full → ((w.ring r).at (w.ring r).cons).err = none →
      ends (objectWord core 1 (8 * r + (w.ring r).cons)) ((w.ring r).at (w.ring r).cons).last []
        (s.setGang core gang (g.setS d (BitVec.ofNat 64 (w.ring r).cons)))
        (fun t => (((t.wgAt core).ring r).at (w.ring r).cons).st = .draining))

/-! ### Traps and system instructions -/

/-- Taking a trap and returning (21 R333 to R338). A trap bound for the kernel handler saves its code, its value, its offset and its lane, stops the gang's other splits and sends its own to TRAPOFF; every latch of the gang becomes invalid; with no handler, or inside it, the workgroup ends with that cause. A BREAKPOINT of a held launch goes to the debugger. TRET sends the split to TRAPPC, where some plane issues its word, and wakes the others; where a REGANG or a CPY then completes, the completion follows, and the statement is of the other case. That after a return to TRAPPC the lower planes issue no word of the group again is the model's reading (log 13), and where the splits of a workgroup that ends stop is its reading too (log 40); what TRET does to skip bodies (log 12) the statement leaves open. -/
def Obligations.TrapEntryAndReturn : Prop :=
  ∀ (s : State) (cx : Ctx), s.ctx? = some cx →
    let lane := lowLane cx.en
    let trapl : W64 := BitVec.ofNat 64 (cx.gang * 2 ^ 16 + (if cx.sp.path = none then 0 else 2 ^ 11) +
      cx.plane.getD (cx.g.planeOf lane) % 4 * 2 ^ 9 + cx.sp.path.getD 0 % 2 * 2 ^ 8 + lane / 4 % 8 * 2 ^ 5 + lane % 32)
    let first : W64 := BitVec.ofNat 64 cx.first
    let entered := fun (swnum code : Nat) (a : W64) (r : Res) =>
      (∀ off, cx.wg.kernel.trapOff = some off → cx.g.handler = none → ∃ t h ss q k tr, r = .next t ∧ SameMemory s t ∧
        t = { s.setGang cx.core cx.gang
                { cx.g with trapc := BitVec.ofNat 64 (swnum * 2 ^ 8 + code), trapa := a, trappc := first, trapl := trapl, x := [],
                            service := none, handler := some h, splits := ss, syncDue := q, sinceSync := k } with traces := tr } ∧
        h.entryPc = first ∧ h.trapOff = cx.sp.pc ∧ (∀ j, SMap.get 0 h.depths j = (SMap.get [] cx.g.dp j).length) ∧
        (∃ sp, ss[cx.split]? = some sp ∧ sp.pc = off ∧ sp.slices = cx.sp.slices ∧ sp.lanes = cx.sp.lanes ∧ sp.path = cx.sp.path ∧
          sp.stopped = false ∧ sp.wait = .none) ∧
        ∀ i x, i ≠ cx.split → cx.g.splits[i]? = some x → ss[i]? = some { x with stopped := true }) ∧
      (cx.wg.kernel.trapOff = none ∨ cx.g.handler ≠ none → ∃ t, r = .next t ∧ SameMemory s t ∧ (t.wgAt cx.core).ending = true ∧
        Ends s t cx.core ∧ (∀ sp ∈ (t.gangAt cx.core cx.gang).splits, ∃ i, i ≠ cx.split ∧ cx.g.splits[i]? = some sp) ∧
        ∀ l, SMap.get none s.launches cx.wg.launch = some l → ∃ l', SMap.get none t.launches cx.wg.launch = some l' ∧
          l'.status = some (l.status.getD ⟨code, cx.wg.node, cx.wg.rank, 0, trapl, first, a⟩))
    (cx.sp.slices.getLsbD (lane / 4) = true →
      (∀ n a : BitVec 6, entered n.toNat 0x21 (cx.g.sreg a.toNat) (exec (.trap n a) s)) ∧
      (∀ n : BitVec 6, s.hold? cx.wg = none → entered 0 0x20 (n.zeroExtend 64) (exec (.bkpt n) s)) ∧
      (∀ w : W32, entered 0 1 (w.zeroExtend 64) (exec (.unassignedOpcode (some w)) s)) ∧
      entered 0 1 0 (exec (.unassignedOpcode none) s) ∧
      (∀ (n : BitVec 6) (h : Hold), s.hold? cx.wg = some h → ∃ t g, exec (.bkpt n) s = .next t ∧ g = t.gangAt cx.core cx.gang ∧
        t.msix = s.msix ++ [cx.wg.mailbox] ∧
        g = { cx.g with trapc := 0x20, trapa := n.zeroExtend 64, trappc := first, trapl := trapl,
                        dbgStop := some (.breakpoint, cx.split), stopReq := none, x := [],
                        splits := cx.g.splits.set cx.split cx.rewound })) ∧
    (cx.g.handler = none → TakesTrap cx s (wordTrap cx .illegalInstruction) (exec .tret s)) ∧
    (∀ h, cx.g.handler = some h →
      ((∀ j ∈ slicesOf cx.sp.slices, (SMap.get [] cx.g.dp j).length ≤ SMap.get 0 h.depths j) → NothingToComplete cx s →
        Split.issuePlane cx.g (cx.sp.returned h cx.g.trappc) ≠ none →
        ∃ t x ss dp q k tr, exec .tret s = .next t ∧ SameMemory s t ∧ LatchesDrop cx cx.g x ∧
          t = { s.setGang cx.core cx.gang { cx.g with x := x, splits := ss, dp := dp, handler := none, lastIssue := cx.now s, syncDue := q, sinceSync := k }
                with traces := tr } ∧
          (∀ i y, i ≠ cx.split → cx.g.splits[i]? = some y → ss[i]? = some { y with stopped := false }) ∧ ss.length = cx.g.splits.length ∧
          (∀ j, (SMap.get [] dp j).length = (SMap.get [] cx.g.dp j).length) ∧
          ∃ sp, ss[cx.split]? = some sp ∧ sp.pc = cx.g.trappc.toNat ∧ sp.stopped = false ∧ sp.slices = cx.sp.slices ∧ sp.lanes = cx.sp.lanes ∧
            sp.path = cx.sp.path ∧ sp.wait = .none ∧
            sp.replay = if cx.g.trappc = h.entryPc ∧ h.anchored = false then some (h.trapOff, h.plane) else none) ∧
      ((∃ j ∈ slicesOf cx.sp.slices, SMap.get 0 h.depths j < (SMap.get [] cx.g.dp j).length) →
        TakesTrap cx s (wordTrap cx .illegalOperand) (exec .tret s)))

/-- System and observation instructions (21 R339 to R341, 23 R369, R373): special registers and who may write them; HALT, after which every gang of the node's workgroups goes to its next latch-free point and no further; TLBI; trace enables; watched ranges, which lie in the global virtual space or in the 2^20 bytes of the local scratchpad space. The point at which a gang that HALT stops is at its end, that an SWR of a defined register with an undefined bit is refused, and the end of the local space for WATCH are the model's readings (log 40, 56, 63). -/
def Obligations.SystemInstructions : Prop :=
  ∀ (s : State) (cx : Ctx), s.ctx? = some cx →
    let operand := fun (r : Res) => TakesTrap cx s (wordTrap cx .illegalOperand) r
    let protect := fun (r : Res) => TakesTrap cx s (Trap.plain .protection) r
    let region := fun (k : Nat) => ((cx.g.regions[k]?).getD 0).toNat
    (∀ n d : BitVec 6,
      (20 ≤ n.toNat → operand (exec (.srd n d) s)) ∧
      (∀ z : Nat → Nat, (n = 0 ∧ z = fun l => l) ∨ (n = 1 ∧ z = fun l => l / 4) ∨ (n = 7 ∧ z = fun l => cx.g.planeOf l) →
        WritesCells cx s 0 (fun rg l => if rg = d.toNat then some (BitVec.ofNat 32 (z l), .n32) else none) (exec (.srd n d) s)) ∧
      (∀ x : W64, (n.toNat, x) ∈
          [(2, BitVec.ofNat 64 cx.gang), (3, BitVec.ofNat 64 cx.wg.rank), (4, BitVec.ofNat 64 cx.wg.clrank), (5, BitVec.ofNat 64 (cx.core / 104)),
           (6, BitVec.ofNat 64 (s.devid % 2 ^ 20)), (9, cx.g.mode.zeroExtend 64), (10, cx.g.flags.zeroExtend 64),
           (11, SMap.get 0 s.clock (cx.core / 104)),
           (12, s.timeBase.2 + BitVec.ofNat 64 ((SMap.get 0 s.clock 0 - s.timeBase.1).toNat * 40 / (3 * s.fstep))),
           (13, BitVec.ofNat 64 (cx.g.regions.length * 2 ^ 48 + region 2 * 2 ^ 32 + region 1 * 2 ^ 16 + region 0)),
           (14, cx.g.trapc), (15, cx.g.trapa), (16, cx.g.trappc), (17, cx.g.trapl), (18, cx.g.acctd.zeroExtend 64), (19, cx.g.blame)] →
        WritesScalar cx s d x (exec (.srd n d) s)) ∧
      (n = 8 → ∃ x : W64, (∀ k < 64, x.getLsbD k = true ↔ k < 4 ∧ ∃ l < 32, cx.sp.lanes.getLsbD l = true ∧ cx.g.planeOf l = k) ∧
        WritesScalar cx s d x (exec (.srd n d) s))) ∧
    (∀ a : BitVec 6, let x := cx.g.sreg a.toNat
      (if x.toNat < 8 then Retires cx s { cx.g with mode := x.truncate 32 } (exec (.swr 9 a) s) else operand (exec (.swr 9 a) s)) ∧
      (if x.toNat < 64 then Retires cx s { cx.g with flags := x.truncate 32 } (exec (.swr 10 a) s) else operand (exec (.swr 10 a) s)) ∧
      (if cx.g.handler ≠ none ∧ x.toNat < cx.wg.kernel.length then Retires cx s { cx.g with trappc := x } (exec (.swr 16 a) s)
        else operand (exec (.swr 16 a) s)) ∧
      (if cx.wg.priv = false then protect (exec (.swr 18 a) s)
        else if x.toNat < 256 then Retires cx s { cx.g with acctd := x.truncate 8 } (exec (.swr 18 a) s) else operand (exec (.swr 18 a) s)) ∧
      (if cx.wg.priv = false then protect (exec (.swr 19 a) s) else Retires cx s { cx.g with blame := x } (exec (.swr 19 a) s)) ∧
      (∀ n : BitVec 6, n ≠ 9 → n ≠ 10 → n ≠ 16 → n ≠ 18 → n ≠ 19 → operand (exec (.swr n a) s))) ∧
    (∀ a : BitVec 6, ∃ t, exec (.halt a) s = .next t ∧ SameMemory s t ∧
      (∀ c ∈ s.members cx.core, Ends s t c) ∧
      (∀ sp ∈ (t.gangAt cx.core cx.gang).splits, ∃ i, i ≠ cx.split ∧ cx.g.splits[i]? = some sp) ∧
      (∀ c, c ∉ s.members cx.core → t.coreAt c = s.coreAt c) ∧
      ∀ l, SMap.get none s.launches cx.wg.launch = some l → ∃ l', SMap.get none t.launches cx.wg.launch = some l' ∧
        l'.status = some (l.status.getD ⟨0x30, cx.wg.node, cx.wg.rank, cx.g.sreg a.toNat, 0, 0, 0⟩)) ∧
    (∀ (k : BitVec 2) (a b : BitVec 6), k ≠ 3 → (k ≠ 0 → a = 0) → (k = 2 → b = 0) →
      let va := cx.g.sreg a.toNat
      let asid := (cx.g.sreg b.toNat).toNat
      (cx.wg.priv = false → protect (exec (.tlbi k a b) s)) ∧
      (cx.wg.priv = true → asid < 2 ^ 16 → cx.g.atomicsOut = true → WaitsAt cx s (.tlbi k.toNat va asid) (exec (.tlbi k a b) s)) ∧
      (cx.wg.priv = true → asid < 2 ^ 16 → cx.g.atomicsOut = false → ∃ t g', exec (.tlbi k a b) s = .next t ∧ SameMemory s t ∧
        t = { s.setGang cx.core cx.gang g' with tlb := t.tlb } ∧ Issued cx s cx.g g' ∧
        ∀ c e, e ∈ SMap.get [] t.tlb c ↔ e ∈ SMap.get [] s.tlb c ∧ ((k = 0 ∧ ¬(e.asid = asid ∧ e.page ≤ va.toNat / 65536 ∧
          va.toNat / 65536 < e.page + e.pages)) ∨ (k = 1 ∧ e.asid ≠ asid))) ∧
      (cx.wg.priv = true → 2 ^ 16 ≤ asid → operand (exec (.tlbi k a b) s))) ∧
    (∀ d a : BitVec 6, 256 ≤ (cx.g.sreg a.toNat).toNat → operand (exec (.trcm d a) s)) ∧
    (∀ d a : BitVec 6, (cx.g.sreg a.toNat).toNat < 256 → let en := (cx.g.sreg a.toNat).truncate 8 &&& cx.g.permit
      Retires cx s { cx.g.setS d.toNat (cx.g.traceEn.zeroExtend 64) with
        traceEn := en, syncDue := cx.g.syncDue || decide (cx.g.traceEn = 0 ∧ en ≠ 0) } (exec (.trcm d a) s)) ∧
    (∀ (w : BitVec 2) (a b : BitVec 6), let base := cx.g.sreg a.toNat
      let n := (cx.g.sreg b.toNat).toNat
      (cx.g.permit.getLsbD 5 = true → 2 ^ 32 < n ∨ ((∀ va, spaceOf base ≠ .global va) ∧ ∀ off, spaceOf base ≠ .localPad off) ∨
        (∃ va, spaceOf base = .global va ∧ 2 ^ 57 < va + n) ∨ (∃ off, spaceOf base = .localPad off ∧ 2 ^ 20 < off + n) →
        operand (exec (.watch w a b) s)) ∧
      (cx.g.permit.getLsbD 5 = false → protect (exec (.watch w a b) s)) ∧
      (cx.g.permit.getLsbD 5 = true → n ≤ 2 ^ 32 → (∃ va, spaceOf base = .global va ∧ va + n ≤ 2 ^ 57) ∨
          (∃ off, spaceOf base = .localPad off ∧ off + n ≤ 2 ^ 20) →
        RetiresWg cx s { cx.wg with watch := SMap.set none cx.wg.watch w.toNat (if n = 0 then none else some (base, n)) } cx.g
          (exec (.watch w a b) s)))

/-- TRCC and ACCT (23 R361, R362, R370 to R372). SYNC owes a SYNC packet unless the enables are 0. FLUSH leaves no packet in the die's queue but the LOSS of what it dropped; a pair record or a LOSS record of edges that is pending is written, the pair first, and stays only where the edge buffer takes no record; other dies' buffers are as they were, and so is every byte outside the two buffers and their counts of written units. That FLUSH is done at once is the model's (log 48); that the gang knows the die's writer's bytes from then on is the mark of their order (log 107). ACCT reads a counter of a domain, in privileged code alone; the counters of DRAM bytes and of energy take a free gain at a read after traffic of the domain (log 20). -/
def Obligations.TraceControlAndAccounts : Prop :=
  ∀ (s : State) (cx : Ctx), s.ctx? = some cx →
    let operand := fun (r : Res) => TakesTrap cx s (wordTrap cx .illegalOperand) r
    let protect := fun (r : Res) => TakesTrap cx s (Trap.plain .protection) r
    Retires cx s (if cx.g.traceEn = 0 then cx.g else { cx.g with syncDue := true }) (exec (.trcc 0) s) ∧
    (∃ t, exec (.trcc 1) s = .next t ∧ SameRegisters s t ∧
      (t.gangAt cx.core cx.gang).know = cx.g.know.upTo (collectorOf (cx.core / 104)) t.writes ∧ LatchesDrop cx cx.g (t.gangAt cx.core cx.gang).x ∧
      (t.gangAt cx.core cx.gang).splits = cx.g.splits.set cx.split (cx.advanced s cx.g) ∧
      let die := cx.core / 104
      let b := s.edgeBuf die
      let b' := t.edgeBuf die
      let trace := s.traceBuf die
      (t.traceBuf die).queue.length ≤ 1 ∧ (∀ p ∈ (t.traceBuf die).queue, p.type = 0xB) ∧
      (∀ d, d ≠ die → t.traceBuf d = s.traceBuf d ∧ t.edgeBuf d = s.edgeBuf d) ∧
      (b'.pair = b.pair ∨ b'.pair = none) ∧ (b'.dropped = b.dropped ∨ b'.dropped = 0) ∧
      b' = { b with pair := b'.pair, dropped := b'.dropped,
                    wr := b.wr + (if b.pair ≠ none ∧ b'.pair = none then 1 else 0) + (if 0 < b.dropped ∧ b'.dropped = 0 then 1 else 0) } ∧
      (b'.pair ≠ none ∨ 0 < b'.dropped → b.en = false ∨ t.unitFree b'.desc b'.wr b'.nunits = false) ∧
      (0 < trace.nunits → 0 < b.nunits → (∀ p ∈ trace.queue, p.type = 2 → 18 ≤ p.payload.length) →
        (∀ f, trace.frame = some f → ∃ k < trace.nunits, f.addr = trace.base + k * 4096) →
        ∀ q : Place, q.plain = true →
          (∀ a, q = .dev a → (a < trace.base ∨ trace.base + trace.nunits * 4096 ≤ a) ∧ (a < b.base ∨ b.base + b.nunits * 48 ≤ a) ∧
            (a < trace.desc + 16 ∨ trace.desc + 24 ≤ a) ∧ (a < b.desc + 16 ∨ b.desc + 24 ≤ a)) →
          t.byteAt q = s.byteAt q)) ∧
    (∀ (d a : BitVec 6) (dom i : Nat), (cx.g.sreg a.toNat).toNat = i * 2 ^ 8 + dom → dom < 256 → i < 9 →
      (cx.wg.priv = false → protect (exec (.acct d a) s)) ∧
      (cx.wg.priv = true → i ≠ 3 → i ≠ 6 → WritesScalar cx s d (BitVec.ofNat 64 (SMap.get 0 s.acct (16 * dom + i))) (exec (.acct d a) s)) ∧
      (cx.wg.priv = true → i = 3 ∨ i = 6 →
        let value := fun (n : Nat) => BitVec.ofNat 64
          (if i = 3 then SMap.get 0 s.acct (16 * dom + 3) + n else (SMap.get 0 s.energy dom + n) / 10 ^ 10)
        (SMap.get false s.traffic dom = false → WritesScalar cx s d (value 0) (exec (.acct d a) s)) ∧
        (SMap.get false s.traffic dom = true → ∃ (n : Nat) (g' : Gang) (ac en : SMap Nat), exec (.acct d a) s =
          .next { s.setGang cx.core cx.gang g' with acct := ac, energy := en, traffic := SMap.set false s.traffic dom false, free := s.free + 2 } ∧
          Issued cx s (cx.g.setS d.toNat (value n)) g' ∧ (∀ k, k ≠ 16 * dom + 3 → SMap.get 0 ac k = SMap.get 0 s.acct k) ∧
          ∀ k, k ≠ dom → SMap.get 0 en k = SMap.get 0 s.energy k))) ∧
    (∀ d a : BitVec 6, cx.wg.priv = true → 2 ^ 12 ≤ (cx.g.sreg a.toNat).toNat ∨ 9 ≤ (cx.g.sreg a.toNat).toNat / 2 ^ 8 →
      operand (exec (.acct d a) s))

/-! ### The transform pipe -/

/-- The transform pipe (09 R175 to R181). A COLLECTIVE gang's command enters the queue and its split waits; the oldest starts, and replies with its effect: a code table, decoded symbols, a CRC-32C, or keys and payloads in the lanes of their ranks. What the pipe finds in a byte is what a load of the gang may find there (11 R203), the byte as it stands where every write of it happens before the command (log 107). A lane of XDEC reads the bytes of its chunk and of the 11 bits after it, and no others (the model's reading, log 67). The order in which the pipe takes a quadrant's second command is the model's (log 78). That addresses, the table and the stream are checked when a command replies is the model's reading (log 43). -/
def Obligations.Transforms : Prop :=
  (∀ (s : State) (cx : Ctx), s.ctx? = some cx → Collective cx →
    let queued := fun (op : XOp) (r : Res) => ∃ t g', r = .next t ∧ SameMemory s t ∧
      t = (s.setWg cx.core { cx.wg with xq := pipeOrder (cx.wg.xq ++ [cx.gang]) }).setGang cx.core cx.gang g' ∧
      IssuedAs cx s (cx.waiting s (.transform op)) cx.g g'
    (∀ (t : BitVec 2) (r : BitVec 1) (a : BitVec 6), queued (.tab t.toNat (decide (r = 1)) a.toNat) (exec (.xtab t r a) s)) ∧
    (∀ f a b c : BitVec 6, f.toNat < 60 → 2 * f.toNat + 8 < 64 ∨ cx.g.ext ≠ none →
      queued (.dec f.toNat a.toNat b.toNat c.toNat) (exec (.xdec f a b c) s)) ∧
    (∀ d b c : BitVec 6, 65536 < (cx.g.sreg c.toNat).toNat → TakesTrap cx s (wordTrap cx .illegalOperand) (exec (.xcrc d b c) s)) ∧
    (∀ d b c : BitVec 6, (cx.g.sreg c.toNat).toNat ≤ 65536 → queued (.crc d.toNat b.toNat c.toNat) (exec (.xcrc d b c) s)) ∧
    (∀ (f a : BitVec 6) (t : Tag), (cx.g.sreg a.toNat).toNat < 2 → RegsReadable cx (2 * f.toNat) 2 → OneTag cx (2 * f.toNat) 1 t →
      t = .s32 ∨ t = .n32 ∨ t = .f32 → queued (.srt f.toNat a.toNat) (exec (.xsrt f a) s))) ∧
  (∀ (s : State) (core : Nat), (s.wgAt core).xq ≠ [] → (s.wgAt core).xrun = false →
    exec (.transformStart core) s = .next (s.setWg core { s.wgAt core with xrun := true })) ∧
  (∀ (s : State) (core gang : Nat) (rest : List Nat) (sp : Split) (op : XOp), (s.wgAt core).xq = gang :: rest →
    (s.wgAt core).xrun = true → (s.gangAt core gang).splits = [sp] → sp.wait = .transform op →
    let w := s.wgAt core
    let g := s.gangAt core gang
    let num := fun (a : W64) (n : Nat) => numOf (pipeBytes s core gang a n)
    (∀ b : W64, let p := placeOf s core b
      (∃ upTo : Nat, s.pipeByte core gang b = s.seenByte (gangEye s core gang) upTo p) ∧
      ((∀ e ∈ s.pastOf p, e.ordered (gangEye s core gang) = true) → s.pipeByte core gang b = s.byteAt p)) ∧
    let replies := fun (keep : State → Prop) => ∃ t, exec (.transformReply core) s = .next t ∧ SameMemory s t ∧ GoesOn s t core gang 0 ∧
      (t.wgAt core).xq = pipeOrder rest ∧ (t.wgAt core).xrun = false ∧ (∀ n, n ≠ gang → t.gangAt core n = s.gangAt core n) ∧ keep t
    (∀ t run a, op = .tab t run a → let p := g.sreg a
      let counts := (List.range 12).map (fun i => num (p + BitVec.ofNat 64 (2 * i)) 2)
      PipeReadable s core gang p 24 → 1 ≤ counts.sum → counts.sum ≤ 256 →
      ((List.range 12).map (fun i => counts.getD i 0 * 2 ^ (11 - i))).sum ≤ 4096 → PipeReadable s core gang (p + 24) counts.sum →
      replies (fun u => ∀ k, SMap.get none (u.wgAt core).xtab k =
        if k = t then some ⟨counts, pipeBytes s core gang (p + 24) counts.sum, run⟩ else SMap.get none w.xtab k)) ∧
    (∀ f a b c, op = .dec f a b c → 2 * f + 8 < 128 → ∀ (tb : XTable) (outs : Nat → List Byte), let x := num (g.sreg a) 16
      let width := x % 2 ^ 16
      let nbits := x / 2 ^ 32 % 2 ^ 32
      let data := pipeBytes s core gang (g.sreg a + 16) ((nbits + 7) / 8)
      let chunk := fun (k : Nat) => PipeReadable s core gang (g.sreg a + 16 + BitVec.ofNat 64 (k * width / 8))
        ((min (width + 11) (nbits - k * width) + 7) / 8)
      PipeReadable s core gang (g.sreg a) 16 → x / 2 ^ 18 % 2 ^ 14 = 0 → x / 2 ^ 64 = 0 → 64 ≤ width → width ≤ 1024 → width % 32 = 0 →
      SMap.get none w.xtab (x / 2 ^ 16 % 4) = some tb →
      (∀ y ∈ bytesOf (g.sreg a + 16) ((nbits + 7) / 8), ∃ off, spaceOf y = .localPad off ∧ off < w.kernel.scratch) →
      (∀ l ∈ lanesOf sp.lanes, let k := (g.sreg c).toNat + l
        let at_ := g.sreg b + BitVec.ofNat 64 (k / 2)
        let gap := num at_ 1 / 2 ^ (4 * (k % 2)) % 16
        (nbits ≤ k * width → outs l = []) ∧
        (k * width < nbits → PipeReadable s core gang at_ 1 ∧ chunk k ∧ gap ≤ 11 ∧ (outs l).length ≤ 32 ∧
          Decodes tb data nbits (min (k * width + width) nbits) (k * width + gap) none (outs l))) →
      replies (fun u => ∀ rg < 128, ∀ l < 32, (u.gangAt core gang).cell rg l =
        if l ∈ lanesOf sp.lanes ∧ 2 * f ≤ rg ∧ rg < 2 * f + 8 then
          ⟨BitVec.ofNat 32 (numOf (((outs l).drop (4 * (rg - 2 * f))).take 4)), .n8x4, false⟩
        else if l ∈ lanesOf sp.lanes ∧ rg = 2 * f + 8 then ⟨BitVec.ofNat 32 (outs l).length, .n32, false⟩
        else g.cell rg l)) ∧
    (∀ d b c, op = .crc d b c → let n := (g.sreg c).toNat
      (n = 0 → replies (fun u => ∃ ss, u.gangAt core gang = { g with splits := ss })) ∧
      (n ≠ 0 → PipeReadable s core gang (g.sreg b) n →
        let crc := (pipeBytes s core gang (g.sreg b) n).foldl (fun (y : W32) x => (List.range 8).foldl (fun (y : W32) _ =>
          (y >>> 1) ^^^ (if y.getLsbD 0 then 0x82F63B78 else 0)) (y ^^^ x.zeroExtend 32)) (~~~((g.sreg d).truncate 32))
        replies (fun u => ∃ ss, u.gangAt core gang = { g.setS d ((~~~crc).zeroExtend 64) with splits := ss }))) ∧
    (∀ f a t, op = .srt f a → (∀ l ∈ lanesOf sp.lanes, (g.cell (2 * f) l).tag = t) →
      let key := fun (l : Nat) => sortValue t (g.cell (2 * f) l).bits
      let first := fun (m l : Nat) => (if (g.sreg a).getLsbD 0 then key l < key m else key m < key l) ∨ (key m = key l ∧ m < l)
      t = .s32 ∨ t = .n32 ∨ t = .f32 → 2 * f + 1 < 128 → replies (fun u =>
        (∀ l ∈ lanesOf sp.lanes, ∀ r : Nat, (∃ ms : List Nat, ms.Nodup ∧ ms.length = r ∧ ∀ m, m ∈ ms ↔ m ∈ lanesOf sp.lanes ∧ first m l) →
          ∀ i < 2, (u.gangAt core gang).cell (2 * f + i) r = written (g.cell (2 * f + i) l).bits (g.cell (2 * f + i) l).tag) ∧
        (∀ rg < 128, ∀ l < 32, rg ≠ 2 * f → rg ≠ 2 * f + 1 → (u.gangAt core gang).cell rg l = g.cell rg l))))

/-! ### Steps of a gang beside its instructions -/

/-- The ends of a gang's own waits, and its exit (01 R27 to R29, R43, 07 R135, R141, 13 R219, R234, 21 R341, 23 R347): a grant of an extended block; REG_STARVATION; the return of a block; the join of two paths; a load's return; IFENCE and TLBI; a requested stop; the end of the gang. That REG_STARVATION waits while the gang is stopped or served is the model's reading (log 42). An event whose condition does not hold does nothing, by the model's choice (log 22), and where a requested stop finds its latch-free point is its reading (log 50), as is where a split of a workgroup that ends stops (log 40). The end of a gang is stated outside cluster mode. -/
def Obligations.GangEvents : Prop :=
  ∀ (s : State) (core gang : Nat),
    let k := s.coreAt core
    let w := s.wgAt core
    let g := s.gangAt core gang
    let requests := fun (t : State) (q : Nat) => SMap.get [] (t.coreAt core).racq q
    (∀ (quad b : Nat) (r : RacqReq) (rest : List RacqReq), requests s quad = r :: rest → k.wg ≠ none →
      (b = 0 ∨ b = 1 ∧ ∃ i < 4, (s.gangAt core (quad + 4 * i)).ext = some 0) → (∀ i < 4, (s.gangAt core (quad + 4 * i)).ext ≠ some b) →
      (w.preempt = true → exec (.racqGrant core quad) s = .next s) ∧ (w.preempt = false → ∃ t v ss dp, exec (.racqGrant core quad) s = .next t ∧ SameMemory s t ∧ requests t quad = rest ∧
        t.gangAt core r.gang = { s.gangAt core r.gang with ext := some b, v := v, splits := ss, dp := dp } ∧
        (∀ rg < 128, ∀ l < 32, (t.gangAt core r.gang).cell rg l = if rg < 64 then (s.gangAt core r.gang).cell rg l else ⟨0, .invalid, false⟩) ∧
        (∀ n, ∀ e ∈ SMap.get [] dp n, ∀ p, e.parked = some p → p.wait ≠ .racq) ∧
        ∀ (i : Nat) (sp : Split), (s.gangAt core r.gang).splits[i]? = some sp → ∃ sp' : Split, ss[i]? = some sp' ∧
          if sp.wait = .racq then sp' = Split.step (s.gangAt core r.gang) sp sp.waitPlane ∧ sp'.wait = .none else sp' = sp)) ∧
    (∀ (r : RacqReq) (sp : Split) (off : Nat), (requests s (gang % 4)).find? (fun x => x.gang == gang) = some r → g.splits = [sp] →
      sp.wait = .racq → g.canRelease sp = true → (w.preempt = true → exec (.regStarvation core gang) s = .next s) ∧
      ((s.clockAt core).toNat ≤ r.since + 2 ^ 20 → exec (.regStarvation core gang) s = .next s) ∧
      (w.preempt = false → r.since + 2 ^ 20 < (s.clockAt core).toNat → w.kernel.trapOff = some off → g.handler = none →
        ∃ t sp', exec (.regStarvation core gang) s = .next t ∧ SameMemory s t ∧ (∀ x ∈ requests t (gang % 4), x.gang ≠ gang) ∧
          (t.gangAt core gang).trapc = 0x1E ∧ (t.gangAt core gang).trapa = 0 ∧
          (t.gangAt core gang).trappc = BitVec.ofNat 64 sp.waitFirst ∧ (t.gangAt core gang).splits = [sp'] ∧ sp'.pc = off ∧
          sp'.wait = .none)) ∧
    (∀ (i : Nat) (sp : Split), g.splits[i]? = some sp → g.canRelease sp = true →
      let ends := fun (x : Instr) (keep : State → Prop) => ∃ t, exec x s = .next t ∧ SameMemory s t ∧ GoesOn s t core gang i ∧ keep t
      (sp.wait = .rrel → writesOut s core gang = false → ends (.blockReturn core gang i) (fun t => (t.gangAt core gang).ext = none ∧
        ∀ rg < 64, ∀ l < 32, (t.gangAt core gang).cell rg l = g.cell rg l)) ∧
      (sp.wait = .ifence → g.atomicsOut = false → ends (.ifenceDiscard core gang i) (fun t => (t.coreAt core).ibuf = s.mem)) ∧
      (∀ kind va asid, sp.wait = .tlbi kind va asid → kind < 3 → g.atomicsOut = false → ends (.tlbiRemove core gang i) (fun t =>
        ∀ c e, e ∈ SMap.get [] t.tlb c ↔ e ∈ SMap.get [] s.tlb c ∧ ((kind = 0 ∧ ¬(e.asid = asid ∧ e.page ≤ va.toNat / 65536 ∧
          va.toNat / 65536 < e.page + e.pages)) ∨ (kind = 1 ∧ e.asid ≠ asid))))) ∧
    (∀ (slice i j : Nat) (e : DPEntry) (rest : List DPEntry) (a b : Split), slice < 8 → SMap.get [] g.dp slice = e :: rest →
      g.splits[i]? = some a → g.splits[j]? = some b → a.path = some 0 → b.path = some 1 →
      (∀ n x, g.splits[n]? = some x → x.slices.getLsbD slice = true → n = i ∨ n = j) →
      (∀ x : Split, x = a ∨ x = b → x.slices = BitVec.ofNat 8 (2 ^ slice) ∧ x.pc = e.join ∧ x.nextPlane = 0 ∧ x.wait = .none ∧
        g.canRelease x = true) →
      ∃ t m, exec (.dualPathPop core gang slice) s = .next t ∧ SameMemory s t ∧ m ∈ (t.gangAt core gang).splits ∧ m.pc = e.join ∧
        m.path = e.outer ∧ m.slices = a.slices ∧ m.lanes = a.lanes ||| b.lanes ∧
        (∀ p, e.parked = some p → p ∈ (t.gangAt core gang).splits) ∧
        ∀ n, SMap.get [] (t.gangAt core gang).dp n = if n = slice then rest else SMap.get [] g.dp n) ∧
    (∀ i, i < g.loads.length → exec (.loadReturn core gang i) s = .next (s.setGang core gang { g with loads := g.loads.eraseIdx i })) ∧
    (∀ (h : Hold) (i : Nat) (sp : Split), s.hold? w = some h → stopSplit s core g = some (i, sp) → g.dbgStop = none → g.service = none →
      ∃ t g', exec (.stopDelivery core gang) s = .next t ∧ t.msix = s.msix ++ [w.mailbox] ∧ g' = t.gangAt core gang ∧
        g' = { g with trapc := 0x22, trapa := 0, trappc := BitVec.ofNat 64 (if sp.wait = .none then sp.pc else sp.waitFirst),
                      trapl := g'.trapl, dbgStop := some (.stopRequest, i), stopReq := none, x := [] }) ∧
    (gang < w.kernel.gangs → w.ending = true → g.done = false → w.cluster = false → (∀ n < 4, SMap.get 0 g.c n = 0) →
      (∀ sp ∈ g.splits, Split.unfinished s core gang w g sp = false) → ∃ t, exec (.gangExitComplete core gang) s = .next t ∧
        ((t.gangAt core gang).done = true ∨ (t.coreAt core).wg = none)) ∧
    (gang < w.kernel.gangs → w.ending = false → g.done = false → w.kernel.lanes &&& ~~~g.exited = 0 → g.loads = [] → (∀ n < 4, SMap.get 0 g.c n = 0) →
      w.cluster = false →
      (g.cErr = [] → (∃ e ∈ w.gangs, e.1 ≠ gang ∧ e.2.done = false) → ∃ t, exec (.gangExitComplete core gang) s = .next t ∧
        SameMemory s t ∧ t = { s with cores := t.cores } ∧ (t.gangAt core gang).done = true ∧ (t.gangAt core gang).ext = none ∧
        ∀ n, n ≠ gang → t.gangAt core n = s.gangAt core n) ∧
      (g.cErr = [] → (∀ e ∈ w.gangs, e.1 ≠ gang → e.2.done = true) → ∃ t, exec (.gangExitComplete core gang) s = .next t ∧
        (t.coreAt core).wg = none) ∧
      (g.cErr ≠ [] → ∃ t, exec (.gangExitComplete core gang) s = .next t ∧ SameMemory s t ∧ (t.wgAt core).ending = true))

/-! ### What the Puone cores and the driver serve -/

/-- Services (11 R192, R216, 15 R248, R249, 17 R269, R270, 19 R280). A stopped gang goes on once its pages or frames are there, takes the trap in its handler, or its workgroup ends with the cause; a stopped command runs again, or ends the workgroup; the duration is charged to the domain. A command that waits for backing runs again when a page is added, or ends the workgroup with 0x13. A soft error is counted or marks the data of its unit. Which faults a table entry can cause is the model's reading, and what the driver decides is an operand of each service (log 7). Where the splits of a workgroup that ends stop (log 40), the die of a frame (log 68), the end of a fabric write that waits (log 72) and the mark that its domain has caused traffic (log 20) are the model's. A gang that is resumed changes in nothing but its service. -/
def Obligations.Services : Prop :=
  (∀ (s : State) (core gang : Nat) (v : Service), (s.gangAt core gang).service = some v →
    let w := s.wgAt core
    let g := s.gangAt core gang
    let resumed := fun (x : Instr) (keep : State → Prop) => ∃ t, exec x s = .next t ∧ SameMemory s t ∧
      t.gangAt core gang = { g with service := none } ∧
      SMap.get 0 t.acct (16 * w.domain.toNat + 8) = SMap.get 0 s.acct (16 * w.domain.toNat + 8) + (s.time - v.since).toNat ∧ keep t
    let delivered := fun (x : Instr) (code : Nat) => ∀ off sp, w.kernel.trapOff = some off → g.handler = none → g.splits[v.split]? = some sp →
      ∃ t sp', exec x s = .next t ∧ SameMemory s t ∧ (t.gangAt core gang).service = none ∧
        (t.gangAt core gang).trapc = BitVec.ofNat 64 code ∧ (t.gangAt core gang).trapa = v.addr ∧
        (t.gangAt core gang).trappc = BitVec.ofNat 64 v.pc ∧ (t.gangAt core gang).trapl = v.trapl ∧
        (t.gangAt core gang).splits[v.split]? = some sp' ∧ sp'.pc = off ∧ sp'.stopped = false
    let ended := fun (x : Instr) (code : Nat) => ∃ t, exec x s = .next t ∧ SameMemory s t ∧ Ends s t core ∧
      ∀ l, SMap.get none s.launches w.launch = some l → ∃ l', SMap.get none t.launches w.launch = some l' ∧
        l'.status = some (l.status.getD ⟨code, w.node, w.rank, 0, v.trapl, BitVec.ofNat 64 v.pc, v.addr⟩)
    let mapped := fun (p : Nat) (e : W64) (t : State) => SMap.get none t.leaves (leafKey w.asid p) = some e ∧
      ∀ c, ∀ x ∈ SMap.get [] t.tlb c, ¬(x.asid = w.asid ∧ x.page ≤ p ∧ p < x.page + x.pages)
    (∀ (p : Nat) (e : W64), p < 2 ^ 41 → s.regionOf w.asid p = none →
      v.cause = .translation ∨ (v.cause = .protection ∧ v.malformed = false ∧ v.faults ≠ [] ∧ ∃ va, spaceOf v.addr = .global va) →
      resumed (.faultService core gang (.resume [(p, e)])) (mapped p e)) ∧
    (v.cause = .translation → ended (.faultService core gang .terminate) 0x10) ∧
    (v.cause = .protection → v.malformed = true → ended (.faultService core gang .terminate) 0x11) ∧
    (v.cause = .protection → v.malformed = false → delivered (.faultService core gang .deliver) 0x11) ∧
    (v.cause = .backingExhausted →
      (∀ f, s.frameNew f = true → resumed (.backingService core gang (.toPool [f])) (fun t =>
        SMap.get [] t.pool (f / 68719476736) = SMap.get [] s.pool (f / 68719476736) ++ [f])) ∧
      (∀ i n o r fs, placeOf s core v.addr = .page i n o → SMap.get none s.regions i = some r → (∀ f ∈ fs, s.frameNew f = true) → fs.Nodup →
        fs.map (fun f => f / 68719476736) = [0, 1, 2, 3] → resumed (.backingService core gang (.toReserve fs)) (fun t =>
          ∃ r', SMap.get none t.regions i = some r' ∧ r'.reserve = r.reserve + 1)) ∧
      delivered (.backingService core gang .deliver) 0x13 ∧ ended (.backingService core gang .terminate) 0x13) ∧
    (v.cause = .integrity → ended (.integrityService core (some gang)) 0x15)) ∧
  (∀ (s : State) (core : Nat), let w := s.wgAt core
    let same := fun (t : State) => SameMemory s t ∧ ∀ n, (t.gangAt core n).v = (s.gangAt core n).v ∧ (t.gangAt core n).s = (s.gangAt core n).s ∧
      (t.gangAt core n).splits = (s.gangAt core n).splits
    let ended := fun (x : Instr) (gang : Nat) (fs : List CmdFault) => fs ≠ [] →
      (∀ f ∈ fs, f.cause = .translation ∨ f.cause = .protection ∨ f.cause = .integrity) → ∃ t f c, exec x s = .next t ∧ SameMemory s t ∧
      Ends s t core ∧ f ∈ fs ∧ f.cause = c ∧ (∀ y ∈ fs, y.cause = c → f.addr ≤ y.addr) ∧
      ((∃ y ∈ fs, y.cause = .integrity) → c = .integrity) ∧
      ((∀ y ∈ fs, y.cause ≠ .integrity) → (∃ y ∈ fs, y.cause = .protection) → c = .protection) ∧
      ∀ l, SMap.get none s.launches w.launch = some l → ∃ l', SMap.get none t.launches w.launch = some l' ∧
        l'.status = some (l.status.getD ⟨c.code, w.node, w.rank, 0, BitVec.ofNat 64 (gang % 16 * 2 ^ 16), 0, f.addr⟩)
    let replays := fun (fs : List CmdFault) => ∀ f ∈ fs, f.cause = .translation ∨
      (f.cause = .protection ∧ f.malformed = false ∧ ∃ va, spaceOf f.addr = .global va)
    (∀ c rest, w.mq = c :: rest → c.state = .faulted →
      (∀ ls, replays c.faults → ∃ t, exec (.commandFaultService core .matrix (.replay ls)) s = .next t ∧ same t ∧
        (t.wgAt core).mq = { c with state := .running, faults := [] } :: rest) ∧
      ended (.commandFaultService core .matrix .terminate) c.gang c.faults ∧
      ((∃ f ∈ c.faults, f.cause = .integrity) → ended (.integrityService core none) c.gang c.faults)) ∧
    (∀ c rest, w.cq = c :: rest → c.state = .faulted →
      (∀ ls, replays c.faults → ∃ t, exec (.commandFaultService core .copy (.replay ls)) s = .next t ∧ same t ∧
        (t.wgAt core).cq = { c with state := if c.kind ≠ .cpy ∧ c.idx = [] then .queued else .running, faults := [] } :: rest) ∧
      ended (.commandFaultService core .copy .terminate) c.gang c.faults) ∧
    (∀ f, s.frameNew f = true → let added := fun (t : State) => SMap.get [] t.pool (f / 68719476736) = SMap.get [] s.pool (f / 68719476736) ++ [f]
      (∀ c rest, w.cq = c :: rest → c.state = .backing → ∃ t, exec (.engineBackingWait core .copy (.add f)) s = .next t ∧ same t ∧ added t ∧
        (t.wgAt core).cq = { c with state := .running } :: rest) ∧
      (∀ c rest, w.mq = c :: rest → c.state = .backing → ∃ t, exec (.engineBackingWait core .matrix (.add f)) s = .next t ∧ same t ∧ added t ∧
        (t.wgAt core).mq = { c with state := .running } :: rest)) ∧
    let without := fun (x : Instr) (gang : Nat) => ∃ (t : State) (a : W64), exec x s = .next t ∧ SameMemory s t ∧ Ends s t core ∧
      ∀ l, SMap.get none s.launches w.launch = some l → ∃ l', SMap.get none t.launches w.launch = some l' ∧
        l'.status = some (l.status.getD ⟨0x13, w.node, w.rank, 0, BitVec.ofNat 64 (gang % 16 * 2 ^ 16), 0, a⟩)
    (∀ c rest, w.cq = c :: rest → c.state = .backing → without (.engineBackingWait core .copy .terminate) c.gang) ∧
    (∀ c rest, w.mq = c :: rest → c.state = .backing → without (.engineBackingWait core .matrix .terminate) c.gang) ∧
    (∀ p pages rest asid va bs bad, s.fabWaits = (p, pages) :: rest → p.op = .write asid va bs bad →
      let backed := (vaWrites s asid va bs).filter (fun x => !x.1.inPages pages)
      let marks := (vaBad s asid va bad).filter (fun q => !q.inPages pages)
      exec (.engineBackingWait core .fabric .decline) s =
        .next { (writePoisoned backed marks [] s).1.markTraffic p.domain with fabWaits := rest } ∧
      exec (.engineBackingWait core .fabric .terminate) s = .next { s with fabWaits := rest } ∧
      ∀ f u, writeImage asid va bs bad (addFrames [f] s) = some u →
        exec (.engineBackingWait core .fabric (.add f)) s = .next { u.markTraffic p.domain with fabWaits := rest })) ∧
  (∀ (s : State) (e : SoftErr), s.pstate = .off → exec (.errorCorrection e) s = .next s) ∧
  (∀ (s : State) (e : SoftErr), s.pstate ≠ .off → let t := exec (.errorCorrection e) s
    (e = .corrected → t = .next { s with corrected := s.corrected + 1 }) ∧
    (∀ pa n, (e = .memory pa ∧ n = 32) ∨ (e = .cached pa ∧ n = 8) → pa < 2 ^ 38 → ∃ u, t = .next u ∧ u = { s with poison := u.poison } ∧
      ∀ k, SMap.get false u.poison k = (decide (k / n = pa / n) || SMap.get false s.poison k)) ∧
    (∀ core off, e = .scratchpad core off → off < 786432 → ∃ u, t = .next u ∧ SameMemory s u ∧
      ∀ k, u.poisonAt (.pad core k) = (decide (k / 8 = off / 8) || s.poisonAt (.pad core k))) ∧
    (∀ core key, e = .accumulator core key → key < 32768 → ∃ u, t = .next u ∧ SameMemory s u ∧
      ∀ k, SMap.get false (u.coreAt core).store.accBad k = (decide (k / 2 = key / 2) || SMap.get false (s.coreAt core).store.accBad k)) ∧
    (∀ core gang pl i l x, e = .latch core gang pl i l → pl < 4 → i < 4 → l < 32 → (s.coreAt core).wg ≠ none →
      (s.gangAt core gang).latch pl i l = some x →
      ∃ u, t = .next u ∧ SameMemory s u ∧ (u.gangAt core gang).latch pl i l = some { x with bad := true }) ∧
    (∀ core gang rg l, e = .register core gang rg l → l < 32 → (s.coreAt core).wg ≠ none → rg < 128 →
      rg < 64 ∨ (s.gangAt core gang).ext ≠ none →
      ∃ u, t = .next u ∧ SameMemory s u ∧ (u.gangAt core gang).cell rg l = { (s.gangAt core gang).cell rg l with bad := true }) ∧
    (∀ i n b, e = .differs i n → s.backedAt i n = some b → ∃ u, t = .next u ∧ u.backedAt i n = some { b with bad := true }))

/-! ### Host calls -/

/-- Doorbells and calls (21 R312 to R314, R317, R323). A doorbell queues its call, or is counted where nothing is bound. A LOAD that can be placed fills the lowest free slot; a LAUNCH that validates becomes a launch of its nodes, and one that does not is counted and answered; a FREE waits until no running launch uses its slot. A call is counted as it is taken, and one that is answered signals the mailbox. Where the driver places an object is an operand of LOAD (log 8), and what it lacks for a launch is a field of State (log 80); that a call which is taken may be traffic of its binding's domain is the model's mark (log 20). -/
def Obligations.HostCalls : Prop :=
  (∀ (s : State) (m : BitVec 6) (a : W64) (host : Bool), s.boot = .done → s.pstate ≠ .off →
    let b := s.mailbox m.toNat
    let woken := { s with preq := if s.pstate = Power.deep then Power.active else s.preq }
    exec (.doorbell m a host) s = .next (woken.setMailbox m.toNat
      (if b.bound = none then { b with accepted := b.accepted + 1 } else { b with calls := b.calls ++ [(⟨a, host, SMap.get 0 s.clock 0, s.time⟩ : Call)] }))) ∧
  (∀ (s : State) (m : BitVec 6) (t : Taken), s.nextCall m.toNat = some t →
    let taken := takeCall m.toNat s
    let b := s.mailbox m.toNat
    let refused := fun (code : Nat) (i : Instr) => exec i s = .next (answer m.toNat t ⟨code, 0, 0, 0, 0, 0, 0⟩ taken)
    let counted := fun (u : State) => (u.mailbox m.toNat).accepted = b.accepted + 1 ∧ (u.mailbox m.toNat).calls = b.calls.drop 1
    (∀ (c : Placement), t.r.op = 1 →
      (t.r.ok = false ∨ parseObject taken ⟨t.b.asid, t.r.addr⟩ t.b.domain = none → refused 0x41 (.load m c)) ∧
      (∀ (p : Parsed) (slot : Nat) (placed : State), t.r.ok = true → parseObject taken ⟨t.b.asid, t.r.addr⟩ t.b.domain = some p →
        slot < 256 → SMap.get none s.objs slot = none → (∀ i < slot, SMap.get none s.objs i ≠ none) → loadFits taken p.regions = true →
        indicesOk taken p.regions.length c.regions = true →
        (let ready := setLeaves t.b.asid c.leaves ((c.regions.zip p.regions).foldl (fun s r => createRegion r.1 r.2 s) taken)
         placementOk ready t.b.asid p c.bases = true ∧ placeImages ⟨t.b.asid, t.r.addr⟩ p c.bases ready = some placed) →
        ∃ u o, exec (.load m c) s = .next u ∧ counted u ∧ u.msix = s.msix ++ [m.toNat] ∧ SMap.get none u.objs slot = some o ∧
          o.mailbox = m.toNat ∧ o.tenant = t.b.tenant ∧ o.asid = t.b.asid ∧ o.regions = c.regions ∧
          o.kernels.map (fun k => k.shape) = p.kernels.map (fun k => k.1) ∧
          (∀ i, i ≠ slot → SMap.get none u.objs i = SMap.get none s.objs i) ∧
          ∀ x ∈ c.regions.zip p.regions, ∃ r : Region, SMap.get none u.regions x.1 = some r ∧ r.base = x.2.base ∧ r.pages = x.2.pages ∧
            r.default = x.2.default ∧ r.reserve = x.2.reserve)) ∧
    (t.r.op = 2 → ∀ nodes, validate (taken.charge t.b.domain 7 1) m.toNat t = .ok nodes → ∃ u l, exec (.launch m) s = .next u ∧
      counted u ∧ u.nextLaunch = s.nextLaunch + 1 ∧ SMap.get none u.launches s.nextLaunch = some l ∧ l.mailbox = m.toNat ∧
      l.call = b.accepted + 1 ∧ l.tenant = t.b.tenant ∧ l.asid = t.b.asid ∧ l.stamp = t.call.stamp ∧ l.nodes.length = nodes.length ∧
      l.status = none ∧ l.statAddr = t.r.stat ∧ l.timeAddr = t.r.timeAddr ∧
      SMap.get 0 u.acct (16 * t.b.domain.toNat + 7) = SMap.get 0 s.acct (16 * t.b.domain.toNat + 7) + 1) ∧
    (t.r.op = 2 → ∀ st, validate (taken.charge t.b.domain 7 1) m.toNat t = .error st → ∃ u, exec (.launch m) s = .next u ∧
      counted u ∧ u.nextLaunch = s.nextLaunch ∧ u.launches = s.launches ∧ u.msix = s.msix ++ [m.toNat] ∧
      SMap.get 0 u.acct (16 * t.b.domain.toNat + 7) = SMap.get 0 s.acct (16 * t.b.domain.toNat + 7) + 1) ∧
    (t.r.op = 3 → b.frees = [] →
      (t.r.ok = false → refused 0x41 (.free m)) ∧
      (t.r.ok = true → s.ownObj t.b.tenant t.r.slot = none → refused 0x43 (.free m)) ∧
      (t.r.ok = true → s.ownObj t.b.tenant t.r.slot ≠ none → s.slotUsed t.r.slot = true →
        exec (.free m) s = .next ((s.markTraffic t.b.domain).setMailbox m.toNat
          { b with accepted := b.accepted + 1, calls := b.calls.drop 1, frees := [(t.r.slot, t.r.stat)] })) ∧
      (t.r.ok = true → s.ownObj t.b.tenant t.r.slot ≠ none → s.slotUsed t.r.slot = false → ∃ u, exec (.free m) s = .next u ∧ counted u ∧
        (u.mailbox m.toNat).frees = [] ∧ u.msix = s.msix ++ [m.toNat] ∧ SMap.get none u.objs t.r.slot = none ∧
        ∀ i, i ≠ t.r.slot → SMap.get none u.objs i = SMap.get none s.objs i)))

/-- Requests of system software and of debuggers (21 R317 to R319, 23 R347 to R350, 25 R380). A request that the mailbox may make and whose operands are legal is performed and answered with status 0; one it may not make is answered with 0x43, and nothing else changes. That operands which a request does not use must be zero, and the order of the refusals, are the model's readings (log 51, 60). So are the stop of a terminated workgroup (log 40) and the point at which a stop is delivered (log 50); the die of a frame (log 68) and the hash of EXTEND, SHAKE256 of FIPS 202 (log 18), are the model's. -/
def Obligations.Requests : Prop :=
  ∀ (s : State) (m : BitVec 6) (t : Taken) (q : Request), s.nextCall m.toNat = some t → t.r.op = 4 → t.r.ok = true →
    q = s.requestRec t.b.asid t.r.addr → q.ok = true →
    let taken := takeCall m.toNat s
    let done := fun (i : Instr) (detail : W64) (keep : State → Prop) => ∃ u, keep u ∧
      exec i s = .next (answer m.toNat t ⟨0, 0, 0, detail, 0, 0, 0⟩ u)
    let refused := fun (code : Nat) (i : Instr) => exec i s = .next (answer m.toNat t ⟨code, 0, 0, 0, 0, 0, 0⟩ taken)
    let sys := fun (i : Instr) (detail : W64) (keep : State → Prop) => if m = 63 then done i detail keep else refused 0x43 i
    let addr := BitVec.ofNat 64 q.arg2
    let bytes := fun (n : Nat) => readVa taken t.b.asid addr n
    let frees := fun (u : State) (d : Nat) => SMap.get [] u.pool d
    (q.code = 1 → 4 ≤ q.arg0 → q.arg0 ≤ 7 → q.arg1 = 0 → q.arg3 = 0 → reachable taken t.b.asid addr 64 = true →
      sys (.extend m) 0 (fun u =>
        let x := shake256 (leBytes 64 (SMap.get 0 s.meas q.arg0).toNat ++ bytes 64)
        u = { taken with meas := SMap.set 0 s.meas q.arg0 (BitVec.ofNat 512 (numOf x)) })) ∧
    (q.code = 2 → q.arg0 ≤ 5 → 1 ≤ q.arg1 → q.arg1 ≤ 65535 → q.arg2 = 0 → q.arg3 = 0 →
      sys (.setage m) 0 (fun u => u = { taken with age := SMap.set 500 s.age q.arg0 q.arg1 })) ∧
    (q.code = 3 → q.arg0 < 4 → 1 ≤ q.arg1 → q.arg1 ≤ 65536 → q.arg3 = 0 → reachable taken t.b.asid addr (8 * q.arg1) = true →
      let frames := (List.range q.arg1).map (fun i => numOf (readVa taken t.b.asid (BitVec.ofNat 64 (q.arg2 + 8 * i)) 8) * 65536)
      (∀ f ∈ frames, taken.frameNew f = true ∧ f / 68719476736 = q.arg0) → frames.Nodup →
      sys (.pooladd m) (BitVec.ofNat 64 ((frees s q.arg0).length + q.arg1))
        (fun u => u = { taken with pool := SMap.set [] s.pool q.arg0 (frees s q.arg0 ++ frames) })) ∧
    (∀ r, q.code = 4 → q.arg0 < 4096 → q.arg1 < 2 ^ 32 → q.arg2 = 0 → q.arg3 = 0 → SMap.get none s.regions q.arg0 = some r →
      (∀ d < 4, q.arg1 - r.reserve ≤ (frees s d).length) → sys (.reserve m) 0 (fun u => ∃ r', SMap.get none u.regions q.arg0 = some r' ∧
        r'.reserve = q.arg1 ∧ (∀ i, i ≠ q.arg0 → SMap.get none u.regions i = SMap.get none s.regions i) ∧
        ∀ d < 4, (frees u d).length = if r.reserve < q.arg1 then (frees s d).length - (q.arg1 - r.reserve)
          else (frees s d).length + min (r.reserve - q.arg1) (SMap.get [] r.free d).length)) ∧
    (q.code = 5 → q.arg0 < 64 → q.arg1 < 2 ^ 24 → q.arg3 < 2 ^ 16 → q.arg2 % 4096 = 0 → q.arg2 < 2 ^ 38 →
      (if q.arg0 = 63 then q.arg3 = 0 ∧ q.arg1 % 2 ^ 16 = 0xFFFF ∧ s.running 63 = false else q.arg1 % 2 ^ 16 ≠ 0xFFFF) →
      sys (.bind m) 0 (fun u => (u.mailbox q.arg0).bound = some ⟨q.arg1 % 2 ^ 16, q.arg3, BitVec.ofNat 8 (q.arg1 / 2 ^ 16)⟩ ∧
        SMap.get none u.roots q.arg3 = some q.arg2 ∧ SMap.get none u.tenantDebug q.arg0 = none)) ∧
    (q.code = 6 → q.arg0 < 63 → q.arg1 = 0 → q.arg2 = 0 → q.arg3 = 0 → (taken.mailbox q.arg0).calls = [] →
      (taken.mailbox q.arg0).frees = [] → s.running q.arg0 = false → (∀ i o, SMap.get none s.objs i = some o → o.mailbox ≠ q.arg0) →
      SMap.wf none s.objs = true →
      sys (.unbind m) 0 (fun u => (u.mailbox q.arg0).bound = none ∧ SMap.get none u.tenantDebug q.arg0 = none)) ∧
    (q.code = 7 → q.arg0 < 4 → q.arg1 < 2 ^ 32 → q.arg1 / 2 % 2 ^ 15 = 0 → q.arg3 = 0 →
      let x := numOf (bytes 32)
      let trace := fun (u : State) => SMap.get TraceBuf.off u.traces q.arg0
      let edges := fun (u : State) => SMap.get EdgeBuf.off u.edges q.arg0
      (q.arg2 = 0 → sys (.buffer m) 0 (fun u => if q.arg1 % 2 = 0 then (trace u).en = false else (edges u).en = false)) ∧
      (∀ pa, q.arg2 ≠ 0 → devAddr taken t.b.asid addr = some pa → descOk x (q.arg1 % 2) pa = true →
        sys (.buffer m) 0 (fun u =>
          if q.arg1 % 2 = 0 then (trace u).en = true ∧ (trace u).base = x / 2 ^ 64 % 2 ^ 64 ∧ (trace u).nunits = x / 2 ^ 32 % 2 ^ 32 ∧
            (trace u).smplog = x / 2 ^ 24 % 2 ^ 8 ∧ (trace u).holder = q.arg1 / 2 ^ 16
          else (edges u).en = true ∧ (edges u).base = x / 2 ^ 64 % 2 ^ 64 ∧ (edges u).nunits = x / 2 ^ 32 % 2 ^ 32 ∧
            (edges u).holder = q.arg1 / 2 ^ 16))) ∧
    (∀ n l, s.named q = some (n, l) → SMap.get none s.launches n = some l →
      let own := fun (i : Instr) (keep : State → Prop) => if debugOk s m.toNat t.b l = true then done i 0 keep else refused 0x43 i
      let launch := fun (u : State) => SMap.get none u.launches n
      let gangs := fun (u : State) (p : Gang → Gang → Prop) => ∀ c g, (s.coreAt c).wg ≠ none → (s.wgAt c).launch = n →
        p (s.gangAt c g) (u.gangAt c g)
      (q.code = 8 → q.arg2 % 32 = 0 → 1 ≤ q.arg3 → q.arg3 ≤ 65536 → reachable taken t.b.asid addr (32 * q.arg3) = true → l.closed = false →
        own (.attach m) (fun u => launch u = some { l with hold := some ⟨t.b.asid, addr, q.arg3, 0⟩, armed := [] })) ∧
      (q.code = 9 → l.hold ≠ none → q.arg2 ≤ 1 → q.arg3 = 0 → own (.stop m) (fun u => gangs u (fun a b => b = if a.dbgStop ≠ none ∨ a.splits = [] then a
        else { a with stopReq := some (decide (q.arg2 = 1)) }))) ∧
      (q.code = 10 → l.hold ≠ none → q.arg3 = 0 → q.arg2 = 2 ^ 64 - 1 → own (.resume m) (fun u => gangs u (fun a b => b.dbgStop = none ∧
        (a.dbgStop = none → b = a) ∧
        ∀ i sp, a.dbgStop = some (.breakpoint, i) → a.splits[i]? = some sp → a.trapa.getLsbD 17 = false →
          ∃ sp', b.splits[i]? = some sp' ∧ sp'.pc = a.trappc.toNat + 1 ∧ sp'.slices = sp.slices ∧ sp'.lanes = sp.lanes))) ∧
      (q.code = 10 → l.hold ≠ none → q.arg3 = 0 → q.arg2 ≠ 2 ^ 64 - 1 →
        (∀ e ∈ s.cores, ∀ w, e.2.wg = some w → w.launch = n → q.arg2 < w.kernel.length) →
        (∀ e ∈ s.saved, ∀ x, e.2 = some x → x.wg.launch = n → q.arg2 < x.wg.kernel.length) →
        own (.resume m) (fun u => gangs u (fun a b => b.dbgStop = none ∧ (a.dbgStop = none → b = a) ∧
          ∀ c i sp, a.dbgStop = some (c, i) → a.splits[i]? = some sp →
            ∃ sp', b.splits[i]? = some sp' ∧ sp'.pc = q.arg2 ∧ sp'.slices = sp.slices ∧ sp'.lanes = sp.lanes))) ∧
      (q.code = 11 → l.hold ≠ none → q.arg3 = 0 → own (.arm m) (fun u =>
        let ids := ((List.range 4).map (fun i => BitVec.ofNat 16 (q.arg2 / 2 ^ (16 * i)))).filter (fun i => i ≠ 0)
        launch u = some { l with armed := ids })) ∧
      (q.code = 12 → l.hold ≠ none → q.arg2 = 0 → q.arg3 = 0 → own (.terminate m) (fun u =>
        (∃ l', launch u = some l' ∧ l'.status = some (l.status.getD ⟨0x22, 0, 0, 0, 0, 0, 0⟩)) ∧
        ∀ c, (s.coreAt c).wg ≠ none → (s.wgAt c).launch = n → (u.wgAt c).ending = true)) ∧
      (q.code = 13 → l.hold ≠ none → q.arg2 = 0 → q.arg3 = 0 → own (.detach m) (fun u =>
        launch u = some { l with hold := none, armed := [] } ∧ gangs u (fun _ b => b.dbgStop = none ∧ b.stopReq = none))))

/-! ### Scheduling and trace -/

/-- Dispatch, ageing, coalescing, context save (21 R324 to R332, 01 R15). The head entry of a die takes its cores: its workgroup starts with s1 to s15 from ARGS, or the record count and the records of its batch, every scratchpad byte else 0; a saved one stands as it was saved, and the statement is of one in which no CPY waits to be formed (21 R331). A node in cluster mode takes the four cores of one cluster, its ranks on them in order. An entry that waited longer than its ageing time rises a level; records older than TIMEOUT fire a batch; a pre-empted workgroup that stands is saved and its core is free. ACCTD at dispatch and after a restore, what an event does whose condition does not hold, the latch-free point, what a save waits for, the records that it drops and keeps, releases without their counts and what a gang knows among them, and the end of its services are the model's (log 15, 22, 50, 55, 69, 98, 99, 107). -/
def Obligations.Scheduling : Prop :=
  (∀ (s : State) (die i : Nat) (cores : List Nat) (e : Entry) (l : Launch) (n : Node), s.headEntry die = some (e, i) → s.eligible die e = some cores →
    SMap.get none s.launches e.launch = some l → s.nodeOf e.launch e.node = some n →
    let starts := fun (t : State) (core rank : Nat) (args : List W64) (scr : Nat → Byte) =>
      (t.coreAt core).wg ≠ none ∧ (t.wgAt core).launch = e.launch ∧ (t.wgAt core).node = e.node ∧ (t.wgAt core).rank = rank ∧
      (t.wgAt core).cluster = n.cluster ∧ (t.wgAt core).clrank = (if n.cluster then rank % 4 else 0) ∧
      (t.wgAt core).group = (if n.cluster then rank / 4 else 0) ∧
      (t.wgAt core).level = e.level ∧ (t.wgAt core).kernel = n.kernel ∧ (t.wgAt core).priv = n.priv ∧ (t.wgAt core).asid = l.asid ∧
      (∀ off, SMap.get 0 (t.coreAt core).store.scr off = scr off) ∧ (∀ k, SMap.get 0 (t.coreAt core).store.acc k = 0) ∧
      ∀ g < n.kernel.gangs, ∃ sp, (t.gangAt core g).splits = [sp] ∧ sp.pc = 0 ∧ sp.lanes = n.kernel.lanes ∧ sp.path = none ∧ sp.wait = .none ∧
        sp.pfx = [] ∧ sp.skip = [] ∧ sp.chain = [] ∧ sp.stopped = false ∧ (t.gangAt core g).acctd = n.domain ∧
        (t.gangAt core g).role = n.kernel.role g ∧ (t.gangAt core g).blame = 0 ∧ (t.gangAt core g).mode = 0 ∧
        (∀ r < 63, (t.gangAt core g).sreg (r + 1) = args.getD r 0) ∧
        (∀ rg < 64, ∀ k < 32, (t.gangAt core g).cell rg k = ⟨0, .b32, false⟩)
    (cores.length = if n.cluster then 4 else 1) ∧
    let ranked := fun (t : State) (k : Nat) => ∃ n', t.nodeOf e.launch e.node = some n' ∧ n'.nextRank = n.nextRank + k
    (e.job = .fixed → n.args.length ≤ 15 → ∃ t, exec (.dispatch die) s = .next t ∧ ranked t cores.length ∧
      ∀ (j core : Nat), cores[j]? = some core → starts t core (n.nextRank + j) n.args (fun _ => 0)) ∧
    (∀ m core, e.job = .batch m → cores = [core] → n.args.length ≤ 15 → ∃ t, exec (.dispatch die) s = .next t ∧ ranked t 1 ∧
      starts t core n.nextRank (BitVec.ofNat 64 m :: n.args.drop 1)
      (fun off => if off < m * n.rsize then SMap.get 0 s.mem (n.qbase.toNat + n.freed % n.qsize * n.rsize + off) else 0)) ∧
    (∀ ids, e.job = .saved ids → ids.Nodup → (∀ k ∈ ids, ∀ x, SMap.get none s.saved k = some x → ∀ q ∈ x.wg.gangs, ∀ sp ∈ q.2.splits,
        ∀ r l n j ix, sp.wait ≠ .forming r l n j ix) → ∃ t, exec (.dispatch die) s = .next t ∧
      ∀ (j core k : Nat) (x : Saved), cores[j]? = some core → ids[j]? = some k → SMap.get none s.saved k = some x →
      (t.coreAt core).store = x.store ∧ SMap.get none t.saved k = none ∧ (t.wgAt core).level = e.level ∧ (t.wgAt core).bars = x.wg.bars ∧
      (t.wgAt core).rings = x.wg.rings ∧ (t.wgAt core).mq = x.wg.mq ∧ (t.wgAt core).cq = x.wg.cq ∧
      ∀ g, ∃ pm en sy ac, t.gangAt core g =
        { SMap.get Gang.empty x.wg.gangs g with permit := pm, traceEn := en, syncDue := sy, acctd := ac })) ∧
  (∀ (s : State) (i : Nat) (e : Entry) (t0 : W64), s.ready[i]? = some e → e.since = some t0 →
    (e.level < 6 → SMap.get 500 s.age e.level * 1000 < (s.time - t0).toNat → s.entryLive e = true → ∃ t, exec (.ageing i) s = .next t ∧
      { e with level := e.level + 1, since := some s.time } ∈ t.ready) ∧
    (6 ≤ e.level ∨ (s.time - t0).toNat ≤ SMap.get 500 s.age e.level * 1000 → exec (.ageing i) s = .next s)) ∧
  (∀ (s : State) (launch node : Nat) (l : Launch) (n : Node) (t0 : W64), SMap.get none s.launches launch = some l →
    s.nodeOf launch node = some n → s.recordTime n = some t0 → n.mode1 = true → n.timeout ≠ 0 → l.status = none → n.complete = false →
    n.timeout * 1000 < (s.time - t0).toNat → operandsFree s launch node l.asid n = true →
    ∃ t x, exec (.coalesceTimeout launch node) s = .next t ∧ x ∈ t.ready ∧ x.launch = launch ∧ x.node = node ∧ x.level = n.prio ∧
      x.job = .batch (min (min (n.pushed - n.freed - n.fired) n.count) (n.qsize - (n.freed + n.fired) % n.qsize))) ∧
  (∀ (s : State) (core : Nat), (s.wgAt core).cluster = false → memberSaveable s core = true →
    let w := s.wgAt core
    let stands := fun (sp : Split) => match sp.wait with
      | .racq => { sp with pc := sp.waitFirst, wait := .none, nextPlane := 0 }
      | .passed obj by_ rels => { sp with wait := .passed obj by_ (rels.map RelInfo.uncounted) }
      | _ => sp
    ∃ t x e, exec (.contextSave core) s = .next t ∧ (t.coreAt core).wg = none ∧ SMap.get none t.saved s.nextSaved = some x ∧
      t.nextSaved = s.nextSaved + 1 ∧ e ∈ t.ready ∧ e.job = .saved [s.nextSaved] ∧ e.level = w.level ∧ e.launch = w.launch ∧ e.node = w.node ∧
      (∀ off < w.kernel.scratch, SMap.get 0 x.store.scr off = SMap.get 0 (s.coreAt core).store.scr off) ∧
      (∀ k, SMap.get 0 x.store.acc k = SMap.get 0 (s.coreAt core).store.acc k) ∧ (∀ i, let b := w.bar i
        let y := x.wg.bar i
        y = { b with rel := b.rel.map RelInfo.uncounted, relDone := y.relDone } ∧
          ∀ k, SMap.get [] y.relDone k = (SMap.get [] b.relDone k).map RelInfo.uncounted) ∧
      (∀ g k, (x.wg.ring g).at k = { (w.ring g).at k with rel := ((w.ring g).at k).rel.map RelInfo.uncounted }) ∧ x.services = w.services ∧
      ∀ g, let a := s.gangAt core g
        let b := SMap.get Gang.empty x.wg.gangs g
        b.v = a.v ∧ b.s = a.s ∧ b.p = a.p ∧ b.om = a.om ∧ b.c = a.c ∧ b.regions = a.regions ∧ b.plane = a.plane ∧
        b.splits = a.splits.map stands ∧ b.dp = a.dp.map (fun e => (e.1, e.2.map (fun d => { d with parked := d.parked.map stands }))) ∧
        b.flags = a.flags ∧ b.mode = a.mode ∧ b.blame = a.blame ∧ b.trapc = a.trapc ∧ b.trapa = a.trapa ∧ b.trappc = a.trappc ∧
        b.trapl = a.trapl ∧ b.handler = a.handler ∧ b.traceEn = a.traceEn ∧ b.acctd = 0 ∧ b.x = [] ∧ b.rc = 0 ∧ b.acq = [] ∧ b.vr = [] ∧ b.know = a.know ∧ b.cErr = a.cErr ∧
        b.cLast = [] ∧ b.mrec = MRec.zero)

/-- Samples, the collector and edge buffers (23 R353, R356, R358, R361 to R363): a sample is a packet of the next gang in rotation, with WAIT 0 when its split issued in the clock that the sample closes (logs 3, 57); the packet at the head of the queue goes into the open frame, a SYNC with the TIME that the frame's pair converts its clock to, or closes a frame it does not fit or whose frequency is another, or opens a frame filled with 0xFF; after drops a LOSS with their count joins the queue as soon as an entry is free, and once it is written every gang of the die owes a SYNC; a pending pair record goes into the next free unit of the edge buffer, and then the LOSS record of the edges dropped. That a queued packet from before a frequency change closes the open frame, and that a frame opened for it takes the packet's own frequency and pair, are the model's reading (log 106). The point at which a gang can be sampled is the model's reading (log 50), and an event that finds nothing to do does nothing (log 22). -/
def Obligations.TraceEvents : Prop :=
  (∀ (s : State) (core i : Nat) (sp : Split), sampleDue s core = true → sampleGang s core = some (i, sp) →
    (s.traceBuf (core / 104)).queue.length < 62 → ∃ t p, exec (.traceSample core) s = .next t ∧ SameMemory s t ∧ SameRegisters s t ∧
      (t.coreAt core).smpLast = (s.clockAt core).toNat ∧ (t.coreAt core).smpRot = i ∧
      (t.traceBuf (core / 104)).queue.getLast? = some p ∧ p.type = 7 ∧ p.clock = s.clockAt core ∧
      (sp.issuedAt + 1 = (s.clockAt core).toNat → sp.issuedAt ≠ (s.wgAt core).dispatched → p.payload[6]? = some 0)) ∧
  (∀ (s : State) (die : Nat) (p : Packet) (rest : List Packet), (s.traceBuf die).queue = p :: rest →
    (∀ f, (s.traceBuf die).frame = some f → f.step = p.step → f.pos + (p.bytes f.clock).length ≤ 4096 → rest.length < 64 →
      let dropped := (s.traceBuf die).dropped
      let time := f.time0 + BitVec.ofNat 64 ((p.clock - f.clock0).toNat * 40 / (3 * f.freq))
      let q := if p.type = 2 then { p with payload := p.payload.take 10 ++ leBytes 8 time.toNat ++ p.payload.drop 18 } else p
      ∃ t, exec (.collectorWrite die) s = .next t ∧ SameRegisters s t ∧ (t.traceBuf die).dropped = 0 ∧
        (if dropped = 0 then (t.traceBuf die).queue = rest else ∃ x, (t.traceBuf die).queue = rest ++ [x] ∧ x.type = 0xB ∧
          x.payload = leBytes 4 (min dropped (2 ^ 32 - 1)) ∧ x.clock = SMap.get 0 s.clock die) ∧
        (p.type = 0xB → ∀ c g, c / 104 = die → (s.gangAt c g).splits ≠ [] → (t.gangAt c g).syncDue = true) ∧
        ∀ a, SMap.get 0 t.mem a = if f.addr + f.pos ≤ a ∧ a < f.addr + f.pos + (q.bytes f.clock).length then
          (q.bytes f.clock).getD (a - (f.addr + f.pos)) 0 else SMap.get 0 s.mem a) ∧
    (∀ f, (s.traceBuf die).frame = some f → f.step ≠ p.step ∨ 4096 < f.pos + (p.bytes f.clock).length →
      ∃ t, exec (.collectorWrite die) s = .next t ∧ SameRegisters s t ∧ (t.traceBuf die).queue = p :: rest ∧
        (t.traceBuf die).wr = (s.traceBuf die).wr + 1) ∧
    ((s.traceBuf die).frame = none → (s.traceBuf die).en = true → s.frameFree (s.traceBuf die) = true →
      let base := (s.traceBuf die).base + (s.traceBuf die).wr % (s.traceBuf die).nunits * 4096
      ∃ t f, exec (.collectorWrite die) s = .next t ∧ SameRegisters s t ∧ (t.traceBuf die).queue = p :: rest ∧
        (t.traceBuf die).frame = some f ∧ f.addr = base ∧ f.pos = 23 ∧ f.clock = p.clock ∧ f.clock0 = p.clock ∧ f.time0 = p.time ∧
        f.freq = p.freq ∧ f.step = p.step ∧
        (∀ a, a < base ∨ base + 4096 ≤ a → SMap.get 0 t.mem a = SMap.get 0 s.mem a) ∧
        ∀ a, base + 23 ≤ a → a < base + 4096 → SMap.get 0 t.mem a = 0xFF)) ∧
  (∀ (s : State) (die : Nat), let b := s.edgeBuf die
    let writes := fun (rec : List Byte) (b' : EdgeBuf) => ∃ t, exec (.edgeLossWrite die) s = .next t ∧ SameRegisters s t ∧
      t.edgeBuf die = { b' with wr := b.wr + 1 } ∧
      ∀ q : Place, q.plain = true → t.byteAt q = lastWrite (unitWrites48 b b.wr rec) q (s.byteAt q)
    (b.pair = none → b.dropped = 0 → exec (.edgeLossWrite die) s = .next s) ∧
    (b.en = false ∨ s.unitFree b.desc b.wr b.nunits = false → exec (.edgeLossWrite die) s = .next s) ∧
    (b.en = true → s.unitFree b.desc b.wr b.nunits = true →
      (∀ clock time freq, b.pair = some (clock, time, freq) → b.dropped = 0 →
        writes (edgeRecord time.toNat clock.toNat 0 0 0 freq 0xFFFFFFFE 0 0) { b with pair := none }) ∧
      (b.pair = none → 0 < b.dropped →
        writes (edgeRecord b.dropClock2.toNat b.dropClock1.toNat 0 0 0 (min b.dropped (2 ^ 32 - 1)) 0xFFFFFFFF b.dropLast.toNat b.dropFirst.toNat)
          { b with dropped := 0 }) ∧
      (b.pair ≠ none → 0 < b.dropped → ∃ t, exec (.edgeLossWrite die) s = .next t ∧ SameRegisters s t ∧
        (t.edgeBuf die = { b with pair := none, wr := b.wr + 1 } ∨ t.edgeBuf die = { b with pair := none, dropped := 0, wr := b.wr + 2 }))))

/-! ### The device and the world outside -/

/-- Device events (15 R249, R252, 19 R306, 25 R375 to R379, R384, R385, R387): the millisecond steps, packets of the fabric ports, a write without backing among them, and of the Ethernet ports, those of RDMA and of storage among them, a failed port, reads of BAR0 and accesses of BAR2, SYSCTL, power states, an accounting snapshot. The power model, the temperature and the boot's routes are operands or opaque constants (log 19, 52); a forwarded packet is charged at both ports (log 59). Which member of a barrier an arrival from the fabric counts as, the count that a snapshot carries, the operations of the Ethernet ports, the end of a fabric write that is not backed and the destination of a message between neighbours are the model's (log 44, 49, 71, 72, 96), and an event whose condition does not hold does nothing (log 22). That a fabric write or read may be traffic of its packet's domain is the model's mark (log 20); what a packet reports of a page whose differs bits cannot be corrected (log 82), how poison travels with data to and from the device (log 109), and that a call which has come since a request for DEEP or OFF makes the device give the request up (log 120), are its readings. -/
def Obligations.DeviceEvents : Prop :=
  ∀ (s : State),
    let off := s.pstate = Power.off
    (s.msPage < s.ms → ∃ ac, exec .pageSecondsTick s = .next { s with acct := ac, msPage := s.msPage + 1 } ∧
      ∀ d : BitVec 8, SMap.get 0 ac (16 * d.toNat + 5) = SMap.get 0 s.acct (16 * d.toNat + 5) +
        ((s.liveRegions.filter (fun r => r.2.domain == d)).map (fun r =>
          s.backed.countP (fun e => decide (e.1 / 2 ^ 32 = r.1) && e.2.isSome) +
          ((List.range 4).map (fun k => (SMap.get [] r.2.free k).length)).sum)).sum) ∧
    (∀ (power allowed : Nat) (hot : Bool), s.msFreq < s.ms → ¬off → ∃ t, exec (.freqUpdate power allowed hot) s = .next t ∧ t.msFreq = s.ms ∧
      t.thermal = (if hot then min (max (s.thermal - 1) 1) 30 else min (max allowed 1) 30) ∧
      t.fstep = min s.capstep (min (min (max power 1) 30) t.thermal) ∧ t.time = s.time ∧
      SameRegisters s t ∧ (t.fstep ≠ s.fstep → ∀ d < 4, (t.traceBuf d).frame = none)) ∧
    (∀ slew : Int, s.boot ≠ .done → exec (.timeSync slew) s = .next s) ∧
    (∀ slew : Int, s.msSync < s.ms → s.boot = .done → ¬off →
      let message := fun (k : Nat) => (k, (⟨BitVec.allOnes 20, BitVec.ofNat 20 s.devid, 0, .time s.time⟩ : FabPacket))
      ∃ t, exec (.timeSync slew) s = .next t ∧
        t = { s with sent := s.sent ++ ((List.range 16).filter (fun k => s.ports.getLsbD k)).map message, slew := t.slew, msSync := s.ms,
                     unsync := s.unsync && decide ((s.time - s.joined).toNat < 50000000) } ∧
        ((∀ d < s.devid % 2 ^ 20, s.routeTo d = none) → t.slew = 0) ∧ ((∃ d < s.devid % 2 ^ 20, s.routeTo d ≠ none) → t.slew = slew)) ∧
    (off → (∀ power allowed hot, exec (.freqUpdate power allowed hot) s = .next s) ∧ (∀ slew, exec (.timeSync slew) s = .next s) ∧
      (∀ n p, exec (.fabricPacket n p) s = .next s) ∧ (∀ n rs, exec (.portFailure n rs) s = .next s) ∧ ∀ n r, exec (.rocev2Packet n r) s = .next s) ∧
    (∀ (n : BitVec 4) (p : FabPacket), s.ports.getLsbD n.toNat = true → s.boot = .done → ¬off →
      let charged := fun (u : State) (k : Nat) => SMap.get 0 u.acct (16 * p.domain.toNat + 4) = SMap.get 0 s.acct (16 * p.domain.toNat + 4) + k
      let run := fun (keep : State → Prop) => ∃ t, exec (.fabricPacket n p) s = .next t ∧ keep t
      let reported := fun (asid : Nat) (va : W64) (k : Nat) =>
        (((List.range k).find? (fun i => s.badPage (placeAt s asid (va + BitVec.ofNat 64 i)))).map (fun i => va + BitVec.ofNat 64 i)).toList
      (∀ time, p.op = .time time → exec (.fabricPacket n p) s = .next s) ∧
      (p.dest.toNat ≠ s.devid % 2 ^ 20 → (∀ time, p.op ≠ .time time) →
        (∀ q, s.routeTo p.dest.toNat = some q → run (fun t => t.sent = s.sent ++ [(q, p)] ∧ charged t (2 * fabSize p.op))) ∧
        (s.routeTo p.dest.toNat = none → exec (.fabricPacket n p) s = .next s)) ∧
      (p.dest.toNat = s.devid % 2 ^ 20 →
        (∀ asid va bs bad, p.op = .write asid va bs bad → let crossed := chargeFabric p.domain bs.length s
          let told := { crossed with reports := s.reports ++ reported asid va bs.length }
          charged told bs.length ∧
          (∀ u, writeImage asid va bs bad told = some u → exec (.fabricPacket n p) s = .next (u.markTraffic p.domain)) ∧
          (writeImage asid va bs bad told = none → exec (.fabricPacket n p) s = .next { told with
            fabWaits := s.fabWaits ++ [(p, frameless told (unbackedBy told (vaWrites told asid va bs) (vaBad told asid va bad)))] })) ∧
        (∀ asid va k, p.op = .read asid va k → run (fun t => charged t k ∧ t.reports = s.reports ++ reported asid va k ∧
          SMap.get false t.traffic p.domain.toNat = true ∧
          t.sent = s.sent ++ [(n.toNat, ⟨p.sender, p.dest, p.domain, .message (readVa s asid va k)
            ((List.range k).filter (fun i => s.poisonAt (placeAt s asid (va + BitVec.ofNat 64 i))))⟩)])) ∧
        (∀ core bar blame, p.op = .arrive core bar blame → (s.coreAt core).wg ≠ none → bar < 16 →
          let b := (s.wgAt core).bar bar
          b.err = none → b.engArrived < b.engines → run (fun t => SameMemory s t ∧ ∃ (a : LastArr) (rl : List RelInfo),
            a.agent = BitVec.ofNat 64 (core / 104 * 2 ^ 30 + 5 * 2 ^ 16 + n.toNat) ∧ a.clock = s.clockAt core ∧ a.blame = blame ∧
            Completes { b with engArrived := b.engArrived + 1, last := a, rel := rl } ((t.wgAt core).bar bar))) ∧
        (∀ bs bad, p.op = .message bs bad → run (fun t => t.inbox = s.inbox ++ [(n.toNat, bs, bad)] ∧ charged t bs.length)))) ∧
    (∀ (n : BitVec 4) (rs : List (Nat × Nat)), s.ports.getLsbD n.toNat = true → ¬off → ∃ t, exec (.portFailure n rs) s = .next t ∧
      (∀ k < 16, t.ports.getLsbD k = (s.ports.getLsbD k && decide (k ≠ n.toNat))) ∧ t.portFaults = s.portFaults ++ [n.toNat] ∧
      (rs = [] → SMap.wf 0 s.routes = true → ∀ d, SMap.get 0 t.routes d = if SMap.get 0 s.routes d = n.toNat + 1 then 0 else SMap.get 0 s.routes d) ∧
      t = { s with ports := t.ports, portFaults := t.portFaults, routes := t.routes }) ∧
    (∀ (n : BitVec 1) (pa : Nat) (bs : List Byte), s.boot = .done → ¬off →
      let in_ := fun (u : State) => { u with inbox := u.inbox ++ [(16 + n.toNat, bs, [])] }
      let out := fun (u : State) (xs : List Byte) (bad : List Nat) => { u with roce := u.roce ++ [(n.toNat, xs, bad)] }
      let transfers := fun (k : Nat) (f : Nat → Nat) => s.updLaunch k (fun l => { l with storage := f l.storage })
      exec (.rocev2Packet n (.message bs)) s = .next (in_ s) ∧ exec (.rocev2Packet n (.send bs)) s = .next (out s bs []) ∧
      (∀ k, exec (.rocev2Packet n (.command (some k) bs)) s = .next (out (transfers k (· + 1)) bs []) ∧
        exec (.rocev2Packet n (.response (some k) bs)) s = .next (in_ (transfers k (· - 1)))) ∧
      exec (.rocev2Packet n (.command none bs)) s = .next (out s bs []) ∧ exec (.rocev2Packet n (.response none bs)) s = .next (in_ s) ∧
      (∀ k, pa + k ≤ 2 ^ 38 → exec (.rocev2Packet n (.read pa k)) s = .next (out s ((List.range k).map (fun i => SMap.get 0 s.mem (pa + i)))
        ((List.range k).filter (fun i => SMap.get false s.poison (pa + i))))) ∧
      (∀ bad, pa + bs.length ≤ 2 ^ 38 → (∀ i ∈ bad, i < bs.length) → ∃ t, exec (.rocev2Packet n (.place pa bs bad)) s = .next t ∧
        (∀ a, SMap.get false t.poison a = poisonStored s pa bs.length bad a) ∧
        t = { s with mem := t.mem, poison := t.poison, gRel := t.gRel, writes := t.writes, past := t.past } ∧
        ∀ a, SMap.get 0 t.mem a = if pa ≤ a ∧ a < pa + bs.length then bs.getD (a - pa) 0 else SMap.get 0 s.mem a)) ∧
    (∀ w : W64, ¬off → s.boot ≠ .stopped → let capw := w.toNat / 2 ^ 36 % 2 ^ 12
      let step := w.toNat % 2 ^ 5
      exec (.registerWrite w) s = .next { s with capw := if 600 ≤ capw ∧ capw ≤ 2200 then capw else s.capw,
                                                 capstep := if 1 ≤ step ∧ step ≤ 30 then step else s.capstep }) ∧
    (off ∨ s.boot = .stopped → (∀ x, exec (.bar2Access x) s = .next s) ∧ ∀ w, exec (.registerWrite w) s = .next s) ∧
    (¬off → s.boot ≠ .stopped → let bytes := fun (pa n : Nat) => (List.range n).map (fun i => SMap.get 0 s.mem (pa + i))
      let marks := fun (pa n : Nat) => (List.range n).filter (fun i => SMap.get false s.poison (pa + i))
      let stored := fun (x : Bar2) (pa : Nat) (bs : List Byte) (bad : List Nat) (out : List HostMsg) => ∃ t, exec (.bar2Access x) s = .next t ∧
        t = { s with mem := t.mem, poison := t.poison, gRel := t.gRel, writes := t.writes, past := t.past, hostOut := s.hostOut ++ out } ∧
        (∀ a, SMap.get false t.poison a = poisonStored s pa bs.length bad a) ∧
        ∀ a, SMap.get 0 t.mem a = if pa ≤ a ∧ a < pa + bs.length then bs.getD (a - pa) 0 else SMap.get 0 s.mem a
      (∀ k < 8192, let word := if k < 128 then (if k % 2 = 1 then (s.mailbox (k / 2)).accepted else 0)
          else if k = 128 then s.sysctl else if k = 129 then s.time else 0
        exec (.bar2Access (.bar0 (8 * k) 8)) s = .next { s with hostOut := s.hostOut ++ [.data (leBytes 8 word.toNat) []] }) ∧
      (∀ pa n, pa + n ≤ 2 ^ 38 → exec (.bar2Access (.read pa n)) s = .next { s with hostOut := s.hostOut ++ [.data (bytes pa n) (marks pa n)] }) ∧
      (∀ pa bs bad, pa + bs.length ≤ 2 ^ 38 → (∀ i ∈ bad, i < bs.length) → stored (.write pa bs bad) pa bs bad []) ∧
      (∀ (pa : Nat) (wide : Bool) (x c : W64), let n := if wide then 8 else 4
        let old := numOf (bytes pa n)
        pa % n = 0 → pa + n ≤ 2 ^ 38 →
        let spread := if marks pa n = [] then [] else List.range n
        stored (.fetchAdd pa wide x) pa (leBytes n (old + x.toNat)) spread [.data (bytes pa n) (marks pa n)] ∧
        stored (.swap pa wide x) pa (leBytes n x.toNat) [] [.data (bytes pa n) (marks pa n)] ∧
        stored (.cas pa wide c x) pa (leBytes n (if old = c.toNat % 2 ^ (8 * n) then x.toNat else old)) spread [.data (bytes pa n) (marks pa n)])) ∧
    (∀ (i : Instr) (p : Power) (may : Bool),
      (i, p, may) ∈ [(.preqIdle, .idle, true), (.preqActive, .active, true), (.preqDeep, .deep, s.quiet), (.preqOff, .off, s.quiet)] →
      exec i s = .next (if may = true ∧ ¬off ∧ s.boot ≠ .stopped then { s with preq := p } else s)) ∧
    (s.preq = s.pstate → exec .pstateChange s = .next s) ∧
    (s.preq ≠ s.pstate → s.preq = .deep ∨ s.preq = .off → s.quiet = false → exec .pstateChange s = .next { s with preq := s.pstate }) ∧
    (s.preq ≠ s.pstate → (s.preq = .deep ∨ s.preq = .off → s.quiet = true) → ∃ t, exec .pstateChange s = .next t ∧ t.pstate = s.preq ∧
      (s.pstate = .deep ∨ s.preq = .off → t.cores = [] ∧ t.tlb = []) ∧ (s.preq = .off → t.mem = [] ∧ t.objs = [] ∧ t.regions = []) ∧
      (s.pstate = .deep → s.preq ≠ .off → t = { s with cores := [], tlb := [], past := t.past, pstate := s.preq }) ∧
      (s.pstate ≠ .deep → s.preq ≠ .off → t = { s with pstate := s.preq })) ∧
    (∀ (d : BitVec 8) (nonce : W64), s.boot = .done → ¬off → ∃ (t : State) (c : Nat → Nat) (b : List Byte) (sig : Nat), exec (.accountingSnapshot d nonce) s = .next t ∧
      t.snapSeq = s.snapSeq + 1 ∧ t.hostOut = s.hostOut ++ [.snapshot b sig] ∧ SameMemory s t ∧
      (∀ i < 9, i ≠ 3 → i ≠ 6 → c i = SMap.get 0 s.acct (16 * d.toNat + i)) ∧
      b = leBytes 8 s.time.toNat ++ leBytes 8 nonce.toNat ++ leBytes 4 (s.devid % 2 ^ 20 + d.toNat * 2 ^ 20) ++
        (List.range 9).flatMap (fun i => leBytes 8 (c i)) ++ leBytes 4 s.snapSeq)

/-- Reset, boot, debug tokens and SPDM (25 R380 to R383). A reset empties the cores and enters LOCKED, OPEN or VENDOR_DEBUG; stage one goes into M0, and a bad signature stops boot; a token with a valid signature opens its state, another changes nothing; with a TENANT_DEBUG that ends go the holds that it allowed; SPDM requests are answered in the order of the negotiation. Digests, signatures and nonces are opaque constants, SHAKE256 is FIPS 202's (log 18), and the codes of block 16 are the model's (log 53). That one RESET performs the whole boot, with its stages as operands, and what a reset keeps are the model's choices (log 21, 15), and an event whose condition does not hold does nothing (log 22). -/
def Obligations.BootAndSecurity : Prop :=
  ∀ (s : State),
    let m := fun (u : State) (i : Nat) => SMap.get 0 u.meas i
    (∀ (strap : Bool) (g : Stage) (rest : List Stage), ∃ t, exec (.reset strap (g :: rest)) s = .next t ∧ t.cores = [] ∧ t.tlb = [] ∧
      t.launches = [] ∧ t.mail = State.reset.mail ∧ t.fuse = s.fuse ∧ t.devid = s.devid ∧ t.defects = s.defects ∧
      t.security = (if strap = true ∧ s.fuse = true then .opened else if s.armed = true then .vendorDebug else .locked) ∧
      t.mem = (if s.armed = true ∨ s.pstate = .off then [] else s.mem) ∧
      m t 0 = BitVec.ofNat 512 (numOf (shake256 (leBytes 64 0 ++ leBytes 64 g.digest.toNat))) ∧
      (Config.slhVerify 0 [g.digest.toNat] g.sig = false → t.boot = .stopped ∧ ∀ i, i ≠ 0 → m t i = 0) ∧
      ((∀ x ∈ g :: rest, Config.slhVerify 0 [x.digest.toNat] x.sig = true) → t.boot = .done)) ∧
    (∀ (n : BitVec 6) (tenant nonce : Nat) (e : W64) (sig : Nat),
      (Config.slhVerify (1 + tenant) [s.devid, n.toNat, tenant, nonce, e.toNat] sig = false →
        exec (.tenantDebugToken n tenant nonce e sig) s = .next s) ∧
      (Config.slhVerify (1 + tenant) [s.devid, n.toNat, tenant, nonce, e.toNat] sig = true → s.boot = .done → s.pstate ≠ .off →
        (∃ b, (s.mailbox n.toNat).bound = some b ∧ b.tenant = tenant) → nonce = Config.nonceOf s.nonce → s.running n.toNat = false →
        s.time.toNat < e.toNat → ∃ t, exec (.tenantDebugToken n tenant nonce e sig) s = .next t ∧
          SMap.get none t.tenantDebug n.toNat = some e ∧ t.nonce = s.nonce + 1 ∧ SameMemory s t ∧
          m t 2 = BitVec.ofNat 512 (numOf (shake256 (leBytes 64 (m s 2).toNat ++ leBytes 64 (Config.stateDigest 2 (tenant * 64 + n.toNat)).toNat))))) ∧
    (∀ sig : Nat, exec (.vendorDebugToken sig) s = .next
      (if s.boot = .done ∧ s.pstate ≠ .off ∧ Config.slhVerify 0 [s.devid, Config.nonceOf s.nonce] sig = true then { s with armed := true, nonce := s.nonce + 1 } else s)) ∧
    (∀ (n : BitVec 6) (e : W64), SMap.get none s.tenantDebug n.toNat = some e → s.pstate ≠ .off →
      let closed := fun (i : Instr) => ∃ t, exec i s = .next t ∧ SMap.get none t.tenantDebug n.toNat = none ∧ SameMemory s t ∧
        (∀ c g, (s.gangAt c g).dbgStop = none → (t.gangAt c g).splits = (s.gangAt c g).splits) ∧
        (s.security = .locked → ∀ k l, SMap.get none t.launches k = some l → l.hold ≠ none → t.tenantDebugOf l.tenant = true)
      (s.time.toNat < e.toNat → exec (.tokenExpiry n) s = .next s) ∧ (e.toNat ≤ s.time.toNat → closed (.tokenExpiry n)) ∧
      closed (.tokenWithdrawal n)) ∧
    (∀ t : Transport, s.pstate ≠ .off → s.boot = .done ∨ (s.boot = .stopped ∧ t = .management) →
      let key := if t = .doe then 0 else 1
      let level := SMap.get 0 s.spdm key
      let answers := fun (i : Instr) (need after : Nat) (r : SpdmReply → Prop) =>
        (level < need → exec i s = .next { s with hostOut := s.hostOut ++ [.spdm t .unexpected] }) ∧
        (need ≤ level → ∃ x, r x ∧ exec i s = .next { s with spdm := SMap.set 0 s.spdm key after, hostOut := s.hostOut ++ [.spdm t x] })
      answers (.getVersion t) 0 1 (fun x => x = .version) ∧
      answers (.getCapabilities t) 1 (max level 2) (fun x => x = .capabilities) ∧
      answers (.negotiateAlgorithms t) 2 (max level 3) (fun x => x = .algorithms) ∧
      answers (.getDigests t) 3 (max level 3) (fun x => x = .digests Config.certDigest) ∧
      (∀ k n, answers (.getCertificate t k n) 3 (max level 3) (fun x => x = .certificate ((Config.certChain.drop k).take n))) ∧
      (∀ nonce, answers (.challenge t nonce) 3 (max level 3) (fun x => x = .challengeAuth nonce (Config.slhSign [nonce, s.devid]))) ∧
      (∀ nonce, answers (.getMeasurements t nonce) 3 (max level 3) (fun x =>
        ∃ states sig, x = .measurements ((List.range 16).map (m s)) states nonce sig ∧ states = s.stateBytes)))

/-! ### The step, the encoding and reset -/

/-- A step (05 R84 to R87, R104, 01 R31, R34, 21 R329; what the agenda says and the clock of a step are the model's, log 2 and 3): at an issue the candidate's word is fetched at its offset in the plane of the issue, and the step is exec of the instruction it decodes to, then one clock; a word that decodes to none, and an offset past the plane's end, issue as the row for a word without an instruction; a word of one plane of device memory that the buffers hold as memory does, and that holds no poison, is the four bytes at its address, the lowest first. An event of the agenda is exec of its row; with nothing in the agenda, the default schedule. -/
def Obligations.StepRunsDecoded : Prop :=
  (∀ (s : State) (core quad : Nat) (rest : List Act), s.agenda = .issue core quad :: rest →
    let s0 : State := { s with agenda := rest, cur := none }
    (candidate s0 core quad = none → step s = .next (tick s0)) ∧
    (∀ gang i sp, candidate s0 core quad = some (gang, i, sp) →
      let g := s0.gangAt core gang
      let plane := planeAt s0 core g sp
      let n := fetchPlane s0 core g sp plane
      let issued := fun (w : W32) => issuing core gang i plane w (afterFetch core sp.pc n s0)
      (modeAt s0 core g sp = .align → step s = .next (tick { planeAlign core gang i sp s0 with cur := none })) ∧
      (modeAt s0 core g sp ≠ .align →
        ((s0.wgAt core).kernel.length ≤ sp.pc → step s = settled (exec (.unassignedOpcode none) (issuing core gang i plane 0 s0))) ∧
        (∀ w, sp.pc < (s0.wgAt core).kernel.length → s0.fetch core sp.pc n = .word w →
          (∀ instr, decode w = .ok instr → step s = settled (exec instr (issued w))) ∧
          (decode w = .error .compareN → ∀ cx, (issued w).ctx? = some cx →
            step s = .next (tick { takeTrap cx (wordTrap cx .illegalOperand) (issued w) with cur := none })) ∧
          (∀ e, decode w = .error e → e ≠ .compareN → step s = settled (exec (.unassignedOpcode (some w)) (issued w))))))) ∧
  (∀ (s : State) (j : Instr) (rest : List Act), s.agenda = .event j :: rest → step s = settled (exec j { s with agenda := rest, cur := none })) ∧
  (∀ s : State, s.agenda = [] → step s = settled (default_ { s with cur := none })) ∧
  (∀ s t : State, settled (.next s) = .next t → SameMemory s t ∧ t.cores = s.cores ∧ t.cur = none ∧
    ∀ d < 4, SMap.get 0 t.clock d = SMap.get 0 s.clock d + if s.pstate = .off then 0 else 1) ∧
  (∀ (s : State) (core off plane va pa : Nat) (l : LeafAt), let w := s.wgAt core
    w.kernel.base + BitVec.ofNat 64 (plane * w.kernel.stride + 4 * off) = BitVec.ofNat 64 va → va < 2 ^ 57 →
    s.translate core w.asid (va / 65536) = .leaf l → entX l.entry = true → (entPriv l.entry = true → w.priv = true) →
    (∀ i < 4, placeUnder s l (va + i) w.asid = .dev (pa + i) ∧ s.poisonAt (.dev (pa + i)) = false) → (s.coreAt core).ibuf = s.mem →
    ∃ x : W32, s.fetch core off plane = .word x ∧
      x.toNat = (List.range 4).foldl (fun n i => n + (SMap.get 0 s.mem (pa + i)).toNat * 2 ^ (8 * i)) 0)

/-- Decoding and encoding agree (05 R84 to R102): the word of every instruction that has one, with every value its fields admit, decodes to it; and a word that decodes to an instruction is that instruction's word. -/
def Obligations.DecodeEncode : Prop :=
  (∀ (i : Instr) (w : W32), encode i = some w → decode w = .ok i) ∧ (∀ (w : W32) (i : Instr), decode w = .ok i → encode i = some w)

/-- Words that the reference entries give as examples, decoded (07 to 23). -/
def Obligations.DecodeWords : Prop :=
  decode 0x03300003 = .ok (.skip 1 1 3) ∧ decode 0x311A1234 = .ok (.smovi 6 2 0x1234) ∧ decode 0x66290190 = .ok (.fcmp 0 5 1 1 0x90) ∧
  decode 0x7A030190 = .ok (.vbcst 3 1 0x90) ∧ decode 0x81204146 = .ok (.xdec 8 4 5 6) ∧ decode 0xAD141030 = .ok (.abnd 10 2 3) ∧
  decode 0xB408A080 = .ok (.rginfo 2 10 2) ∧ decode 0xC1846005 = .ok (.mma 1 0 0 1 6 5) ∧ decode 0xD04C4146 = .ok (.cpy 1 3 4 5 6) ∧
  decode 0xE0149000 = .ok (.trap 5 9) ∧ decode 0xEA0420C0 = .ok (.watch 1 2 3) ∧ decode 0xF3000009 = .ok (.hintJoin 9)

/-- Device memory, host memory, cores, object slots and routes keep their canonical form in every step, so that equal memories are equal data (the model's form of 00 R8's memory, log 4). -/
def Obligations.StepKeepsCanonical : Prop :=
  ∀ s t : State, Canonical s → step s = .next t → Canonical t

/-- Reset (11 R188, 21 R312, R327, 25 R376, R380, R382, R387): canonical; SYSCTL, the ageing times and the snapshot count at their reset values; LOCKED; every measurement register zero; mailbox 63 alone bound, to tenant 0xFFFF, domain 0 and space 0, whose addresses below the size of device memory map to themselves with R, W and X and whose others have no translation; no core holds a workgroup. -/
def Obligations.ResetState : Prop :=
  let s := State.reset
  Canonical s ∧ s.sysctl = BitVec.ofNat 64 (2200 * 2 ^ 36 + 30 * 2 ^ 8 + 30) ∧ (∀ n, SMap.get 500 s.age n = 500) ∧ s.snapSeq = 0 ∧
  s.security = .locked ∧ (∀ n, SMap.get 0 s.meas n = 0) ∧ (s.mailbox 63).bound = some ⟨0xFFFF, 0, 0⟩ ∧
  (∀ m, m ≠ 63 → (s.mailbox m).bound = none) ∧ (∀ c, (s.coreAt c).wg = none) ∧
  (∀ page, 2 ^ 22 ≤ page → s.walk 0 page = .translation) ∧
  ∀ page < 2 ^ 22, ∃ l, s.walk 0 page = .leaf l ∧ entR l.entry = true ∧ entW l.entry = true ∧ entX l.entry = true ∧
    ∀ k < 65536, placeUnder s l (page * 65536 + k) 0 = .dev (page * 65536 + k)
end

