-- ==== Sys2Proof/Laws/Map.lean ====
section
/-! SUPPORT. Lemmas about sparse maps: a read after a write, and that every operation keeps the canonical form. -/

namespace Sys2Proof.Machine

variable {α : Type}

@[simp] theorem SMap.get_nil (d : α) (k : Nat) : SMap.get d [] k = d := rfl

theorem SMap.get_cons (d : α) (k' : Nat) (v : α) (r : SMap α) (k : Nat) :
    SMap.get d ((k', v) :: r) k = if k' = k then v else SMap.get d r k := rfl

theorem SMap.get_del_same (d : α) (m : SMap α) (k : Nat) : SMap.get d (m.del k) k = d := by
  induction m with
  | nil => rfl
  | cons e r ih =>
    obtain ⟨k', v⟩ := e
    by_cases h : k' = k <;> simp_all [SMap.del, SMap.get]

theorem SMap.del_cons_same (k : Nat) (v : α) (r : SMap α) : SMap.del ((k, v) :: r) k = r.del k := by
  simp [SMap.del]

theorem SMap.del_cons_other {k k' : Nat} (v : α) (r : SMap α) (h : k' ≠ k) :
    SMap.del ((k', v) :: r) k = (k', v) :: r.del k := by
  simp [SMap.del, h]

theorem SMap.get_del_other (d : α) (m : SMap α) {k j : Nat} (h : j ≠ k) : SMap.get d (m.del k) j = SMap.get d m j := by
  induction m with
  | nil => rfl
  | cons e r ih =>
    obtain ⟨k', v⟩ := e
    by_cases hk : k' = k
    · subst hk
      rw [SMap.del_cons_same, ih, SMap.get_cons, if_neg h.symm]
    · rw [SMap.del_cons_other v r hk, SMap.get_cons, SMap.get_cons, ih]

theorem SMap.get_ins_other (d : α) (m : SMap α) {k j : Nat} (v : α) (h : j ≠ k) : SMap.get d (m.ins k v) j = SMap.get d m j := by
  induction m with
  | nil => simp [SMap.ins, SMap.get, h.symm]
  | cons e r ih =>
    obtain ⟨k', v'⟩ := e
    simp only [SMap.ins]
    split
    · simp [SMap.get, h.symm]
    · simp [SMap.get, ih]

theorem SMap.get_ins_same (d : α) (m : SMap α) (k : Nat) (v : α) (h : ∀ e ∈ m, e.1 ≠ k) : SMap.get d (m.ins k v) k = v := by
  induction m with
  | nil => simp [SMap.ins, SMap.get]
  | cons e r ih =>
    obtain ⟨k', v'⟩ := e
    have hk : k' ≠ k := h (k', v') (by simp)
    simp only [SMap.ins]
    split
    · simp [SMap.get]
    · simp [SMap.get, hk, ih (fun e he => h e (by simp [he]))]

theorem SMap.not_mem_del (m : SMap α) (k : Nat) : ∀ e ∈ m.del k, e.1 ≠ k := by
  intro e he
  simpa using (List.mem_filter.mp he).2

section
variable [DecidableEq α]

/-- A read after a write to the same key gives the value written. -/
@[simp] theorem SMap.get_set_same (d : α) (m : SMap α) (k : Nat) (v : α) : SMap.get d (SMap.set d m k v) k = v := by
  unfold SMap.set
  split
  · next h => rw [h]; exact SMap.get_del_same d m k
  · exact SMap.get_ins_same d _ k v (SMap.not_mem_del m k)

/-- A write leaves every other key alone. -/
theorem SMap.get_set_other (d : α) (m : SMap α) {k j : Nat} (v : α) (h : j ≠ k) :
    SMap.get d (SMap.set d m k v) j = SMap.get d m j := by
  unfold SMap.set
  split
  · exact SMap.get_del_other d m h
  · rw [SMap.get_ins_other d _ v h, SMap.get_del_other d m h]

theorem SMap.get_set (d : α) (m : SMap α) (k j : Nat) (v : α) :
    SMap.get d (SMap.set d m k v) j = if j = k then v else SMap.get d m j := by
  by_cases h : j = k
  · subst h; simp
  · simp [h, SMap.get_set_other d m v h]

/-! ### The canonical form -/

@[simp] theorem SMap.wf_nil (d : α) : SMap.wf d ([] : SMap α) = true := rfl

theorem SMap.wf_cons (d : α) (k : Nat) (v : α) (r : SMap α) :
    SMap.wf d ((k, v) :: r) = true ↔ v ≠ d ∧ SMap.above k r = true ∧ SMap.wf d r = true := by
  simp [SMap.wf, and_assoc]

omit [DecidableEq α] in
theorem SMap.above_of_lt {k j : Nat} (h : k ≤ j) {m : SMap α} (hm : SMap.above j m = true) : SMap.above k m = true := by
  cases m with
  | nil => rfl
  | cons e r => simp [SMap.above] at *; omega

theorem SMap.above_del {d : α} {j k : Nat} {m : SMap α} (hw : SMap.wf d m = true) (hm : SMap.above j m = true) :
    SMap.above j (m.del k) = true := by
  induction m generalizing j with
  | nil => rfl
  | cons e r ih =>
    obtain ⟨k', v⟩ := e
    obtain ⟨-, ha, hr⟩ := (SMap.wf_cons d k' v r).mp hw
    have hj : j < k' := by simpa [SMap.above] using hm
    by_cases hk : k' = k
    · have : SMap.del ((k', v) :: r) k = SMap.del r k := by simp [SMap.del, hk]
      rw [this]
      exact ih hr (SMap.above_of_lt (Nat.le_of_lt hj) ha)
    · have : SMap.del ((k', v) :: r) k = (k', v) :: SMap.del r k := by simp [SMap.del, hk]
      rw [this]
      simpa [SMap.above] using hj

theorem SMap.wf_del {d : α} (k : Nat) {m : SMap α} (hw : SMap.wf d m = true) : SMap.wf d (m.del k) = true := by
  induction m with
  | nil => rfl
  | cons e r ih =>
    obtain ⟨k', v⟩ := e
    obtain ⟨hv, ha, hr⟩ := (SMap.wf_cons d k' v r).mp hw
    by_cases hk : k' = k
    · have : SMap.del ((k', v) :: r) k = SMap.del r k := by simp [SMap.del, hk]
      rw [this]
      exact ih hr
    · have : SMap.del ((k', v) :: r) k = (k', v) :: SMap.del r k := by simp [SMap.del, hk]
      rw [this]
      exact (SMap.wf_cons d k' v _).mpr ⟨hv, SMap.above_del hr ha, ih hr⟩

omit [DecidableEq α] in
theorem SMap.above_ins {j k : Nat} {v : α} {m : SMap α} (hj : j < k) (hm : SMap.above j m = true) :
    SMap.above j (m.ins k v) = true := by
  cases m with
  | nil => simpa [SMap.ins, SMap.above] using hj
  | cons e r =>
    obtain ⟨k', v'⟩ := e
    simp only [SMap.ins]
    split
    · simpa [SMap.above] using hj
    · simpa [SMap.above] using hm

theorem SMap.wf_ins {d : α} {k : Nat} {v : α} (hv : v ≠ d) {m : SMap α} (hw : SMap.wf d m = true)
    (hk : ∀ e ∈ m, e.1 ≠ k) : SMap.wf d (m.ins k v) = true := by
  induction m with
  | nil => simp [SMap.ins, SMap.wf, SMap.above, hv]
  | cons e r ih =>
    obtain ⟨k', v'⟩ := e
    obtain ⟨hv', ha, hr⟩ := (SMap.wf_cons d k' v' r).mp hw
    have hne : k' ≠ k := hk (k', v') (by simp)
    simp only [SMap.ins]
    split
    · next h => exact (SMap.wf_cons d k v _).mpr ⟨hv, by simpa [SMap.above] using h, hw⟩
    · next h =>
      have hlt : k' < k := by omega
      exact (SMap.wf_cons d k' v' _).mpr ⟨hv', SMap.above_ins hlt ha, ih hr (fun e he => hk e (by simp [he]))⟩

/-- A write keeps the canonical form. -/
theorem SMap.wf_set {d : α} {m : SMap α} (k : Nat) (v : α) (hw : SMap.wf d m = true) : SMap.wf d (SMap.set d m k v) = true := by
  unfold SMap.set
  split
  · exact SMap.wf_del k hw
  · next h => exact SMap.wf_ins h (SMap.wf_del k hw) (SMap.not_mem_del m k)

/-- Writes of a list of entries keep the canonical form. -/
theorem SMap.wf_setAll {d : α} {m : SMap α} (kvs : List (Nat × α)) (hw : SMap.wf d m = true) :
    SMap.wf d (SMap.setAll d m kvs) = true := by
  unfold SMap.setAll
  induction kvs generalizing m with
  | nil => exact hw
  | cons e r ih => exact ih (SMap.wf_set e.1 e.2 hw)

theorem SMap.wf_canon (d : α) (kvs : List (Nat × α)) : SMap.wf d (SMap.canon d kvs) = true :=
  SMap.wf_setAll kvs rfl

/-- Keeping only some keys keeps the canonical form. -/
theorem SMap.above_filter {d : α} {j : Nat} (f : Nat × α → Bool) {m : SMap α} (hw : SMap.wf d m = true)
    (hm : SMap.above j m = true) : SMap.above j (m.filter f) = true := by
  induction m generalizing j with
  | nil => rfl
  | cons e r ih =>
    obtain ⟨k', v⟩ := e
    obtain ⟨-, ha, hr⟩ := (SMap.wf_cons d k' v r).mp hw
    have hj : j < k' := by simpa [SMap.above] using hm
    rw [List.filter_cons]
    split
    · simpa [SMap.above] using hj
    · exact ih hr (SMap.above_of_lt (Nat.le_of_lt hj) ha)

theorem SMap.wf_filter {d : α} (f : Nat × α → Bool) {m : SMap α} (hw : SMap.wf d m = true) :
    SMap.wf d (m.filter f) = true := by
  induction m with
  | nil => rfl
  | cons e r ih =>
    obtain ⟨k', v⟩ := e
    obtain ⟨hv, ha, hr⟩ := (SMap.wf_cons d k' v r).mp hw
    rw [List.filter_cons]
    split
    · exact (SMap.wf_cons d k' v _).mpr ⟨hv, SMap.above_filter f hr ha, ih hr⟩
    · exact ih hr

end

/-- A map changed value by value, where the change keeps what an unlisted key reads as. -/
theorem SMap.get_mapV {β : Type} [DecidableEq β] (d : α) (d' : β) (f : Nat → α → β) (m : SMap α) (k : Nat) (h : f k d = d') :
    SMap.get d' (SMap.mapV d' f m) k = f k (SMap.get d m k) := by
  unfold SMap.mapV SMap.canon SMap.setAll
  rw [List.foldl_map, List.foldl_reverse]
  induction m with
  | nil => exact h.symm
  | cons e r ih =>
    obtain ⟨k', v⟩ := e
    rw [List.foldr_cons, SMap.get_set, SMap.get_cons]
    by_cases hk : k = k'
    · subst hk; simp
    · simp [hk, Ne.symm hk, ih]

theorem SMap.wf_mapV {β : Type} [DecidableEq β] (d' : β) (f : Nat → α → β) (m : SMap α) : SMap.wf d' (SMap.mapV d' f m) = true :=
  SMap.wf_canon d' _

/-- A map filtered by its keys. -/
theorem SMap.get_filter {α : Type} (d : α) (m : SMap α) (q : Nat → Bool) (k : Nat) :
    SMap.get d (m.filter (fun e => q e.1)) k = if q k = true then SMap.get d m k else d := by
  induction m with
  | nil => simp
  | cons e r ih =>
    obtain ⟨k', v⟩ := e
    rw [List.filter_cons]
    by_cases h : k' = k
    · subst h
      by_cases hq : q k' = true <;> simp_all [SMap.get]
    · by_cases hq : q k' = true <;> simp_all [SMap.get]

end Sys2Proof.Machine
end

