-- ==== Sys2Proof/Laws/State.lean ====
section
/-! SUPPORT. Lemmas about the state: what each update leaves of every field, and a read after a write of a core, a gang or a register. -/

namespace Sys2Proof.Machine

/-! ### The state's fields under each update -/

@[simp] theorem State.setCore_agenda (s : State) (c : Nat) (k : Core) : (s.setCore c k).agenda = s.agenda := rfl
@[simp] theorem State.setCore_turn (s : State) (c : Nat) (k : Core) : (s.setCore c k).turn = s.turn := rfl
@[simp] theorem State.setCore_cur (s : State) (c : Nat) (k : Core) : (s.setCore c k).cur = s.cur := rfl
@[simp] theorem State.setCore_free (s : State) (c : Nat) (k : Core) : (s.setCore c k).free = s.free := rfl
@[simp] theorem State.setCore_clock (s : State) (c : Nat) (k : Core) : (s.setCore c k).clock = s.clock := rfl
@[simp] theorem State.setCore_mem (s : State) (c : Nat) (k : Core) : (s.setCore c k).mem = s.mem := rfl
@[simp] theorem State.setCore_poison (s : State) (c : Nat) (k : Core) : (s.setCore c k).poison = s.poison := rfl
@[simp] theorem State.setCore_hmem (s : State) (c : Nat) (k : Core) : (s.setCore c k).hmem = s.hmem := rfl
@[simp] theorem State.setCore_corrected (s : State) (c : Nat) (k : Core) : (s.setCore c k).corrected = s.corrected := rfl
@[simp] theorem State.setCore_gTags (s : State) (c : Nat) (k : Core) : (s.setCore c k).gTags = s.gTags := rfl
@[simp] theorem State.setCore_gRel (s : State) (c : Nat) (k : Core) : (s.setCore c k).gRel = s.gRel := rfl
@[simp] theorem State.setCore_writes (s : State) (c : Nat) (k : Core) : (s.setCore c k).writes = s.writes := rfl
@[simp] theorem State.setCore_past (s : State) (c : Nat) (k : Core) : (s.setCore c k).past = s.past := rfl
@[simp] theorem State.setCore_hand (s : State) (c : Nat) (k : Core) : (s.setCore c k).hand = s.hand := rfl
@[simp] theorem State.setCore_ended (s : State) (c : Nat) (k : Core) : (s.setCore c k).ended = s.ended := rfl
@[simp] theorem State.setCore_between (s : State) (c : Nat) (k : Core) : (s.setCore c k).between = s.between := rfl
@[simp] theorem State.setCore_roots (s : State) (c : Nat) (k : Core) : (s.setCore c k).roots = s.roots := rfl
@[simp] theorem State.setCore_leaves (s : State) (c : Nat) (k : Core) : (s.setCore c k).leaves = s.leaves := rfl
@[simp] theorem State.setCore_tlb (s : State) (c : Nat) (k : Core) : (s.setCore c k).tlb = s.tlb := rfl
@[simp] theorem State.setCore_saved (s : State) (c : Nat) (k : Core) : (s.setCore c k).saved = s.saved := rfl
@[simp] theorem State.setCore_regions (s : State) (c : Nat) (k : Core) : (s.setCore c k).regions = s.regions := rfl
@[simp] theorem State.setCore_backed (s : State) (c : Nat) (k : Core) : (s.setCore c k).backed = s.backed := rfl
@[simp] theorem State.setCore_pool (s : State) (c : Nat) (k : Core) : (s.setCore c k).pool = s.pool := rfl
@[simp] theorem State.setCore_defects (s : State) (c : Nat) (k : Core) : (s.setCore c k).defects = s.defects := rfl
@[simp] theorem State.setCore_devid (s : State) (c : Nat) (k : Core) : (s.setCore c k).devid = s.devid := rfl
@[simp] theorem State.setCore_fuse (s : State) (c : Nat) (k : Core) : (s.setCore c k).fuse = s.fuse := rfl
@[simp] theorem State.setCore_capw (s : State) (c : Nat) (k : Core) : (s.setCore c k).capw = s.capw := rfl
@[simp] theorem State.setCore_preq (s : State) (c : Nat) (k : Core) : (s.setCore c k).preq = s.preq := rfl
@[simp] theorem State.setCore_pstate (s : State) (c : Nat) (k : Core) : (s.setCore c k).pstate = s.pstate := rfl
@[simp] theorem State.setCore_fstep (s : State) (c : Nat) (k : Core) : (s.setCore c k).fstep = s.fstep := rfl
@[simp] theorem State.setCore_capstep (s : State) (c : Nat) (k : Core) : (s.setCore c k).capstep = s.capstep := rfl
@[simp] theorem State.setCore_thermal (s : State) (c : Nat) (k : Core) : (s.setCore c k).thermal = s.thermal := rfl
@[simp] theorem State.setCore_timeBase (s : State) (c : Nat) (k : Core) : (s.setCore c k).timeBase = s.timeBase := rfl
@[simp] theorem State.setCore_unsync (s : State) (c : Nat) (k : Core) : (s.setCore c k).unsync = s.unsync := rfl
@[simp] theorem State.setCore_joined (s : State) (c : Nat) (k : Core) : (s.setCore c k).joined = s.joined := rfl
@[simp] theorem State.setCore_slew (s : State) (c : Nat) (k : Core) : (s.setCore c k).slew = s.slew := rfl
@[simp] theorem State.setCore_slewAt (s : State) (c : Nat) (k : Core) : (s.setCore c k).slewAt = s.slewAt := rfl
@[simp] theorem State.setCore_steps (s : State) (c : Nat) (k : Core) : (s.setCore c k).steps = s.steps := rfl
@[simp] theorem State.setCore_msFreq (s : State) (c : Nat) (k : Core) : (s.setCore c k).msFreq = s.msFreq := rfl
@[simp] theorem State.setCore_msSync (s : State) (c : Nat) (k : Core) : (s.setCore c k).msSync = s.msSync := rfl
@[simp] theorem State.setCore_msPage (s : State) (c : Nat) (k : Core) : (s.setCore c k).msPage = s.msPage := rfl
@[simp] theorem State.setCore_traces (s : State) (c : Nat) (k : Core) : (s.setCore c k).traces = s.traces := rfl
@[simp] theorem State.setCore_edges (s : State) (c : Nat) (k : Core) : (s.setCore c k).edges = s.edges := rfl
@[simp] theorem State.setCore_boot (s : State) (c : Nat) (k : Core) : (s.setCore c k).boot = s.boot := rfl
@[simp] theorem State.setCore_meas (s : State) (c : Nat) (k : Core) : (s.setCore c k).meas = s.meas := rfl
@[simp] theorem State.setCore_security (s : State) (c : Nat) (k : Core) : (s.setCore c k).security = s.security := rfl
@[simp] theorem State.setCore_armed (s : State) (c : Nat) (k : Core) : (s.setCore c k).armed = s.armed := rfl
@[simp] theorem State.setCore_nonce (s : State) (c : Nat) (k : Core) : (s.setCore c k).nonce = s.nonce := rfl
@[simp] theorem State.setCore_tenantDebug (s : State) (c : Nat) (k : Core) : (s.setCore c k).tenantDebug = s.tenantDebug := rfl
@[simp] theorem State.setCore_mail (s : State) (c : Nat) (k : Core) : (s.setCore c k).mail = s.mail := rfl
@[simp] theorem State.setCore_objs (s : State) (c : Nat) (k : Core) : (s.setCore c k).objs = s.objs := rfl
@[simp] theorem State.setCore_lacks (s : State) (c : Nat) (k : Core) : (s.setCore c k).lacks = s.lacks := rfl
@[simp] theorem State.setCore_msix (s : State) (c : Nat) (k : Core) : (s.setCore c k).msix = s.msix := rfl
@[simp] theorem State.setCore_acct (s : State) (c : Nat) (k : Core) : (s.setCore c k).acct = s.acct := rfl
@[simp] theorem State.setCore_energy (s : State) (c : Nat) (k : Core) : (s.setCore c k).energy = s.energy := rfl
@[simp] theorem State.setCore_traffic (s : State) (c : Nat) (k : Core) : (s.setCore c k).traffic = s.traffic := rfl
@[simp] theorem State.setCore_launches (s : State) (c : Nat) (k : Core) : (s.setCore c k).launches = s.launches := rfl
@[simp] theorem State.setCore_nextLaunch (s : State) (c : Nat) (k : Core) : (s.setCore c k).nextLaunch = s.nextLaunch := rfl
@[simp] theorem State.setCore_nextSaved (s : State) (c : Nat) (k : Core) : (s.setCore c k).nextSaved = s.nextSaved := rfl
@[simp] theorem State.setCore_age (s : State) (c : Nat) (k : Core) : (s.setCore c k).age = s.age := rfl
@[simp] theorem State.setCore_ready (s : State) (c : Nat) (k : Core) : (s.setCore c k).ready = s.ready := rfl
@[simp] theorem State.setCore_ports (s : State) (c : Nat) (k : Core) : (s.setCore c k).ports = s.ports := rfl
@[simp] theorem State.setCore_portFaults (s : State) (c : Nat) (k : Core) : (s.setCore c k).portFaults = s.portFaults := rfl
@[simp] theorem State.setCore_routes (s : State) (c : Nat) (k : Core) : (s.setCore c k).routes = s.routes := rfl
@[simp] theorem State.setCore_sent (s : State) (c : Nat) (k : Core) : (s.setCore c k).sent = s.sent := rfl
@[simp] theorem State.setCore_fabWaits (s : State) (c : Nat) (k : Core) : (s.setCore c k).fabWaits = s.fabWaits := rfl
@[simp] theorem State.setCore_reports (s : State) (c : Nat) (k : Core) : (s.setCore c k).reports = s.reports := rfl
@[simp] theorem State.setCore_roce (s : State) (c : Nat) (k : Core) : (s.setCore c k).roce = s.roce := rfl
@[simp] theorem State.setCore_inbox (s : State) (c : Nat) (k : Core) : (s.setCore c k).inbox = s.inbox := rfl
@[simp] theorem State.setCore_hostOut (s : State) (c : Nat) (k : Core) : (s.setCore c k).hostOut = s.hostOut := rfl
@[simp] theorem State.setCore_spdm (s : State) (c : Nat) (k : Core) : (s.setCore c k).spdm = s.spdm := rfl
@[simp] theorem State.setCore_snapSeq (s : State) (c : Nat) (k : Core) : (s.setCore c k).snapSeq = s.snapSeq := rfl

@[simp] theorem State.setWg_agenda (s : State) (c : Nat) (w : Workgroup) : (s.setWg c w).agenda = s.agenda := rfl
@[simp] theorem State.setWg_turn (s : State) (c : Nat) (w : Workgroup) : (s.setWg c w).turn = s.turn := rfl
@[simp] theorem State.setWg_cur (s : State) (c : Nat) (w : Workgroup) : (s.setWg c w).cur = s.cur := rfl
@[simp] theorem State.setWg_free (s : State) (c : Nat) (w : Workgroup) : (s.setWg c w).free = s.free := rfl
@[simp] theorem State.setWg_clock (s : State) (c : Nat) (w : Workgroup) : (s.setWg c w).clock = s.clock := rfl
@[simp] theorem State.setWg_mem (s : State) (c : Nat) (w : Workgroup) : (s.setWg c w).mem = s.mem := rfl
@[simp] theorem State.setWg_poison (s : State) (c : Nat) (w : Workgroup) : (s.setWg c w).poison = s.poison := rfl
@[simp] theorem State.setWg_hmem (s : State) (c : Nat) (w : Workgroup) : (s.setWg c w).hmem = s.hmem := rfl
@[simp] theorem State.setWg_corrected (s : State) (c : Nat) (w : Workgroup) : (s.setWg c w).corrected = s.corrected := rfl
@[simp] theorem State.setWg_gTags (s : State) (c : Nat) (w : Workgroup) : (s.setWg c w).gTags = s.gTags := rfl
@[simp] theorem State.setWg_gRel (s : State) (c : Nat) (w : Workgroup) : (s.setWg c w).gRel = s.gRel := rfl
@[simp] theorem State.setWg_writes (s : State) (c : Nat) (w : Workgroup) : (s.setWg c w).writes = s.writes := rfl
@[simp] theorem State.setWg_past (s : State) (c : Nat) (w : Workgroup) : (s.setWg c w).past = s.past := rfl
@[simp] theorem State.setWg_hand (s : State) (c : Nat) (w : Workgroup) : (s.setWg c w).hand = s.hand := rfl
@[simp] theorem State.setWg_ended (s : State) (c : Nat) (w : Workgroup) : (s.setWg c w).ended = s.ended := rfl
@[simp] theorem State.setWg_between (s : State) (c : Nat) (w : Workgroup) : (s.setWg c w).between = s.between := rfl
@[simp] theorem State.setWg_roots (s : State) (c : Nat) (w : Workgroup) : (s.setWg c w).roots = s.roots := rfl
@[simp] theorem State.setWg_leaves (s : State) (c : Nat) (w : Workgroup) : (s.setWg c w).leaves = s.leaves := rfl
@[simp] theorem State.setWg_tlb (s : State) (c : Nat) (w : Workgroup) : (s.setWg c w).tlb = s.tlb := rfl
@[simp] theorem State.setWg_saved (s : State) (c : Nat) (w : Workgroup) : (s.setWg c w).saved = s.saved := rfl
@[simp] theorem State.setWg_regions (s : State) (c : Nat) (w : Workgroup) : (s.setWg c w).regions = s.regions := rfl
@[simp] theorem State.setWg_backed (s : State) (c : Nat) (w : Workgroup) : (s.setWg c w).backed = s.backed := rfl
@[simp] theorem State.setWg_pool (s : State) (c : Nat) (w : Workgroup) : (s.setWg c w).pool = s.pool := rfl
@[simp] theorem State.setWg_defects (s : State) (c : Nat) (w : Workgroup) : (s.setWg c w).defects = s.defects := rfl
@[simp] theorem State.setWg_devid (s : State) (c : Nat) (w : Workgroup) : (s.setWg c w).devid = s.devid := rfl
@[simp] theorem State.setWg_fuse (s : State) (c : Nat) (w : Workgroup) : (s.setWg c w).fuse = s.fuse := rfl
@[simp] theorem State.setWg_capw (s : State) (c : Nat) (w : Workgroup) : (s.setWg c w).capw = s.capw := rfl
@[simp] theorem State.setWg_preq (s : State) (c : Nat) (w : Workgroup) : (s.setWg c w).preq = s.preq := rfl
@[simp] theorem State.setWg_pstate (s : State) (c : Nat) (w : Workgroup) : (s.setWg c w).pstate = s.pstate := rfl
@[simp] theorem State.setWg_fstep (s : State) (c : Nat) (w : Workgroup) : (s.setWg c w).fstep = s.fstep := rfl
@[simp] theorem State.setWg_capstep (s : State) (c : Nat) (w : Workgroup) : (s.setWg c w).capstep = s.capstep := rfl
@[simp] theorem State.setWg_thermal (s : State) (c : Nat) (w : Workgroup) : (s.setWg c w).thermal = s.thermal := rfl
@[simp] theorem State.setWg_timeBase (s : State) (c : Nat) (w : Workgroup) : (s.setWg c w).timeBase = s.timeBase := rfl
@[simp] theorem State.setWg_unsync (s : State) (c : Nat) (w : Workgroup) : (s.setWg c w).unsync = s.unsync := rfl
@[simp] theorem State.setWg_joined (s : State) (c : Nat) (w : Workgroup) : (s.setWg c w).joined = s.joined := rfl
@[simp] theorem State.setWg_slew (s : State) (c : Nat) (w : Workgroup) : (s.setWg c w).slew = s.slew := rfl
@[simp] theorem State.setWg_slewAt (s : State) (c : Nat) (w : Workgroup) : (s.setWg c w).slewAt = s.slewAt := rfl
@[simp] theorem State.setWg_steps (s : State) (c : Nat) (w : Workgroup) : (s.setWg c w).steps = s.steps := rfl
@[simp] theorem State.setWg_msFreq (s : State) (c : Nat) (w : Workgroup) : (s.setWg c w).msFreq = s.msFreq := rfl
@[simp] theorem State.setWg_msSync (s : State) (c : Nat) (w : Workgroup) : (s.setWg c w).msSync = s.msSync := rfl
@[simp] theorem State.setWg_msPage (s : State) (c : Nat) (w : Workgroup) : (s.setWg c w).msPage = s.msPage := rfl
@[simp] theorem State.setWg_traces (s : State) (c : Nat) (w : Workgroup) : (s.setWg c w).traces = s.traces := rfl
@[simp] theorem State.setWg_edges (s : State) (c : Nat) (w : Workgroup) : (s.setWg c w).edges = s.edges := rfl
@[simp] theorem State.setWg_boot (s : State) (c : Nat) (w : Workgroup) : (s.setWg c w).boot = s.boot := rfl
@[simp] theorem State.setWg_meas (s : State) (c : Nat) (w : Workgroup) : (s.setWg c w).meas = s.meas := rfl
@[simp] theorem State.setWg_security (s : State) (c : Nat) (w : Workgroup) : (s.setWg c w).security = s.security := rfl
@[simp] theorem State.setWg_armed (s : State) (c : Nat) (w : Workgroup) : (s.setWg c w).armed = s.armed := rfl
@[simp] theorem State.setWg_nonce (s : State) (c : Nat) (w : Workgroup) : (s.setWg c w).nonce = s.nonce := rfl
@[simp] theorem State.setWg_tenantDebug (s : State) (c : Nat) (w : Workgroup) : (s.setWg c w).tenantDebug = s.tenantDebug := rfl
@[simp] theorem State.setWg_mail (s : State) (c : Nat) (w : Workgroup) : (s.setWg c w).mail = s.mail := rfl
@[simp] theorem State.setWg_objs (s : State) (c : Nat) (w : Workgroup) : (s.setWg c w).objs = s.objs := rfl
@[simp] theorem State.setWg_lacks (s : State) (c : Nat) (w : Workgroup) : (s.setWg c w).lacks = s.lacks := rfl
@[simp] theorem State.setWg_msix (s : State) (c : Nat) (w : Workgroup) : (s.setWg c w).msix = s.msix := rfl
@[simp] theorem State.setWg_acct (s : State) (c : Nat) (w : Workgroup) : (s.setWg c w).acct = s.acct := rfl
@[simp] theorem State.setWg_energy (s : State) (c : Nat) (w : Workgroup) : (s.setWg c w).energy = s.energy := rfl
@[simp] theorem State.setWg_traffic (s : State) (c : Nat) (w : Workgroup) : (s.setWg c w).traffic = s.traffic := rfl
@[simp] theorem State.setWg_launches (s : State) (c : Nat) (w : Workgroup) : (s.setWg c w).launches = s.launches := rfl
@[simp] theorem State.setWg_nextLaunch (s : State) (c : Nat) (w : Workgroup) : (s.setWg c w).nextLaunch = s.nextLaunch := rfl
@[simp] theorem State.setWg_nextSaved (s : State) (c : Nat) (w : Workgroup) : (s.setWg c w).nextSaved = s.nextSaved := rfl
@[simp] theorem State.setWg_age (s : State) (c : Nat) (w : Workgroup) : (s.setWg c w).age = s.age := rfl
@[simp] theorem State.setWg_ready (s : State) (c : Nat) (w : Workgroup) : (s.setWg c w).ready = s.ready := rfl
@[simp] theorem State.setWg_ports (s : State) (c : Nat) (w : Workgroup) : (s.setWg c w).ports = s.ports := rfl
@[simp] theorem State.setWg_portFaults (s : State) (c : Nat) (w : Workgroup) : (s.setWg c w).portFaults = s.portFaults := rfl
@[simp] theorem State.setWg_routes (s : State) (c : Nat) (w : Workgroup) : (s.setWg c w).routes = s.routes := rfl
@[simp] theorem State.setWg_sent (s : State) (c : Nat) (w : Workgroup) : (s.setWg c w).sent = s.sent := rfl
@[simp] theorem State.setWg_fabWaits (s : State) (c : Nat) (w : Workgroup) : (s.setWg c w).fabWaits = s.fabWaits := rfl
@[simp] theorem State.setWg_reports (s : State) (c : Nat) (w : Workgroup) : (s.setWg c w).reports = s.reports := rfl
@[simp] theorem State.setWg_roce (s : State) (c : Nat) (w : Workgroup) : (s.setWg c w).roce = s.roce := rfl
@[simp] theorem State.setWg_inbox (s : State) (c : Nat) (w : Workgroup) : (s.setWg c w).inbox = s.inbox := rfl
@[simp] theorem State.setWg_hostOut (s : State) (c : Nat) (w : Workgroup) : (s.setWg c w).hostOut = s.hostOut := rfl
@[simp] theorem State.setWg_spdm (s : State) (c : Nat) (w : Workgroup) : (s.setWg c w).spdm = s.spdm := rfl
@[simp] theorem State.setWg_snapSeq (s : State) (c : Nat) (w : Workgroup) : (s.setWg c w).snapSeq = s.snapSeq := rfl

@[simp] theorem State.setGang_agenda (s : State) (c n : Nat) (x : Gang) : (s.setGang c n x).agenda = s.agenda := rfl
@[simp] theorem State.setGang_turn (s : State) (c n : Nat) (x : Gang) : (s.setGang c n x).turn = s.turn := rfl
@[simp] theorem State.setGang_cur (s : State) (c n : Nat) (x : Gang) : (s.setGang c n x).cur = s.cur := rfl
@[simp] theorem State.setGang_free (s : State) (c n : Nat) (x : Gang) : (s.setGang c n x).free = s.free := rfl
@[simp] theorem State.setGang_clock (s : State) (c n : Nat) (x : Gang) : (s.setGang c n x).clock = s.clock := rfl
@[simp] theorem State.setGang_mem (s : State) (c n : Nat) (x : Gang) : (s.setGang c n x).mem = s.mem := rfl
@[simp] theorem State.setGang_poison (s : State) (c n : Nat) (x : Gang) : (s.setGang c n x).poison = s.poison := rfl
@[simp] theorem State.setGang_hmem (s : State) (c n : Nat) (x : Gang) : (s.setGang c n x).hmem = s.hmem := rfl
@[simp] theorem State.setGang_corrected (s : State) (c n : Nat) (x : Gang) : (s.setGang c n x).corrected = s.corrected := rfl
@[simp] theorem State.setGang_gTags (s : State) (c n : Nat) (x : Gang) : (s.setGang c n x).gTags = s.gTags := rfl
@[simp] theorem State.setGang_gRel (s : State) (c n : Nat) (x : Gang) : (s.setGang c n x).gRel = s.gRel := rfl
@[simp] theorem State.setGang_writes (s : State) (c n : Nat) (x : Gang) : (s.setGang c n x).writes = s.writes := rfl
@[simp] theorem State.setGang_past (s : State) (c n : Nat) (x : Gang) : (s.setGang c n x).past = s.past := rfl
@[simp] theorem State.setGang_hand (s : State) (c n : Nat) (x : Gang) : (s.setGang c n x).hand = s.hand := rfl
@[simp] theorem State.setGang_ended (s : State) (c n : Nat) (x : Gang) : (s.setGang c n x).ended = s.ended := rfl
@[simp] theorem State.setGang_between (s : State) (c n : Nat) (x : Gang) : (s.setGang c n x).between = s.between := rfl
@[simp] theorem State.setGang_roots (s : State) (c n : Nat) (x : Gang) : (s.setGang c n x).roots = s.roots := rfl
@[simp] theorem State.setGang_leaves (s : State) (c n : Nat) (x : Gang) : (s.setGang c n x).leaves = s.leaves := rfl
@[simp] theorem State.setGang_tlb (s : State) (c n : Nat) (x : Gang) : (s.setGang c n x).tlb = s.tlb := rfl
@[simp] theorem State.setGang_saved (s : State) (c n : Nat) (x : Gang) : (s.setGang c n x).saved = s.saved := rfl
@[simp] theorem State.setGang_regions (s : State) (c n : Nat) (x : Gang) : (s.setGang c n x).regions = s.regions := rfl
@[simp] theorem State.setGang_backed (s : State) (c n : Nat) (x : Gang) : (s.setGang c n x).backed = s.backed := rfl
@[simp] theorem State.setGang_pool (s : State) (c n : Nat) (x : Gang) : (s.setGang c n x).pool = s.pool := rfl
@[simp] theorem State.setGang_defects (s : State) (c n : Nat) (x : Gang) : (s.setGang c n x).defects = s.defects := rfl
@[simp] theorem State.setGang_devid (s : State) (c n : Nat) (x : Gang) : (s.setGang c n x).devid = s.devid := rfl
@[simp] theorem State.setGang_fuse (s : State) (c n : Nat) (x : Gang) : (s.setGang c n x).fuse = s.fuse := rfl
@[simp] theorem State.setGang_capw (s : State) (c n : Nat) (x : Gang) : (s.setGang c n x).capw = s.capw := rfl
@[simp] theorem State.setGang_preq (s : State) (c n : Nat) (x : Gang) : (s.setGang c n x).preq = s.preq := rfl
@[simp] theorem State.setGang_pstate (s : State) (c n : Nat) (x : Gang) : (s.setGang c n x).pstate = s.pstate := rfl
@[simp] theorem State.setGang_fstep (s : State) (c n : Nat) (x : Gang) : (s.setGang c n x).fstep = s.fstep := rfl
@[simp] theorem State.setGang_capstep (s : State) (c n : Nat) (x : Gang) : (s.setGang c n x).capstep = s.capstep := rfl
@[simp] theorem State.setGang_thermal (s : State) (c n : Nat) (x : Gang) : (s.setGang c n x).thermal = s.thermal := rfl
@[simp] theorem State.setGang_timeBase (s : State) (c n : Nat) (x : Gang) : (s.setGang c n x).timeBase = s.timeBase := rfl
@[simp] theorem State.setGang_unsync (s : State) (c n : Nat) (x : Gang) : (s.setGang c n x).unsync = s.unsync := rfl
@[simp] theorem State.setGang_joined (s : State) (c n : Nat) (x : Gang) : (s.setGang c n x).joined = s.joined := rfl
@[simp] theorem State.setGang_slew (s : State) (c n : Nat) (x : Gang) : (s.setGang c n x).slew = s.slew := rfl
@[simp] theorem State.setGang_slewAt (s : State) (c n : Nat) (x : Gang) : (s.setGang c n x).slewAt = s.slewAt := rfl
@[simp] theorem State.setGang_steps (s : State) (c n : Nat) (x : Gang) : (s.setGang c n x).steps = s.steps := rfl
@[simp] theorem State.setGang_msFreq (s : State) (c n : Nat) (x : Gang) : (s.setGang c n x).msFreq = s.msFreq := rfl
@[simp] theorem State.setGang_msSync (s : State) (c n : Nat) (x : Gang) : (s.setGang c n x).msSync = s.msSync := rfl
@[simp] theorem State.setGang_msPage (s : State) (c n : Nat) (x : Gang) : (s.setGang c n x).msPage = s.msPage := rfl
@[simp] theorem State.setGang_traces (s : State) (c n : Nat) (x : Gang) : (s.setGang c n x).traces = s.traces := rfl
@[simp] theorem State.setGang_edges (s : State) (c n : Nat) (x : Gang) : (s.setGang c n x).edges = s.edges := rfl
@[simp] theorem State.setGang_boot (s : State) (c n : Nat) (x : Gang) : (s.setGang c n x).boot = s.boot := rfl
@[simp] theorem State.setGang_meas (s : State) (c n : Nat) (x : Gang) : (s.setGang c n x).meas = s.meas := rfl
@[simp] theorem State.setGang_security (s : State) (c n : Nat) (x : Gang) : (s.setGang c n x).security = s.security := rfl
@[simp] theorem State.setGang_armed (s : State) (c n : Nat) (x : Gang) : (s.setGang c n x).armed = s.armed := rfl
@[simp] theorem State.setGang_nonce (s : State) (c n : Nat) (x : Gang) : (s.setGang c n x).nonce = s.nonce := rfl
@[simp] theorem State.setGang_tenantDebug (s : State) (c n : Nat) (x : Gang) : (s.setGang c n x).tenantDebug = s.tenantDebug := rfl
@[simp] theorem State.setGang_mail (s : State) (c n : Nat) (x : Gang) : (s.setGang c n x).mail = s.mail := rfl
@[simp] theorem State.setGang_objs (s : State) (c n : Nat) (x : Gang) : (s.setGang c n x).objs = s.objs := rfl
@[simp] theorem State.setGang_lacks (s : State) (c n : Nat) (x : Gang) : (s.setGang c n x).lacks = s.lacks := rfl
@[simp] theorem State.setGang_msix (s : State) (c n : Nat) (x : Gang) : (s.setGang c n x).msix = s.msix := rfl
@[simp] theorem State.setGang_acct (s : State) (c n : Nat) (x : Gang) : (s.setGang c n x).acct = s.acct := rfl
@[simp] theorem State.setGang_energy (s : State) (c n : Nat) (x : Gang) : (s.setGang c n x).energy = s.energy := rfl
@[simp] theorem State.setGang_traffic (s : State) (c n : Nat) (x : Gang) : (s.setGang c n x).traffic = s.traffic := rfl
@[simp] theorem State.setGang_launches (s : State) (c n : Nat) (x : Gang) : (s.setGang c n x).launches = s.launches := rfl
@[simp] theorem State.setGang_nextLaunch (s : State) (c n : Nat) (x : Gang) : (s.setGang c n x).nextLaunch = s.nextLaunch := rfl
@[simp] theorem State.setGang_nextSaved (s : State) (c n : Nat) (x : Gang) : (s.setGang c n x).nextSaved = s.nextSaved := rfl
@[simp] theorem State.setGang_age (s : State) (c n : Nat) (x : Gang) : (s.setGang c n x).age = s.age := rfl
@[simp] theorem State.setGang_ready (s : State) (c n : Nat) (x : Gang) : (s.setGang c n x).ready = s.ready := rfl
@[simp] theorem State.setGang_ports (s : State) (c n : Nat) (x : Gang) : (s.setGang c n x).ports = s.ports := rfl
@[simp] theorem State.setGang_portFaults (s : State) (c n : Nat) (x : Gang) : (s.setGang c n x).portFaults = s.portFaults := rfl
@[simp] theorem State.setGang_routes (s : State) (c n : Nat) (x : Gang) : (s.setGang c n x).routes = s.routes := rfl
@[simp] theorem State.setGang_sent (s : State) (c n : Nat) (x : Gang) : (s.setGang c n x).sent = s.sent := rfl
@[simp] theorem State.setGang_fabWaits (s : State) (c n : Nat) (x : Gang) : (s.setGang c n x).fabWaits = s.fabWaits := rfl
@[simp] theorem State.setGang_reports (s : State) (c n : Nat) (x : Gang) : (s.setGang c n x).reports = s.reports := rfl
@[simp] theorem State.setGang_roce (s : State) (c n : Nat) (x : Gang) : (s.setGang c n x).roce = s.roce := rfl
@[simp] theorem State.setGang_inbox (s : State) (c n : Nat) (x : Gang) : (s.setGang c n x).inbox = s.inbox := rfl
@[simp] theorem State.setGang_hostOut (s : State) (c n : Nat) (x : Gang) : (s.setGang c n x).hostOut = s.hostOut := rfl
@[simp] theorem State.setGang_spdm (s : State) (c n : Nat) (x : Gang) : (s.setGang c n x).spdm = s.spdm := rfl
@[simp] theorem State.setGang_snapSeq (s : State) (c n : Nat) (x : Gang) : (s.setGang c n x).snapSeq = s.snapSeq := rfl

@[simp] theorem State.updGang_agenda (s : State) (c n : Nat) (f : Gang → Gang) : (s.updGang c n f).agenda = s.agenda := rfl
@[simp] theorem State.updGang_turn (s : State) (c n : Nat) (f : Gang → Gang) : (s.updGang c n f).turn = s.turn := rfl
@[simp] theorem State.updGang_cur (s : State) (c n : Nat) (f : Gang → Gang) : (s.updGang c n f).cur = s.cur := rfl
@[simp] theorem State.updGang_free (s : State) (c n : Nat) (f : Gang → Gang) : (s.updGang c n f).free = s.free := rfl
@[simp] theorem State.updGang_clock (s : State) (c n : Nat) (f : Gang → Gang) : (s.updGang c n f).clock = s.clock := rfl
@[simp] theorem State.updGang_mem (s : State) (c n : Nat) (f : Gang → Gang) : (s.updGang c n f).mem = s.mem := rfl
@[simp] theorem State.updGang_poison (s : State) (c n : Nat) (f : Gang → Gang) : (s.updGang c n f).poison = s.poison := rfl
@[simp] theorem State.updGang_hmem (s : State) (c n : Nat) (f : Gang → Gang) : (s.updGang c n f).hmem = s.hmem := rfl
@[simp] theorem State.updGang_corrected (s : State) (c n : Nat) (f : Gang → Gang) : (s.updGang c n f).corrected = s.corrected := rfl
@[simp] theorem State.updGang_gTags (s : State) (c n : Nat) (f : Gang → Gang) : (s.updGang c n f).gTags = s.gTags := rfl
@[simp] theorem State.updGang_gRel (s : State) (c n : Nat) (f : Gang → Gang) : (s.updGang c n f).gRel = s.gRel := rfl
@[simp] theorem State.updGang_writes (s : State) (c n : Nat) (f : Gang → Gang) : (s.updGang c n f).writes = s.writes := rfl
@[simp] theorem State.updGang_past (s : State) (c n : Nat) (f : Gang → Gang) : (s.updGang c n f).past = s.past := rfl
@[simp] theorem State.updGang_hand (s : State) (c n : Nat) (f : Gang → Gang) : (s.updGang c n f).hand = s.hand := rfl
@[simp] theorem State.updGang_ended (s : State) (c n : Nat) (f : Gang → Gang) : (s.updGang c n f).ended = s.ended := rfl
@[simp] theorem State.updGang_between (s : State) (c n : Nat) (f : Gang → Gang) : (s.updGang c n f).between = s.between := rfl
@[simp] theorem State.updGang_roots (s : State) (c n : Nat) (f : Gang → Gang) : (s.updGang c n f).roots = s.roots := rfl
@[simp] theorem State.updGang_leaves (s : State) (c n : Nat) (f : Gang → Gang) : (s.updGang c n f).leaves = s.leaves := rfl
@[simp] theorem State.updGang_tlb (s : State) (c n : Nat) (f : Gang → Gang) : (s.updGang c n f).tlb = s.tlb := rfl
@[simp] theorem State.updGang_saved (s : State) (c n : Nat) (f : Gang → Gang) : (s.updGang c n f).saved = s.saved := rfl
@[simp] theorem State.updGang_regions (s : State) (c n : Nat) (f : Gang → Gang) : (s.updGang c n f).regions = s.regions := rfl
@[simp] theorem State.updGang_backed (s : State) (c n : Nat) (f : Gang → Gang) : (s.updGang c n f).backed = s.backed := rfl
@[simp] theorem State.updGang_pool (s : State) (c n : Nat) (f : Gang → Gang) : (s.updGang c n f).pool = s.pool := rfl
@[simp] theorem State.updGang_defects (s : State) (c n : Nat) (f : Gang → Gang) : (s.updGang c n f).defects = s.defects := rfl
@[simp] theorem State.updGang_devid (s : State) (c n : Nat) (f : Gang → Gang) : (s.updGang c n f).devid = s.devid := rfl
@[simp] theorem State.updGang_fuse (s : State) (c n : Nat) (f : Gang → Gang) : (s.updGang c n f).fuse = s.fuse := rfl
@[simp] theorem State.updGang_capw (s : State) (c n : Nat) (f : Gang → Gang) : (s.updGang c n f).capw = s.capw := rfl
@[simp] theorem State.updGang_preq (s : State) (c n : Nat) (f : Gang → Gang) : (s.updGang c n f).preq = s.preq := rfl
@[simp] theorem State.updGang_pstate (s : State) (c n : Nat) (f : Gang → Gang) : (s.updGang c n f).pstate = s.pstate := rfl
@[simp] theorem State.updGang_fstep (s : State) (c n : Nat) (f : Gang → Gang) : (s.updGang c n f).fstep = s.fstep := rfl
@[simp] theorem State.updGang_capstep (s : State) (c n : Nat) (f : Gang → Gang) : (s.updGang c n f).capstep = s.capstep := rfl
@[simp] theorem State.updGang_thermal (s : State) (c n : Nat) (f : Gang → Gang) : (s.updGang c n f).thermal = s.thermal := rfl
@[simp] theorem State.updGang_timeBase (s : State) (c n : Nat) (f : Gang → Gang) : (s.updGang c n f).timeBase = s.timeBase := rfl
@[simp] theorem State.updGang_unsync (s : State) (c n : Nat) (f : Gang → Gang) : (s.updGang c n f).unsync = s.unsync := rfl
@[simp] theorem State.updGang_joined (s : State) (c n : Nat) (f : Gang → Gang) : (s.updGang c n f).joined = s.joined := rfl
@[simp] theorem State.updGang_slew (s : State) (c n : Nat) (f : Gang → Gang) : (s.updGang c n f).slew = s.slew := rfl
@[simp] theorem State.updGang_slewAt (s : State) (c n : Nat) (f : Gang → Gang) : (s.updGang c n f).slewAt = s.slewAt := rfl
@[simp] theorem State.updGang_steps (s : State) (c n : Nat) (f : Gang → Gang) : (s.updGang c n f).steps = s.steps := rfl
@[simp] theorem State.updGang_msFreq (s : State) (c n : Nat) (f : Gang → Gang) : (s.updGang c n f).msFreq = s.msFreq := rfl
@[simp] theorem State.updGang_msSync (s : State) (c n : Nat) (f : Gang → Gang) : (s.updGang c n f).msSync = s.msSync := rfl
@[simp] theorem State.updGang_msPage (s : State) (c n : Nat) (f : Gang → Gang) : (s.updGang c n f).msPage = s.msPage := rfl
@[simp] theorem State.updGang_traces (s : State) (c n : Nat) (f : Gang → Gang) : (s.updGang c n f).traces = s.traces := rfl
@[simp] theorem State.updGang_edges (s : State) (c n : Nat) (f : Gang → Gang) : (s.updGang c n f).edges = s.edges := rfl
@[simp] theorem State.updGang_boot (s : State) (c n : Nat) (f : Gang → Gang) : (s.updGang c n f).boot = s.boot := rfl
@[simp] theorem State.updGang_meas (s : State) (c n : Nat) (f : Gang → Gang) : (s.updGang c n f).meas = s.meas := rfl
@[simp] theorem State.updGang_security (s : State) (c n : Nat) (f : Gang → Gang) : (s.updGang c n f).security = s.security := rfl
@[simp] theorem State.updGang_armed (s : State) (c n : Nat) (f : Gang → Gang) : (s.updGang c n f).armed = s.armed := rfl
@[simp] theorem State.updGang_nonce (s : State) (c n : Nat) (f : Gang → Gang) : (s.updGang c n f).nonce = s.nonce := rfl
@[simp] theorem State.updGang_tenantDebug (s : State) (c n : Nat) (f : Gang → Gang) : (s.updGang c n f).tenantDebug = s.tenantDebug := rfl
@[simp] theorem State.updGang_mail (s : State) (c n : Nat) (f : Gang → Gang) : (s.updGang c n f).mail = s.mail := rfl
@[simp] theorem State.updGang_objs (s : State) (c n : Nat) (f : Gang → Gang) : (s.updGang c n f).objs = s.objs := rfl
@[simp] theorem State.updGang_lacks (s : State) (c n : Nat) (f : Gang → Gang) : (s.updGang c n f).lacks = s.lacks := rfl
@[simp] theorem State.updGang_msix (s : State) (c n : Nat) (f : Gang → Gang) : (s.updGang c n f).msix = s.msix := rfl
@[simp] theorem State.updGang_acct (s : State) (c n : Nat) (f : Gang → Gang) : (s.updGang c n f).acct = s.acct := rfl
@[simp] theorem State.updGang_energy (s : State) (c n : Nat) (f : Gang → Gang) : (s.updGang c n f).energy = s.energy := rfl
@[simp] theorem State.updGang_traffic (s : State) (c n : Nat) (f : Gang → Gang) : (s.updGang c n f).traffic = s.traffic := rfl
@[simp] theorem State.updGang_launches (s : State) (c n : Nat) (f : Gang → Gang) : (s.updGang c n f).launches = s.launches := rfl
@[simp] theorem State.updGang_nextLaunch (s : State) (c n : Nat) (f : Gang → Gang) : (s.updGang c n f).nextLaunch = s.nextLaunch := rfl
@[simp] theorem State.updGang_nextSaved (s : State) (c n : Nat) (f : Gang → Gang) : (s.updGang c n f).nextSaved = s.nextSaved := rfl
@[simp] theorem State.updGang_age (s : State) (c n : Nat) (f : Gang → Gang) : (s.updGang c n f).age = s.age := rfl
@[simp] theorem State.updGang_ready (s : State) (c n : Nat) (f : Gang → Gang) : (s.updGang c n f).ready = s.ready := rfl
@[simp] theorem State.updGang_ports (s : State) (c n : Nat) (f : Gang → Gang) : (s.updGang c n f).ports = s.ports := rfl
@[simp] theorem State.updGang_portFaults (s : State) (c n : Nat) (f : Gang → Gang) : (s.updGang c n f).portFaults = s.portFaults := rfl
@[simp] theorem State.updGang_routes (s : State) (c n : Nat) (f : Gang → Gang) : (s.updGang c n f).routes = s.routes := rfl
@[simp] theorem State.updGang_sent (s : State) (c n : Nat) (f : Gang → Gang) : (s.updGang c n f).sent = s.sent := rfl
@[simp] theorem State.updGang_fabWaits (s : State) (c n : Nat) (f : Gang → Gang) : (s.updGang c n f).fabWaits = s.fabWaits := rfl
@[simp] theorem State.updGang_reports (s : State) (c n : Nat) (f : Gang → Gang) : (s.updGang c n f).reports = s.reports := rfl
@[simp] theorem State.updGang_roce (s : State) (c n : Nat) (f : Gang → Gang) : (s.updGang c n f).roce = s.roce := rfl
@[simp] theorem State.updGang_inbox (s : State) (c n : Nat) (f : Gang → Gang) : (s.updGang c n f).inbox = s.inbox := rfl
@[simp] theorem State.updGang_hostOut (s : State) (c n : Nat) (f : Gang → Gang) : (s.updGang c n f).hostOut = s.hostOut := rfl
@[simp] theorem State.updGang_spdm (s : State) (c n : Nat) (f : Gang → Gang) : (s.updGang c n f).spdm = s.spdm := rfl
@[simp] theorem State.updGang_snapSeq (s : State) (c n : Nat) (f : Gang → Gang) : (s.updGang c n f).snapSeq = s.snapSeq := rfl

@[simp] theorem State.updWg_agenda (s : State) (c : Nat) (f : Workgroup → Workgroup) : (s.updWg c f).agenda = s.agenda := rfl
@[simp] theorem State.updWg_turn (s : State) (c : Nat) (f : Workgroup → Workgroup) : (s.updWg c f).turn = s.turn := rfl
@[simp] theorem State.updWg_cur (s : State) (c : Nat) (f : Workgroup → Workgroup) : (s.updWg c f).cur = s.cur := rfl
@[simp] theorem State.updWg_free (s : State) (c : Nat) (f : Workgroup → Workgroup) : (s.updWg c f).free = s.free := rfl
@[simp] theorem State.updWg_clock (s : State) (c : Nat) (f : Workgroup → Workgroup) : (s.updWg c f).clock = s.clock := rfl
@[simp] theorem State.updWg_mem (s : State) (c : Nat) (f : Workgroup → Workgroup) : (s.updWg c f).mem = s.mem := rfl
@[simp] theorem State.updWg_poison (s : State) (c : Nat) (f : Workgroup → Workgroup) : (s.updWg c f).poison = s.poison := rfl
@[simp] theorem State.updWg_hmem (s : State) (c : Nat) (f : Workgroup → Workgroup) : (s.updWg c f).hmem = s.hmem := rfl
@[simp] theorem State.updWg_corrected (s : State) (c : Nat) (f : Workgroup → Workgroup) : (s.updWg c f).corrected = s.corrected := rfl
@[simp] theorem State.updWg_gTags (s : State) (c : Nat) (f : Workgroup → Workgroup) : (s.updWg c f).gTags = s.gTags := rfl
@[simp] theorem State.updWg_gRel (s : State) (c : Nat) (f : Workgroup → Workgroup) : (s.updWg c f).gRel = s.gRel := rfl
@[simp] theorem State.updWg_writes (s : State) (c : Nat) (f : Workgroup → Workgroup) : (s.updWg c f).writes = s.writes := rfl
@[simp] theorem State.updWg_past (s : State) (c : Nat) (f : Workgroup → Workgroup) : (s.updWg c f).past = s.past := rfl
@[simp] theorem State.updWg_hand (s : State) (c : Nat) (f : Workgroup → Workgroup) : (s.updWg c f).hand = s.hand := rfl
@[simp] theorem State.updWg_ended (s : State) (c : Nat) (f : Workgroup → Workgroup) : (s.updWg c f).ended = s.ended := rfl
@[simp] theorem State.updWg_between (s : State) (c : Nat) (f : Workgroup → Workgroup) : (s.updWg c f).between = s.between := rfl
@[simp] theorem State.updWg_roots (s : State) (c : Nat) (f : Workgroup → Workgroup) : (s.updWg c f).roots = s.roots := rfl
@[simp] theorem State.updWg_leaves (s : State) (c : Nat) (f : Workgroup → Workgroup) : (s.updWg c f).leaves = s.leaves := rfl
@[simp] theorem State.updWg_tlb (s : State) (c : Nat) (f : Workgroup → Workgroup) : (s.updWg c f).tlb = s.tlb := rfl
@[simp] theorem State.updWg_saved (s : State) (c : Nat) (f : Workgroup → Workgroup) : (s.updWg c f).saved = s.saved := rfl
@[simp] theorem State.updWg_regions (s : State) (c : Nat) (f : Workgroup → Workgroup) : (s.updWg c f).regions = s.regions := rfl
@[simp] theorem State.updWg_backed (s : State) (c : Nat) (f : Workgroup → Workgroup) : (s.updWg c f).backed = s.backed := rfl
@[simp] theorem State.updWg_pool (s : State) (c : Nat) (f : Workgroup → Workgroup) : (s.updWg c f).pool = s.pool := rfl
@[simp] theorem State.updWg_defects (s : State) (c : Nat) (f : Workgroup → Workgroup) : (s.updWg c f).defects = s.defects := rfl
@[simp] theorem State.updWg_devid (s : State) (c : Nat) (f : Workgroup → Workgroup) : (s.updWg c f).devid = s.devid := rfl
@[simp] theorem State.updWg_fuse (s : State) (c : Nat) (f : Workgroup → Workgroup) : (s.updWg c f).fuse = s.fuse := rfl
@[simp] theorem State.updWg_capw (s : State) (c : Nat) (f : Workgroup → Workgroup) : (s.updWg c f).capw = s.capw := rfl
@[simp] theorem State.updWg_preq (s : State) (c : Nat) (f : Workgroup → Workgroup) : (s.updWg c f).preq = s.preq := rfl
@[simp] theorem State.updWg_pstate (s : State) (c : Nat) (f : Workgroup → Workgroup) : (s.updWg c f).pstate = s.pstate := rfl
@[simp] theorem State.updWg_fstep (s : State) (c : Nat) (f : Workgroup → Workgroup) : (s.updWg c f).fstep = s.fstep := rfl
@[simp] theorem State.updWg_capstep (s : State) (c : Nat) (f : Workgroup → Workgroup) : (s.updWg c f).capstep = s.capstep := rfl
@[simp] theorem State.updWg_thermal (s : State) (c : Nat) (f : Workgroup → Workgroup) : (s.updWg c f).thermal = s.thermal := rfl
@[simp] theorem State.updWg_timeBase (s : State) (c : Nat) (f : Workgroup → Workgroup) : (s.updWg c f).timeBase = s.timeBase := rfl
@[simp] theorem State.updWg_unsync (s : State) (c : Nat) (f : Workgroup → Workgroup) : (s.updWg c f).unsync = s.unsync := rfl
@[simp] theorem State.updWg_joined (s : State) (c : Nat) (f : Workgroup → Workgroup) : (s.updWg c f).joined = s.joined := rfl
@[simp] theorem State.updWg_slew (s : State) (c : Nat) (f : Workgroup → Workgroup) : (s.updWg c f).slew = s.slew := rfl
@[simp] theorem State.updWg_slewAt (s : State) (c : Nat) (f : Workgroup → Workgroup) : (s.updWg c f).slewAt = s.slewAt := rfl
@[simp] theorem State.updWg_steps (s : State) (c : Nat) (f : Workgroup → Workgroup) : (s.updWg c f).steps = s.steps := rfl
@[simp] theorem State.updWg_msFreq (s : State) (c : Nat) (f : Workgroup → Workgroup) : (s.updWg c f).msFreq = s.msFreq := rfl
@[simp] theorem State.updWg_msSync (s : State) (c : Nat) (f : Workgroup → Workgroup) : (s.updWg c f).msSync = s.msSync := rfl
@[simp] theorem State.updWg_msPage (s : State) (c : Nat) (f : Workgroup → Workgroup) : (s.updWg c f).msPage = s.msPage := rfl
@[simp] theorem State.updWg_traces (s : State) (c : Nat) (f : Workgroup → Workgroup) : (s.updWg c f).traces = s.traces := rfl
@[simp] theorem State.updWg_edges (s : State) (c : Nat) (f : Workgroup → Workgroup) : (s.updWg c f).edges = s.edges := rfl
@[simp] theorem State.updWg_boot (s : State) (c : Nat) (f : Workgroup → Workgroup) : (s.updWg c f).boot = s.boot := rfl
@[simp] theorem State.updWg_meas (s : State) (c : Nat) (f : Workgroup → Workgroup) : (s.updWg c f).meas = s.meas := rfl
@[simp] theorem State.updWg_security (s : State) (c : Nat) (f : Workgroup → Workgroup) : (s.updWg c f).security = s.security := rfl
@[simp] theorem State.updWg_armed (s : State) (c : Nat) (f : Workgroup → Workgroup) : (s.updWg c f).armed = s.armed := rfl
@[simp] theorem State.updWg_nonce (s : State) (c : Nat) (f : Workgroup → Workgroup) : (s.updWg c f).nonce = s.nonce := rfl
@[simp] theorem State.updWg_tenantDebug (s : State) (c : Nat) (f : Workgroup → Workgroup) : (s.updWg c f).tenantDebug = s.tenantDebug := rfl
@[simp] theorem State.updWg_mail (s : State) (c : Nat) (f : Workgroup → Workgroup) : (s.updWg c f).mail = s.mail := rfl
@[simp] theorem State.updWg_objs (s : State) (c : Nat) (f : Workgroup → Workgroup) : (s.updWg c f).objs = s.objs := rfl
@[simp] theorem State.updWg_lacks (s : State) (c : Nat) (f : Workgroup → Workgroup) : (s.updWg c f).lacks = s.lacks := rfl
@[simp] theorem State.updWg_msix (s : State) (c : Nat) (f : Workgroup → Workgroup) : (s.updWg c f).msix = s.msix := rfl
@[simp] theorem State.updWg_acct (s : State) (c : Nat) (f : Workgroup → Workgroup) : (s.updWg c f).acct = s.acct := rfl
@[simp] theorem State.updWg_energy (s : State) (c : Nat) (f : Workgroup → Workgroup) : (s.updWg c f).energy = s.energy := rfl
@[simp] theorem State.updWg_traffic (s : State) (c : Nat) (f : Workgroup → Workgroup) : (s.updWg c f).traffic = s.traffic := rfl
@[simp] theorem State.updWg_launches (s : State) (c : Nat) (f : Workgroup → Workgroup) : (s.updWg c f).launches = s.launches := rfl
@[simp] theorem State.updWg_nextLaunch (s : State) (c : Nat) (f : Workgroup → Workgroup) : (s.updWg c f).nextLaunch = s.nextLaunch := rfl
@[simp] theorem State.updWg_nextSaved (s : State) (c : Nat) (f : Workgroup → Workgroup) : (s.updWg c f).nextSaved = s.nextSaved := rfl
@[simp] theorem State.updWg_age (s : State) (c : Nat) (f : Workgroup → Workgroup) : (s.updWg c f).age = s.age := rfl
@[simp] theorem State.updWg_ready (s : State) (c : Nat) (f : Workgroup → Workgroup) : (s.updWg c f).ready = s.ready := rfl
@[simp] theorem State.updWg_ports (s : State) (c : Nat) (f : Workgroup → Workgroup) : (s.updWg c f).ports = s.ports := rfl
@[simp] theorem State.updWg_portFaults (s : State) (c : Nat) (f : Workgroup → Workgroup) : (s.updWg c f).portFaults = s.portFaults := rfl
@[simp] theorem State.updWg_routes (s : State) (c : Nat) (f : Workgroup → Workgroup) : (s.updWg c f).routes = s.routes := rfl
@[simp] theorem State.updWg_sent (s : State) (c : Nat) (f : Workgroup → Workgroup) : (s.updWg c f).sent = s.sent := rfl
@[simp] theorem State.updWg_fabWaits (s : State) (c : Nat) (f : Workgroup → Workgroup) : (s.updWg c f).fabWaits = s.fabWaits := rfl
@[simp] theorem State.updWg_reports (s : State) (c : Nat) (f : Workgroup → Workgroup) : (s.updWg c f).reports = s.reports := rfl
@[simp] theorem State.updWg_roce (s : State) (c : Nat) (f : Workgroup → Workgroup) : (s.updWg c f).roce = s.roce := rfl
@[simp] theorem State.updWg_inbox (s : State) (c : Nat) (f : Workgroup → Workgroup) : (s.updWg c f).inbox = s.inbox := rfl
@[simp] theorem State.updWg_hostOut (s : State) (c : Nat) (f : Workgroup → Workgroup) : (s.updWg c f).hostOut = s.hostOut := rfl
@[simp] theorem State.updWg_spdm (s : State) (c : Nat) (f : Workgroup → Workgroup) : (s.updWg c f).spdm = s.spdm := rfl
@[simp] theorem State.updWg_snapSeq (s : State) (c : Nat) (f : Workgroup → Workgroup) : (s.updWg c f).snapSeq = s.snapSeq := rfl

@[simp] theorem State.charge_agenda (s : State) (d : BitVec 8) (i n : Nat) : (s.charge d i n).agenda = s.agenda := rfl
@[simp] theorem State.charge_turn (s : State) (d : BitVec 8) (i n : Nat) : (s.charge d i n).turn = s.turn := rfl
@[simp] theorem State.charge_cur (s : State) (d : BitVec 8) (i n : Nat) : (s.charge d i n).cur = s.cur := rfl
@[simp] theorem State.charge_free (s : State) (d : BitVec 8) (i n : Nat) : (s.charge d i n).free = s.free := rfl
@[simp] theorem State.charge_cores (s : State) (d : BitVec 8) (i n : Nat) : (s.charge d i n).cores = s.cores := rfl
@[simp] theorem State.charge_clock (s : State) (d : BitVec 8) (i n : Nat) : (s.charge d i n).clock = s.clock := rfl
@[simp] theorem State.charge_mem (s : State) (d : BitVec 8) (i n : Nat) : (s.charge d i n).mem = s.mem := rfl
@[simp] theorem State.charge_poison (s : State) (d : BitVec 8) (i n : Nat) : (s.charge d i n).poison = s.poison := rfl
@[simp] theorem State.charge_hmem (s : State) (d : BitVec 8) (i n : Nat) : (s.charge d i n).hmem = s.hmem := rfl
@[simp] theorem State.charge_corrected (s : State) (d : BitVec 8) (i n : Nat) : (s.charge d i n).corrected = s.corrected := rfl
@[simp] theorem State.charge_gTags (s : State) (d : BitVec 8) (i n : Nat) : (s.charge d i n).gTags = s.gTags := rfl
@[simp] theorem State.charge_gRel (s : State) (d : BitVec 8) (i n : Nat) : (s.charge d i n).gRel = s.gRel := rfl
@[simp] theorem State.charge_writes (s : State) (d : BitVec 8) (i n : Nat) : (s.charge d i n).writes = s.writes := rfl
@[simp] theorem State.charge_past (s : State) (d : BitVec 8) (i n : Nat) : (s.charge d i n).past = s.past := rfl
@[simp] theorem State.charge_hand (s : State) (d : BitVec 8) (i n : Nat) : (s.charge d i n).hand = s.hand := rfl
@[simp] theorem State.charge_ended (s : State) (d : BitVec 8) (i n : Nat) : (s.charge d i n).ended = s.ended := rfl
@[simp] theorem State.charge_between (s : State) (d : BitVec 8) (i n : Nat) : (s.charge d i n).between = s.between := rfl
@[simp] theorem State.charge_roots (s : State) (d : BitVec 8) (i n : Nat) : (s.charge d i n).roots = s.roots := rfl
@[simp] theorem State.charge_leaves (s : State) (d : BitVec 8) (i n : Nat) : (s.charge d i n).leaves = s.leaves := rfl
@[simp] theorem State.charge_tlb (s : State) (d : BitVec 8) (i n : Nat) : (s.charge d i n).tlb = s.tlb := rfl
@[simp] theorem State.charge_saved (s : State) (d : BitVec 8) (i n : Nat) : (s.charge d i n).saved = s.saved := rfl
@[simp] theorem State.charge_regions (s : State) (d : BitVec 8) (i n : Nat) : (s.charge d i n).regions = s.regions := rfl
@[simp] theorem State.charge_backed (s : State) (d : BitVec 8) (i n : Nat) : (s.charge d i n).backed = s.backed := rfl
@[simp] theorem State.charge_pool (s : State) (d : BitVec 8) (i n : Nat) : (s.charge d i n).pool = s.pool := rfl
@[simp] theorem State.charge_defects (s : State) (d : BitVec 8) (i n : Nat) : (s.charge d i n).defects = s.defects := rfl
@[simp] theorem State.charge_devid (s : State) (d : BitVec 8) (i n : Nat) : (s.charge d i n).devid = s.devid := rfl
@[simp] theorem State.charge_fuse (s : State) (d : BitVec 8) (i n : Nat) : (s.charge d i n).fuse = s.fuse := rfl
@[simp] theorem State.charge_capw (s : State) (d : BitVec 8) (i n : Nat) : (s.charge d i n).capw = s.capw := rfl
@[simp] theorem State.charge_preq (s : State) (d : BitVec 8) (i n : Nat) : (s.charge d i n).preq = s.preq := rfl
@[simp] theorem State.charge_pstate (s : State) (d : BitVec 8) (i n : Nat) : (s.charge d i n).pstate = s.pstate := rfl
@[simp] theorem State.charge_fstep (s : State) (d : BitVec 8) (i n : Nat) : (s.charge d i n).fstep = s.fstep := rfl
@[simp] theorem State.charge_capstep (s : State) (d : BitVec 8) (i n : Nat) : (s.charge d i n).capstep = s.capstep := rfl
@[simp] theorem State.charge_thermal (s : State) (d : BitVec 8) (i n : Nat) : (s.charge d i n).thermal = s.thermal := rfl
@[simp] theorem State.charge_timeBase (s : State) (d : BitVec 8) (i n : Nat) : (s.charge d i n).timeBase = s.timeBase := rfl
@[simp] theorem State.charge_unsync (s : State) (d : BitVec 8) (i n : Nat) : (s.charge d i n).unsync = s.unsync := rfl
@[simp] theorem State.charge_joined (s : State) (d : BitVec 8) (i n : Nat) : (s.charge d i n).joined = s.joined := rfl
@[simp] theorem State.charge_slew (s : State) (d : BitVec 8) (i n : Nat) : (s.charge d i n).slew = s.slew := rfl
@[simp] theorem State.charge_slewAt (s : State) (d : BitVec 8) (i n : Nat) : (s.charge d i n).slewAt = s.slewAt := rfl
@[simp] theorem State.charge_steps (s : State) (d : BitVec 8) (i n : Nat) : (s.charge d i n).steps = s.steps := rfl
@[simp] theorem State.charge_msFreq (s : State) (d : BitVec 8) (i n : Nat) : (s.charge d i n).msFreq = s.msFreq := rfl
@[simp] theorem State.charge_msSync (s : State) (d : BitVec 8) (i n : Nat) : (s.charge d i n).msSync = s.msSync := rfl
@[simp] theorem State.charge_msPage (s : State) (d : BitVec 8) (i n : Nat) : (s.charge d i n).msPage = s.msPage := rfl
@[simp] theorem State.charge_traces (s : State) (d : BitVec 8) (i n : Nat) : (s.charge d i n).traces = s.traces := rfl
@[simp] theorem State.charge_edges (s : State) (d : BitVec 8) (i n : Nat) : (s.charge d i n).edges = s.edges := rfl
@[simp] theorem State.charge_boot (s : State) (d : BitVec 8) (i n : Nat) : (s.charge d i n).boot = s.boot := rfl
@[simp] theorem State.charge_meas (s : State) (d : BitVec 8) (i n : Nat) : (s.charge d i n).meas = s.meas := rfl
@[simp] theorem State.charge_security (s : State) (d : BitVec 8) (i n : Nat) : (s.charge d i n).security = s.security := rfl
@[simp] theorem State.charge_armed (s : State) (d : BitVec 8) (i n : Nat) : (s.charge d i n).armed = s.armed := rfl
@[simp] theorem State.charge_nonce (s : State) (d : BitVec 8) (i n : Nat) : (s.charge d i n).nonce = s.nonce := rfl
@[simp] theorem State.charge_tenantDebug (s : State) (d : BitVec 8) (i n : Nat) : (s.charge d i n).tenantDebug = s.tenantDebug := rfl
@[simp] theorem State.charge_mail (s : State) (d : BitVec 8) (i n : Nat) : (s.charge d i n).mail = s.mail := rfl
@[simp] theorem State.charge_objs (s : State) (d : BitVec 8) (i n : Nat) : (s.charge d i n).objs = s.objs := rfl
@[simp] theorem State.charge_lacks (s : State) (d : BitVec 8) (i n : Nat) : (s.charge d i n).lacks = s.lacks := rfl
@[simp] theorem State.charge_msix (s : State) (d : BitVec 8) (i n : Nat) : (s.charge d i n).msix = s.msix := rfl
@[simp] theorem State.charge_energy (s : State) (d : BitVec 8) (i n : Nat) : (s.charge d i n).energy = s.energy := rfl
@[simp] theorem State.charge_traffic (s : State) (d : BitVec 8) (i n : Nat) : (s.charge d i n).traffic = s.traffic := rfl
@[simp] theorem State.charge_launches (s : State) (d : BitVec 8) (i n : Nat) : (s.charge d i n).launches = s.launches := rfl
@[simp] theorem State.charge_nextLaunch (s : State) (d : BitVec 8) (i n : Nat) : (s.charge d i n).nextLaunch = s.nextLaunch := rfl
@[simp] theorem State.charge_nextSaved (s : State) (d : BitVec 8) (i n : Nat) : (s.charge d i n).nextSaved = s.nextSaved := rfl
@[simp] theorem State.charge_age (s : State) (d : BitVec 8) (i n : Nat) : (s.charge d i n).age = s.age := rfl
@[simp] theorem State.charge_ready (s : State) (d : BitVec 8) (i n : Nat) : (s.charge d i n).ready = s.ready := rfl
@[simp] theorem State.charge_ports (s : State) (d : BitVec 8) (i n : Nat) : (s.charge d i n).ports = s.ports := rfl
@[simp] theorem State.charge_portFaults (s : State) (d : BitVec 8) (i n : Nat) : (s.charge d i n).portFaults = s.portFaults := rfl
@[simp] theorem State.charge_routes (s : State) (d : BitVec 8) (i n : Nat) : (s.charge d i n).routes = s.routes := rfl
@[simp] theorem State.charge_sent (s : State) (d : BitVec 8) (i n : Nat) : (s.charge d i n).sent = s.sent := rfl
@[simp] theorem State.charge_fabWaits (s : State) (d : BitVec 8) (i n : Nat) : (s.charge d i n).fabWaits = s.fabWaits := rfl
@[simp] theorem State.charge_reports (s : State) (d : BitVec 8) (i n : Nat) : (s.charge d i n).reports = s.reports := rfl
@[simp] theorem State.charge_roce (s : State) (d : BitVec 8) (i n : Nat) : (s.charge d i n).roce = s.roce := rfl
@[simp] theorem State.charge_inbox (s : State) (d : BitVec 8) (i n : Nat) : (s.charge d i n).inbox = s.inbox := rfl
@[simp] theorem State.charge_hostOut (s : State) (d : BitVec 8) (i n : Nat) : (s.charge d i n).hostOut = s.hostOut := rfl
@[simp] theorem State.charge_spdm (s : State) (d : BitVec 8) (i n : Nat) : (s.charge d i n).spdm = s.spdm := rfl
@[simp] theorem State.charge_snapSeq (s : State) (d : BitVec 8) (i n : Nat) : (s.charge d i n).snapSeq = s.snapSeq := rfl

@[simp] theorem State.spend_agenda (s : State) (d : BitVec 8) (n : Nat) : (s.spend d n).agenda = s.agenda := rfl
@[simp] theorem State.spend_turn (s : State) (d : BitVec 8) (n : Nat) : (s.spend d n).turn = s.turn := rfl
@[simp] theorem State.spend_cur (s : State) (d : BitVec 8) (n : Nat) : (s.spend d n).cur = s.cur := rfl
@[simp] theorem State.spend_free (s : State) (d : BitVec 8) (n : Nat) : (s.spend d n).free = s.free := rfl
@[simp] theorem State.spend_cores (s : State) (d : BitVec 8) (n : Nat) : (s.spend d n).cores = s.cores := rfl
@[simp] theorem State.spend_clock (s : State) (d : BitVec 8) (n : Nat) : (s.spend d n).clock = s.clock := rfl
@[simp] theorem State.spend_mem (s : State) (d : BitVec 8) (n : Nat) : (s.spend d n).mem = s.mem := rfl
@[simp] theorem State.spend_poison (s : State) (d : BitVec 8) (n : Nat) : (s.spend d n).poison = s.poison := rfl
@[simp] theorem State.spend_hmem (s : State) (d : BitVec 8) (n : Nat) : (s.spend d n).hmem = s.hmem := rfl
@[simp] theorem State.spend_corrected (s : State) (d : BitVec 8) (n : Nat) : (s.spend d n).corrected = s.corrected := rfl
@[simp] theorem State.spend_gTags (s : State) (d : BitVec 8) (n : Nat) : (s.spend d n).gTags = s.gTags := rfl
@[simp] theorem State.spend_gRel (s : State) (d : BitVec 8) (n : Nat) : (s.spend d n).gRel = s.gRel := rfl
@[simp] theorem State.spend_writes (s : State) (d : BitVec 8) (n : Nat) : (s.spend d n).writes = s.writes := rfl
@[simp] theorem State.spend_past (s : State) (d : BitVec 8) (n : Nat) : (s.spend d n).past = s.past := rfl
@[simp] theorem State.spend_hand (s : State) (d : BitVec 8) (n : Nat) : (s.spend d n).hand = s.hand := rfl
@[simp] theorem State.spend_ended (s : State) (d : BitVec 8) (n : Nat) : (s.spend d n).ended = s.ended := rfl
@[simp] theorem State.spend_between (s : State) (d : BitVec 8) (n : Nat) : (s.spend d n).between = s.between := rfl
@[simp] theorem State.spend_roots (s : State) (d : BitVec 8) (n : Nat) : (s.spend d n).roots = s.roots := rfl
@[simp] theorem State.spend_leaves (s : State) (d : BitVec 8) (n : Nat) : (s.spend d n).leaves = s.leaves := rfl
@[simp] theorem State.spend_tlb (s : State) (d : BitVec 8) (n : Nat) : (s.spend d n).tlb = s.tlb := rfl
@[simp] theorem State.spend_saved (s : State) (d : BitVec 8) (n : Nat) : (s.spend d n).saved = s.saved := rfl
@[simp] theorem State.spend_regions (s : State) (d : BitVec 8) (n : Nat) : (s.spend d n).regions = s.regions := rfl
@[simp] theorem State.spend_backed (s : State) (d : BitVec 8) (n : Nat) : (s.spend d n).backed = s.backed := rfl
@[simp] theorem State.spend_pool (s : State) (d : BitVec 8) (n : Nat) : (s.spend d n).pool = s.pool := rfl
@[simp] theorem State.spend_defects (s : State) (d : BitVec 8) (n : Nat) : (s.spend d n).defects = s.defects := rfl
@[simp] theorem State.spend_devid (s : State) (d : BitVec 8) (n : Nat) : (s.spend d n).devid = s.devid := rfl
@[simp] theorem State.spend_fuse (s : State) (d : BitVec 8) (n : Nat) : (s.spend d n).fuse = s.fuse := rfl
@[simp] theorem State.spend_capw (s : State) (d : BitVec 8) (n : Nat) : (s.spend d n).capw = s.capw := rfl
@[simp] theorem State.spend_preq (s : State) (d : BitVec 8) (n : Nat) : (s.spend d n).preq = s.preq := rfl
@[simp] theorem State.spend_pstate (s : State) (d : BitVec 8) (n : Nat) : (s.spend d n).pstate = s.pstate := rfl
@[simp] theorem State.spend_fstep (s : State) (d : BitVec 8) (n : Nat) : (s.spend d n).fstep = s.fstep := rfl
@[simp] theorem State.spend_capstep (s : State) (d : BitVec 8) (n : Nat) : (s.spend d n).capstep = s.capstep := rfl
@[simp] theorem State.spend_thermal (s : State) (d : BitVec 8) (n : Nat) : (s.spend d n).thermal = s.thermal := rfl
@[simp] theorem State.spend_timeBase (s : State) (d : BitVec 8) (n : Nat) : (s.spend d n).timeBase = s.timeBase := rfl
@[simp] theorem State.spend_unsync (s : State) (d : BitVec 8) (n : Nat) : (s.spend d n).unsync = s.unsync := rfl
@[simp] theorem State.spend_joined (s : State) (d : BitVec 8) (n : Nat) : (s.spend d n).joined = s.joined := rfl
@[simp] theorem State.spend_slew (s : State) (d : BitVec 8) (n : Nat) : (s.spend d n).slew = s.slew := rfl
@[simp] theorem State.spend_slewAt (s : State) (d : BitVec 8) (n : Nat) : (s.spend d n).slewAt = s.slewAt := rfl
@[simp] theorem State.spend_steps (s : State) (d : BitVec 8) (n : Nat) : (s.spend d n).steps = s.steps := rfl
@[simp] theorem State.spend_msFreq (s : State) (d : BitVec 8) (n : Nat) : (s.spend d n).msFreq = s.msFreq := rfl
@[simp] theorem State.spend_msSync (s : State) (d : BitVec 8) (n : Nat) : (s.spend d n).msSync = s.msSync := rfl
@[simp] theorem State.spend_msPage (s : State) (d : BitVec 8) (n : Nat) : (s.spend d n).msPage = s.msPage := rfl
@[simp] theorem State.spend_traces (s : State) (d : BitVec 8) (n : Nat) : (s.spend d n).traces = s.traces := rfl
@[simp] theorem State.spend_edges (s : State) (d : BitVec 8) (n : Nat) : (s.spend d n).edges = s.edges := rfl
@[simp] theorem State.spend_boot (s : State) (d : BitVec 8) (n : Nat) : (s.spend d n).boot = s.boot := rfl
@[simp] theorem State.spend_meas (s : State) (d : BitVec 8) (n : Nat) : (s.spend d n).meas = s.meas := rfl
@[simp] theorem State.spend_security (s : State) (d : BitVec 8) (n : Nat) : (s.spend d n).security = s.security := rfl
@[simp] theorem State.spend_armed (s : State) (d : BitVec 8) (n : Nat) : (s.spend d n).armed = s.armed := rfl
@[simp] theorem State.spend_nonce (s : State) (d : BitVec 8) (n : Nat) : (s.spend d n).nonce = s.nonce := rfl
@[simp] theorem State.spend_tenantDebug (s : State) (d : BitVec 8) (n : Nat) : (s.spend d n).tenantDebug = s.tenantDebug := rfl
@[simp] theorem State.spend_mail (s : State) (d : BitVec 8) (n : Nat) : (s.spend d n).mail = s.mail := rfl
@[simp] theorem State.spend_objs (s : State) (d : BitVec 8) (n : Nat) : (s.spend d n).objs = s.objs := rfl
@[simp] theorem State.spend_lacks (s : State) (d : BitVec 8) (n : Nat) : (s.spend d n).lacks = s.lacks := rfl
@[simp] theorem State.spend_msix (s : State) (d : BitVec 8) (n : Nat) : (s.spend d n).msix = s.msix := rfl
@[simp] theorem State.spend_acct (s : State) (d : BitVec 8) (n : Nat) : (s.spend d n).acct = s.acct := rfl
@[simp] theorem State.spend_traffic (s : State) (d : BitVec 8) (n : Nat) : (s.spend d n).traffic = s.traffic := rfl
@[simp] theorem State.spend_launches (s : State) (d : BitVec 8) (n : Nat) : (s.spend d n).launches = s.launches := rfl
@[simp] theorem State.spend_nextLaunch (s : State) (d : BitVec 8) (n : Nat) : (s.spend d n).nextLaunch = s.nextLaunch := rfl
@[simp] theorem State.spend_nextSaved (s : State) (d : BitVec 8) (n : Nat) : (s.spend d n).nextSaved = s.nextSaved := rfl
@[simp] theorem State.spend_age (s : State) (d : BitVec 8) (n : Nat) : (s.spend d n).age = s.age := rfl
@[simp] theorem State.spend_ready (s : State) (d : BitVec 8) (n : Nat) : (s.spend d n).ready = s.ready := rfl
@[simp] theorem State.spend_ports (s : State) (d : BitVec 8) (n : Nat) : (s.spend d n).ports = s.ports := rfl
@[simp] theorem State.spend_portFaults (s : State) (d : BitVec 8) (n : Nat) : (s.spend d n).portFaults = s.portFaults := rfl
@[simp] theorem State.spend_routes (s : State) (d : BitVec 8) (n : Nat) : (s.spend d n).routes = s.routes := rfl
@[simp] theorem State.spend_sent (s : State) (d : BitVec 8) (n : Nat) : (s.spend d n).sent = s.sent := rfl
@[simp] theorem State.spend_fabWaits (s : State) (d : BitVec 8) (n : Nat) : (s.spend d n).fabWaits = s.fabWaits := rfl
@[simp] theorem State.spend_reports (s : State) (d : BitVec 8) (n : Nat) : (s.spend d n).reports = s.reports := rfl
@[simp] theorem State.spend_roce (s : State) (d : BitVec 8) (n : Nat) : (s.spend d n).roce = s.roce := rfl
@[simp] theorem State.spend_inbox (s : State) (d : BitVec 8) (n : Nat) : (s.spend d n).inbox = s.inbox := rfl
@[simp] theorem State.spend_hostOut (s : State) (d : BitVec 8) (n : Nat) : (s.spend d n).hostOut = s.hostOut := rfl
@[simp] theorem State.spend_spdm (s : State) (d : BitVec 8) (n : Nat) : (s.spend d n).spdm = s.spdm := rfl
@[simp] theorem State.spend_snapSeq (s : State) (d : BitVec 8) (n : Nat) : (s.spend d n).snapSeq = s.snapSeq := rfl

@[simp] theorem State.draw_agenda (s : State) : (s.draw).agenda = s.agenda := rfl
@[simp] theorem State.draw_turn (s : State) : (s.draw).turn = s.turn := rfl
@[simp] theorem State.draw_cur (s : State) : (s.draw).cur = s.cur := rfl
@[simp] theorem State.draw_cores (s : State) : (s.draw).cores = s.cores := rfl
@[simp] theorem State.draw_clock (s : State) : (s.draw).clock = s.clock := rfl
@[simp] theorem State.draw_mem (s : State) : (s.draw).mem = s.mem := rfl
@[simp] theorem State.draw_poison (s : State) : (s.draw).poison = s.poison := rfl
@[simp] theorem State.draw_hmem (s : State) : (s.draw).hmem = s.hmem := rfl
@[simp] theorem State.draw_corrected (s : State) : (s.draw).corrected = s.corrected := rfl
@[simp] theorem State.draw_gTags (s : State) : (s.draw).gTags = s.gTags := rfl
@[simp] theorem State.draw_gRel (s : State) : (s.draw).gRel = s.gRel := rfl
@[simp] theorem State.draw_writes (s : State) : (s.draw).writes = s.writes := rfl
@[simp] theorem State.draw_past (s : State) : (s.draw).past = s.past := rfl
@[simp] theorem State.draw_hand (s : State) : (s.draw).hand = s.hand := rfl
@[simp] theorem State.draw_ended (s : State) : (s.draw).ended = s.ended := rfl
@[simp] theorem State.draw_between (s : State) : (s.draw).between = s.between := rfl
@[simp] theorem State.draw_roots (s : State) : (s.draw).roots = s.roots := rfl
@[simp] theorem State.draw_leaves (s : State) : (s.draw).leaves = s.leaves := rfl
@[simp] theorem State.draw_tlb (s : State) : (s.draw).tlb = s.tlb := rfl
@[simp] theorem State.draw_saved (s : State) : (s.draw).saved = s.saved := rfl
@[simp] theorem State.draw_regions (s : State) : (s.draw).regions = s.regions := rfl
@[simp] theorem State.draw_backed (s : State) : (s.draw).backed = s.backed := rfl
@[simp] theorem State.draw_pool (s : State) : (s.draw).pool = s.pool := rfl
@[simp] theorem State.draw_defects (s : State) : (s.draw).defects = s.defects := rfl
@[simp] theorem State.draw_devid (s : State) : (s.draw).devid = s.devid := rfl
@[simp] theorem State.draw_fuse (s : State) : (s.draw).fuse = s.fuse := rfl
@[simp] theorem State.draw_capw (s : State) : (s.draw).capw = s.capw := rfl
@[simp] theorem State.draw_preq (s : State) : (s.draw).preq = s.preq := rfl
@[simp] theorem State.draw_pstate (s : State) : (s.draw).pstate = s.pstate := rfl
@[simp] theorem State.draw_fstep (s : State) : (s.draw).fstep = s.fstep := rfl
@[simp] theorem State.draw_capstep (s : State) : (s.draw).capstep = s.capstep := rfl
@[simp] theorem State.draw_thermal (s : State) : (s.draw).thermal = s.thermal := rfl
@[simp] theorem State.draw_timeBase (s : State) : (s.draw).timeBase = s.timeBase := rfl
@[simp] theorem State.draw_unsync (s : State) : (s.draw).unsync = s.unsync := rfl
@[simp] theorem State.draw_joined (s : State) : (s.draw).joined = s.joined := rfl
@[simp] theorem State.draw_slew (s : State) : (s.draw).slew = s.slew := rfl
@[simp] theorem State.draw_slewAt (s : State) : (s.draw).slewAt = s.slewAt := rfl
@[simp] theorem State.draw_steps (s : State) : (s.draw).steps = s.steps := rfl
@[simp] theorem State.draw_msFreq (s : State) : (s.draw).msFreq = s.msFreq := rfl
@[simp] theorem State.draw_msSync (s : State) : (s.draw).msSync = s.msSync := rfl
@[simp] theorem State.draw_msPage (s : State) : (s.draw).msPage = s.msPage := rfl
@[simp] theorem State.draw_traces (s : State) : (s.draw).traces = s.traces := rfl
@[simp] theorem State.draw_edges (s : State) : (s.draw).edges = s.edges := rfl
@[simp] theorem State.draw_boot (s : State) : (s.draw).boot = s.boot := rfl
@[simp] theorem State.draw_meas (s : State) : (s.draw).meas = s.meas := rfl
@[simp] theorem State.draw_security (s : State) : (s.draw).security = s.security := rfl
@[simp] theorem State.draw_armed (s : State) : (s.draw).armed = s.armed := rfl
@[simp] theorem State.draw_nonce (s : State) : (s.draw).nonce = s.nonce := rfl
@[simp] theorem State.draw_tenantDebug (s : State) : (s.draw).tenantDebug = s.tenantDebug := rfl
@[simp] theorem State.draw_mail (s : State) : (s.draw).mail = s.mail := rfl
@[simp] theorem State.draw_objs (s : State) : (s.draw).objs = s.objs := rfl
@[simp] theorem State.draw_lacks (s : State) : (s.draw).lacks = s.lacks := rfl
@[simp] theorem State.draw_msix (s : State) : (s.draw).msix = s.msix := rfl
@[simp] theorem State.draw_acct (s : State) : (s.draw).acct = s.acct := rfl
@[simp] theorem State.draw_energy (s : State) : (s.draw).energy = s.energy := rfl
@[simp] theorem State.draw_traffic (s : State) : (s.draw).traffic = s.traffic := rfl
@[simp] theorem State.draw_launches (s : State) : (s.draw).launches = s.launches := rfl
@[simp] theorem State.draw_nextLaunch (s : State) : (s.draw).nextLaunch = s.nextLaunch := rfl
@[simp] theorem State.draw_nextSaved (s : State) : (s.draw).nextSaved = s.nextSaved := rfl
@[simp] theorem State.draw_age (s : State) : (s.draw).age = s.age := rfl
@[simp] theorem State.draw_ready (s : State) : (s.draw).ready = s.ready := rfl
@[simp] theorem State.draw_ports (s : State) : (s.draw).ports = s.ports := rfl
@[simp] theorem State.draw_portFaults (s : State) : (s.draw).portFaults = s.portFaults := rfl
@[simp] theorem State.draw_routes (s : State) : (s.draw).routes = s.routes := rfl
@[simp] theorem State.draw_sent (s : State) : (s.draw).sent = s.sent := rfl
@[simp] theorem State.draw_fabWaits (s : State) : (s.draw).fabWaits = s.fabWaits := rfl
@[simp] theorem State.draw_reports (s : State) : (s.draw).reports = s.reports := rfl
@[simp] theorem State.draw_roce (s : State) : (s.draw).roce = s.roce := rfl
@[simp] theorem State.draw_inbox (s : State) : (s.draw).inbox = s.inbox := rfl
@[simp] theorem State.draw_hostOut (s : State) : (s.draw).hostOut = s.hostOut := rfl
@[simp] theorem State.draw_spdm (s : State) : (s.draw).spdm = s.spdm := rfl
@[simp] theorem State.draw_snapSeq (s : State) : (s.draw).snapSeq = s.snapSeq := rfl

/-! ### The gang's fields under each update -/

@[simp] theorem Gang.setS_role (g : Gang) (n : Nat) (x : W64) : (g.setS n x).role = g.role := by
  unfold Gang.setS; split <;> rfl
@[simp] theorem Gang.setS_v (g : Gang) (n : Nat) (x : W64) : (g.setS n x).v = g.v := by
  unfold Gang.setS; split <;> rfl
@[simp] theorem Gang.setS_p (g : Gang) (n : Nat) (x : W64) : (g.setS n x).p = g.p := by
  unfold Gang.setS; split <;> rfl
@[simp] theorem Gang.setS_x (g : Gang) (n : Nat) (x : W64) : (g.setS n x).x = g.x := by
  unfold Gang.setS; split <;> rfl
@[simp] theorem Gang.setS_om (g : Gang) (n : Nat) (x : W64) : (g.setS n x).om = g.om := by
  unfold Gang.setS; split <;> rfl
@[simp] theorem Gang.setS_c (g : Gang) (n : Nat) (x : W64) : (g.setS n x).c = g.c := by
  unfold Gang.setS; split <;> rfl
@[simp] theorem Gang.setS_cIssued (g : Gang) (n : Nat) (x : W64) : (g.setS n x).cIssued = g.cIssued := by
  unfold Gang.setS; split <;> rfl
@[simp] theorem Gang.setS_cErr (g : Gang) (n : Nat) (x : W64) : (g.setS n x).cErr = g.cErr := by
  unfold Gang.setS; split <;> rfl
@[simp] theorem Gang.setS_cRel (g : Gang) (n : Nat) (x : W64) : (g.setS n x).cRel = g.cRel := by
  unfold Gang.setS; split <;> rfl
@[simp] theorem Gang.setS_cLast (g : Gang) (n : Nat) (x : W64) : (g.setS n x).cLast = g.cLast := by
  unfold Gang.setS; split <;> rfl
@[simp] theorem Gang.setS_mrec (g : Gang) (n : Nat) (x : W64) : (g.setS n x).mrec = g.mrec := by
  unfold Gang.setS; split <;> rfl
@[simp] theorem Gang.setS_regions (g : Gang) (n : Nat) (x : W64) : (g.setS n x).regions = g.regions := by
  unfold Gang.setS; split <;> rfl
@[simp] theorem Gang.setS_plane (g : Gang) (n : Nat) (x : W64) : (g.setS n x).plane = g.plane := by
  unfold Gang.setS; split <;> rfl
@[simp] theorem Gang.setS_splits (g : Gang) (n : Nat) (x : W64) : (g.setS n x).splits = g.splits := by
  unfold Gang.setS; split <;> rfl
@[simp] theorem Gang.setS_dp (g : Gang) (n : Nat) (x : W64) : (g.setS n x).dp = g.dp := by
  unfold Gang.setS; split <;> rfl
@[simp] theorem Gang.setS_exited (g : Gang) (n : Nat) (x : W64) : (g.setS n x).exited = g.exited := by
  unfold Gang.setS; split <;> rfl
@[simp] theorem Gang.setS_flags (g : Gang) (n : Nat) (x : W64) : (g.setS n x).flags = g.flags := by
  unfold Gang.setS; split <;> rfl
@[simp] theorem Gang.setS_mode (g : Gang) (n : Nat) (x : W64) : (g.setS n x).mode = g.mode := by
  unfold Gang.setS; split <;> rfl
@[simp] theorem Gang.setS_blame (g : Gang) (n : Nat) (x : W64) : (g.setS n x).blame = g.blame := by
  unfold Gang.setS; split <;> rfl
@[simp] theorem Gang.setS_trapc (g : Gang) (n : Nat) (x : W64) : (g.setS n x).trapc = g.trapc := by
  unfold Gang.setS; split <;> rfl
@[simp] theorem Gang.setS_trapa (g : Gang) (n : Nat) (x : W64) : (g.setS n x).trapa = g.trapa := by
  unfold Gang.setS; split <;> rfl
@[simp] theorem Gang.setS_trappc (g : Gang) (n : Nat) (x : W64) : (g.setS n x).trappc = g.trappc := by
  unfold Gang.setS; split <;> rfl
@[simp] theorem Gang.setS_trapl (g : Gang) (n : Nat) (x : W64) : (g.setS n x).trapl = g.trapl := by
  unfold Gang.setS; split <;> rfl
@[simp] theorem Gang.setS_handler (g : Gang) (n : Nat) (x : W64) : (g.setS n x).handler = g.handler := by
  unfold Gang.setS; split <;> rfl
@[simp] theorem Gang.setS_ext (g : Gang) (n : Nat) (x : W64) : (g.setS n x).ext = g.ext := by
  unfold Gang.setS; split <;> rfl
@[simp] theorem Gang.setS_traceEn (g : Gang) (n : Nat) (x : W64) : (g.setS n x).traceEn = g.traceEn := by
  unfold Gang.setS; split <;> rfl
@[simp] theorem Gang.setS_permit (g : Gang) (n : Nat) (x : W64) : (g.setS n x).permit = g.permit := by
  unfold Gang.setS; split <;> rfl
@[simp] theorem Gang.setS_acctd (g : Gang) (n : Nat) (x : W64) : (g.setS n x).acctd = g.acctd := by
  unfold Gang.setS; split <;> rfl
@[simp] theorem Gang.setS_syncDue (g : Gang) (n : Nat) (x : W64) : (g.setS n x).syncDue = g.syncDue := by
  unfold Gang.setS; split <;> rfl
@[simp] theorem Gang.setS_sinceSync (g : Gang) (n : Nat) (x : W64) : (g.setS n x).sinceSync = g.sinceSync := by
  unfold Gang.setS; split <;> rfl
@[simp] theorem Gang.setS_loads (g : Gang) (n : Nat) (x : W64) : (g.setS n x).loads = g.loads := by
  unfold Gang.setS; split <;> rfl
@[simp] theorem Gang.setS_rc (g : Gang) (n : Nat) (x : W64) : (g.setS n x).rc = g.rc := by
  unfold Gang.setS; split <;> rfl
@[simp] theorem Gang.setS_acq (g : Gang) (n : Nat) (x : W64) : (g.setS n x).acq = g.acq := by
  unfold Gang.setS; split <;> rfl
@[simp] theorem Gang.setS_vr (g : Gang) (n : Nat) (x : W64) : (g.setS n x).vr = g.vr := by
  unfold Gang.setS; split <;> rfl
@[simp] theorem Gang.setS_relFence (g : Gang) (n : Nat) (x : W64) : (g.setS n x).relFence = g.relFence := by
  unfold Gang.setS; split <;> rfl
@[simp] theorem Gang.setS_seen (g : Gang) (n : Nat) (x : W64) : (g.setS n x).seen = g.seen := by
  unfold Gang.setS; split <;> rfl
@[simp] theorem Gang.setS_know (g : Gang) (n : Nat) (x : W64) : (g.setS n x).know = g.know := by
  unfold Gang.setS; split <;> rfl
@[simp] theorem Gang.setS_lastIssue (g : Gang) (n : Nat) (x : W64) : (g.setS n x).lastIssue = g.lastIssue := by
  unfold Gang.setS; split <;> rfl
@[simp] theorem Gang.setS_yieldAt (g : Gang) (n : Nat) (x : W64) : (g.setS n x).yieldAt = g.yieldAt := by
  unfold Gang.setS; split <;> rfl
@[simp] theorem Gang.setS_done (g : Gang) (n : Nat) (x : W64) : (g.setS n x).done = g.done := by
  unfold Gang.setS; split <;> rfl
@[simp] theorem Gang.setS_service (g : Gang) (n : Nat) (x : W64) : (g.setS n x).service = g.service := by
  unfold Gang.setS; split <;> rfl
@[simp] theorem Gang.setS_dbgStop (g : Gang) (n : Nat) (x : W64) : (g.setS n x).dbgStop = g.dbgStop := by
  unfold Gang.setS; split <;> rfl
@[simp] theorem Gang.setS_stopReq (g : Gang) (n : Nat) (x : W64) : (g.setS n x).stopReq = g.stopReq := by
  unfold Gang.setS; split <;> rfl

@[simp] theorem Gang.setP_role (g : Gang) (n : Nat) (m b : W32) : (g.setP n m b).role = g.role := by
  unfold Gang.setP; split <;> rfl
@[simp] theorem Gang.setP_v (g : Gang) (n : Nat) (m b : W32) : (g.setP n m b).v = g.v := by
  unfold Gang.setP; split <;> rfl
@[simp] theorem Gang.setP_s (g : Gang) (n : Nat) (m b : W32) : (g.setP n m b).s = g.s := by
  unfold Gang.setP; split <;> rfl
@[simp] theorem Gang.setP_x (g : Gang) (n : Nat) (m b : W32) : (g.setP n m b).x = g.x := by
  unfold Gang.setP; split <;> rfl
@[simp] theorem Gang.setP_om (g : Gang) (n : Nat) (m b : W32) : (g.setP n m b).om = g.om := by
  unfold Gang.setP; split <;> rfl
@[simp] theorem Gang.setP_c (g : Gang) (n : Nat) (m b : W32) : (g.setP n m b).c = g.c := by
  unfold Gang.setP; split <;> rfl
@[simp] theorem Gang.setP_cIssued (g : Gang) (n : Nat) (m b : W32) : (g.setP n m b).cIssued = g.cIssued := by
  unfold Gang.setP; split <;> rfl
@[simp] theorem Gang.setP_cErr (g : Gang) (n : Nat) (m b : W32) : (g.setP n m b).cErr = g.cErr := by
  unfold Gang.setP; split <;> rfl
@[simp] theorem Gang.setP_cRel (g : Gang) (n : Nat) (m b : W32) : (g.setP n m b).cRel = g.cRel := by
  unfold Gang.setP; split <;> rfl
@[simp] theorem Gang.setP_cLast (g : Gang) (n : Nat) (m b : W32) : (g.setP n m b).cLast = g.cLast := by
  unfold Gang.setP; split <;> rfl
@[simp] theorem Gang.setP_mrec (g : Gang) (n : Nat) (m b : W32) : (g.setP n m b).mrec = g.mrec := by
  unfold Gang.setP; split <;> rfl
@[simp] theorem Gang.setP_regions (g : Gang) (n : Nat) (m b : W32) : (g.setP n m b).regions = g.regions := by
  unfold Gang.setP; split <;> rfl
@[simp] theorem Gang.setP_plane (g : Gang) (n : Nat) (m b : W32) : (g.setP n m b).plane = g.plane := by
  unfold Gang.setP; split <;> rfl
@[simp] theorem Gang.setP_splits (g : Gang) (n : Nat) (m b : W32) : (g.setP n m b).splits = g.splits := by
  unfold Gang.setP; split <;> rfl
@[simp] theorem Gang.setP_dp (g : Gang) (n : Nat) (m b : W32) : (g.setP n m b).dp = g.dp := by
  unfold Gang.setP; split <;> rfl
@[simp] theorem Gang.setP_exited (g : Gang) (n : Nat) (m b : W32) : (g.setP n m b).exited = g.exited := by
  unfold Gang.setP; split <;> rfl
@[simp] theorem Gang.setP_flags (g : Gang) (n : Nat) (m b : W32) : (g.setP n m b).flags = g.flags := by
  unfold Gang.setP; split <;> rfl
@[simp] theorem Gang.setP_mode (g : Gang) (n : Nat) (m b : W32) : (g.setP n m b).mode = g.mode := by
  unfold Gang.setP; split <;> rfl
@[simp] theorem Gang.setP_blame (g : Gang) (n : Nat) (m b : W32) : (g.setP n m b).blame = g.blame := by
  unfold Gang.setP; split <;> rfl
@[simp] theorem Gang.setP_trapc (g : Gang) (n : Nat) (m b : W32) : (g.setP n m b).trapc = g.trapc := by
  unfold Gang.setP; split <;> rfl
@[simp] theorem Gang.setP_trapa (g : Gang) (n : Nat) (m b : W32) : (g.setP n m b).trapa = g.trapa := by
  unfold Gang.setP; split <;> rfl
@[simp] theorem Gang.setP_trappc (g : Gang) (n : Nat) (m b : W32) : (g.setP n m b).trappc = g.trappc := by
  unfold Gang.setP; split <;> rfl
@[simp] theorem Gang.setP_trapl (g : Gang) (n : Nat) (m b : W32) : (g.setP n m b).trapl = g.trapl := by
  unfold Gang.setP; split <;> rfl
@[simp] theorem Gang.setP_handler (g : Gang) (n : Nat) (m b : W32) : (g.setP n m b).handler = g.handler := by
  unfold Gang.setP; split <;> rfl
@[simp] theorem Gang.setP_ext (g : Gang) (n : Nat) (m b : W32) : (g.setP n m b).ext = g.ext := by
  unfold Gang.setP; split <;> rfl
@[simp] theorem Gang.setP_traceEn (g : Gang) (n : Nat) (m b : W32) : (g.setP n m b).traceEn = g.traceEn := by
  unfold Gang.setP; split <;> rfl
@[simp] theorem Gang.setP_permit (g : Gang) (n : Nat) (m b : W32) : (g.setP n m b).permit = g.permit := by
  unfold Gang.setP; split <;> rfl
@[simp] theorem Gang.setP_acctd (g : Gang) (n : Nat) (m b : W32) : (g.setP n m b).acctd = g.acctd := by
  unfold Gang.setP; split <;> rfl
@[simp] theorem Gang.setP_syncDue (g : Gang) (n : Nat) (m b : W32) : (g.setP n m b).syncDue = g.syncDue := by
  unfold Gang.setP; split <;> rfl
@[simp] theorem Gang.setP_sinceSync (g : Gang) (n : Nat) (m b : W32) : (g.setP n m b).sinceSync = g.sinceSync := by
  unfold Gang.setP; split <;> rfl
@[simp] theorem Gang.setP_loads (g : Gang) (n : Nat) (m b : W32) : (g.setP n m b).loads = g.loads := by
  unfold Gang.setP; split <;> rfl
@[simp] theorem Gang.setP_rc (g : Gang) (n : Nat) (m b : W32) : (g.setP n m b).rc = g.rc := by
  unfold Gang.setP; split <;> rfl
@[simp] theorem Gang.setP_acq (g : Gang) (n : Nat) (m b : W32) : (g.setP n m b).acq = g.acq := by
  unfold Gang.setP; split <;> rfl
@[simp] theorem Gang.setP_vr (g : Gang) (n : Nat) (m b : W32) : (g.setP n m b).vr = g.vr := by
  unfold Gang.setP; split <;> rfl
@[simp] theorem Gang.setP_relFence (g : Gang) (n : Nat) (m b : W32) : (g.setP n m b).relFence = g.relFence := by
  unfold Gang.setP; split <;> rfl
@[simp] theorem Gang.setP_seen (g : Gang) (n : Nat) (m b : W32) : (g.setP n m b).seen = g.seen := by
  unfold Gang.setP; split <;> rfl
@[simp] theorem Gang.setP_know (g : Gang) (n : Nat) (m b : W32) : (g.setP n m b).know = g.know := by
  unfold Gang.setP; split <;> rfl
@[simp] theorem Gang.setP_lastIssue (g : Gang) (n : Nat) (m b : W32) : (g.setP n m b).lastIssue = g.lastIssue := by
  unfold Gang.setP; split <;> rfl
@[simp] theorem Gang.setP_yieldAt (g : Gang) (n : Nat) (m b : W32) : (g.setP n m b).yieldAt = g.yieldAt := by
  unfold Gang.setP; split <;> rfl
@[simp] theorem Gang.setP_done (g : Gang) (n : Nat) (m b : W32) : (g.setP n m b).done = g.done := by
  unfold Gang.setP; split <;> rfl
@[simp] theorem Gang.setP_service (g : Gang) (n : Nat) (m b : W32) : (g.setP n m b).service = g.service := by
  unfold Gang.setP; split <;> rfl
@[simp] theorem Gang.setP_dbgStop (g : Gang) (n : Nat) (m b : W32) : (g.setP n m b).dbgStop = g.dbgStop := by
  unfold Gang.setP; split <;> rfl
@[simp] theorem Gang.setP_stopReq (g : Gang) (n : Nat) (m b : W32) : (g.setP n m b).stopReq = g.stopReq := by
  unfold Gang.setP; split <;> rfl

@[simp] theorem Gang.setCell_role (g : Gang) (r l : Nat) (x : VCell) : (g.setCell r l x).role = g.role := rfl
@[simp] theorem Gang.setCell_s (g : Gang) (r l : Nat) (x : VCell) : (g.setCell r l x).s = g.s := rfl
@[simp] theorem Gang.setCell_p (g : Gang) (r l : Nat) (x : VCell) : (g.setCell r l x).p = g.p := rfl
@[simp] theorem Gang.setCell_x (g : Gang) (r l : Nat) (x : VCell) : (g.setCell r l x).x = g.x := rfl
@[simp] theorem Gang.setCell_om (g : Gang) (r l : Nat) (x : VCell) : (g.setCell r l x).om = g.om := rfl
@[simp] theorem Gang.setCell_c (g : Gang) (r l : Nat) (x : VCell) : (g.setCell r l x).c = g.c := rfl
@[simp] theorem Gang.setCell_cIssued (g : Gang) (r l : Nat) (x : VCell) : (g.setCell r l x).cIssued = g.cIssued := rfl
@[simp] theorem Gang.setCell_cErr (g : Gang) (r l : Nat) (x : VCell) : (g.setCell r l x).cErr = g.cErr := rfl
@[simp] theorem Gang.setCell_cRel (g : Gang) (r l : Nat) (x : VCell) : (g.setCell r l x).cRel = g.cRel := rfl
@[simp] theorem Gang.setCell_cLast (g : Gang) (r l : Nat) (x : VCell) : (g.setCell r l x).cLast = g.cLast := rfl
@[simp] theorem Gang.setCell_mrec (g : Gang) (r l : Nat) (x : VCell) : (g.setCell r l x).mrec = g.mrec := rfl
@[simp] theorem Gang.setCell_regions (g : Gang) (r l : Nat) (x : VCell) : (g.setCell r l x).regions = g.regions := rfl
@[simp] theorem Gang.setCell_plane (g : Gang) (r l : Nat) (x : VCell) : (g.setCell r l x).plane = g.plane := rfl
@[simp] theorem Gang.setCell_splits (g : Gang) (r l : Nat) (x : VCell) : (g.setCell r l x).splits = g.splits := rfl
@[simp] theorem Gang.setCell_dp (g : Gang) (r l : Nat) (x : VCell) : (g.setCell r l x).dp = g.dp := rfl
@[simp] theorem Gang.setCell_exited (g : Gang) (r l : Nat) (x : VCell) : (g.setCell r l x).exited = g.exited := rfl
@[simp] theorem Gang.setCell_flags (g : Gang) (r l : Nat) (x : VCell) : (g.setCell r l x).flags = g.flags := rfl
@[simp] theorem Gang.setCell_mode (g : Gang) (r l : Nat) (x : VCell) : (g.setCell r l x).mode = g.mode := rfl
@[simp] theorem Gang.setCell_blame (g : Gang) (r l : Nat) (x : VCell) : (g.setCell r l x).blame = g.blame := rfl
@[simp] theorem Gang.setCell_trapc (g : Gang) (r l : Nat) (x : VCell) : (g.setCell r l x).trapc = g.trapc := rfl
@[simp] theorem Gang.setCell_trapa (g : Gang) (r l : Nat) (x : VCell) : (g.setCell r l x).trapa = g.trapa := rfl
@[simp] theorem Gang.setCell_trappc (g : Gang) (r l : Nat) (x : VCell) : (g.setCell r l x).trappc = g.trappc := rfl
@[simp] theorem Gang.setCell_trapl (g : Gang) (r l : Nat) (x : VCell) : (g.setCell r l x).trapl = g.trapl := rfl
@[simp] theorem Gang.setCell_handler (g : Gang) (r l : Nat) (x : VCell) : (g.setCell r l x).handler = g.handler := rfl
@[simp] theorem Gang.setCell_ext (g : Gang) (r l : Nat) (x : VCell) : (g.setCell r l x).ext = g.ext := rfl
@[simp] theorem Gang.setCell_traceEn (g : Gang) (r l : Nat) (x : VCell) : (g.setCell r l x).traceEn = g.traceEn := rfl
@[simp] theorem Gang.setCell_permit (g : Gang) (r l : Nat) (x : VCell) : (g.setCell r l x).permit = g.permit := rfl
@[simp] theorem Gang.setCell_acctd (g : Gang) (r l : Nat) (x : VCell) : (g.setCell r l x).acctd = g.acctd := rfl
@[simp] theorem Gang.setCell_syncDue (g : Gang) (r l : Nat) (x : VCell) : (g.setCell r l x).syncDue = g.syncDue := rfl
@[simp] theorem Gang.setCell_sinceSync (g : Gang) (r l : Nat) (x : VCell) : (g.setCell r l x).sinceSync = g.sinceSync := rfl
@[simp] theorem Gang.setCell_loads (g : Gang) (r l : Nat) (x : VCell) : (g.setCell r l x).loads = g.loads := rfl
@[simp] theorem Gang.setCell_rc (g : Gang) (r l : Nat) (x : VCell) : (g.setCell r l x).rc = g.rc := rfl
@[simp] theorem Gang.setCell_acq (g : Gang) (r l : Nat) (x : VCell) : (g.setCell r l x).acq = g.acq := rfl
@[simp] theorem Gang.setCell_vr (g : Gang) (r l : Nat) (x : VCell) : (g.setCell r l x).vr = g.vr := rfl
@[simp] theorem Gang.setCell_relFence (g : Gang) (r l : Nat) (x : VCell) : (g.setCell r l x).relFence = g.relFence := rfl
@[simp] theorem Gang.setCell_seen (g : Gang) (r l : Nat) (x : VCell) : (g.setCell r l x).seen = g.seen := rfl
@[simp] theorem Gang.setCell_know (g : Gang) (r l : Nat) (x : VCell) : (g.setCell r l x).know = g.know := rfl
@[simp] theorem Gang.setCell_lastIssue (g : Gang) (r l : Nat) (x : VCell) : (g.setCell r l x).lastIssue = g.lastIssue := rfl
@[simp] theorem Gang.setCell_yieldAt (g : Gang) (r l : Nat) (x : VCell) : (g.setCell r l x).yieldAt = g.yieldAt := rfl
@[simp] theorem Gang.setCell_done (g : Gang) (r l : Nat) (x : VCell) : (g.setCell r l x).done = g.done := rfl
@[simp] theorem Gang.setCell_service (g : Gang) (r l : Nat) (x : VCell) : (g.setCell r l x).service = g.service := rfl
@[simp] theorem Gang.setCell_dbgStop (g : Gang) (r l : Nat) (x : VCell) : (g.setCell r l x).dbgStop = g.dbgStop := rfl
@[simp] theorem Gang.setCell_stopReq (g : Gang) (r l : Nat) (x : VCell) : (g.setCell r l x).stopReq = g.stopReq := rfl

@[simp] theorem Gang.setV_role (g : Gang) (r l : Nat) (b : W32) (t : Tag) : (g.setV r l b t).role = g.role := rfl
@[simp] theorem Gang.setV_s (g : Gang) (r l : Nat) (b : W32) (t : Tag) : (g.setV r l b t).s = g.s := rfl
@[simp] theorem Gang.setV_p (g : Gang) (r l : Nat) (b : W32) (t : Tag) : (g.setV r l b t).p = g.p := rfl
@[simp] theorem Gang.setV_x (g : Gang) (r l : Nat) (b : W32) (t : Tag) : (g.setV r l b t).x = g.x := rfl
@[simp] theorem Gang.setV_om (g : Gang) (r l : Nat) (b : W32) (t : Tag) : (g.setV r l b t).om = g.om := rfl
@[simp] theorem Gang.setV_c (g : Gang) (r l : Nat) (b : W32) (t : Tag) : (g.setV r l b t).c = g.c := rfl
@[simp] theorem Gang.setV_cIssued (g : Gang) (r l : Nat) (b : W32) (t : Tag) : (g.setV r l b t).cIssued = g.cIssued := rfl
@[simp] theorem Gang.setV_cErr (g : Gang) (r l : Nat) (b : W32) (t : Tag) : (g.setV r l b t).cErr = g.cErr := rfl
@[simp] theorem Gang.setV_cRel (g : Gang) (r l : Nat) (b : W32) (t : Tag) : (g.setV r l b t).cRel = g.cRel := rfl
@[simp] theorem Gang.setV_cLast (g : Gang) (r l : Nat) (b : W32) (t : Tag) : (g.setV r l b t).cLast = g.cLast := rfl
@[simp] theorem Gang.setV_mrec (g : Gang) (r l : Nat) (b : W32) (t : Tag) : (g.setV r l b t).mrec = g.mrec := rfl
@[simp] theorem Gang.setV_regions (g : Gang) (r l : Nat) (b : W32) (t : Tag) : (g.setV r l b t).regions = g.regions := rfl
@[simp] theorem Gang.setV_plane (g : Gang) (r l : Nat) (b : W32) (t : Tag) : (g.setV r l b t).plane = g.plane := rfl
@[simp] theorem Gang.setV_splits (g : Gang) (r l : Nat) (b : W32) (t : Tag) : (g.setV r l b t).splits = g.splits := rfl
@[simp] theorem Gang.setV_dp (g : Gang) (r l : Nat) (b : W32) (t : Tag) : (g.setV r l b t).dp = g.dp := rfl
@[simp] theorem Gang.setV_exited (g : Gang) (r l : Nat) (b : W32) (t : Tag) : (g.setV r l b t).exited = g.exited := rfl
@[simp] theorem Gang.setV_flags (g : Gang) (r l : Nat) (b : W32) (t : Tag) : (g.setV r l b t).flags = g.flags := rfl
@[simp] theorem Gang.setV_mode (g : Gang) (r l : Nat) (b : W32) (t : Tag) : (g.setV r l b t).mode = g.mode := rfl
@[simp] theorem Gang.setV_blame (g : Gang) (r l : Nat) (b : W32) (t : Tag) : (g.setV r l b t).blame = g.blame := rfl
@[simp] theorem Gang.setV_trapc (g : Gang) (r l : Nat) (b : W32) (t : Tag) : (g.setV r l b t).trapc = g.trapc := rfl
@[simp] theorem Gang.setV_trapa (g : Gang) (r l : Nat) (b : W32) (t : Tag) : (g.setV r l b t).trapa = g.trapa := rfl
@[simp] theorem Gang.setV_trappc (g : Gang) (r l : Nat) (b : W32) (t : Tag) : (g.setV r l b t).trappc = g.trappc := rfl
@[simp] theorem Gang.setV_trapl (g : Gang) (r l : Nat) (b : W32) (t : Tag) : (g.setV r l b t).trapl = g.trapl := rfl
@[simp] theorem Gang.setV_handler (g : Gang) (r l : Nat) (b : W32) (t : Tag) : (g.setV r l b t).handler = g.handler := rfl
@[simp] theorem Gang.setV_ext (g : Gang) (r l : Nat) (b : W32) (t : Tag) : (g.setV r l b t).ext = g.ext := rfl
@[simp] theorem Gang.setV_traceEn (g : Gang) (r l : Nat) (b : W32) (t : Tag) : (g.setV r l b t).traceEn = g.traceEn := rfl
@[simp] theorem Gang.setV_permit (g : Gang) (r l : Nat) (b : W32) (t : Tag) : (g.setV r l b t).permit = g.permit := rfl
@[simp] theorem Gang.setV_acctd (g : Gang) (r l : Nat) (b : W32) (t : Tag) : (g.setV r l b t).acctd = g.acctd := rfl
@[simp] theorem Gang.setV_syncDue (g : Gang) (r l : Nat) (b : W32) (t : Tag) : (g.setV r l b t).syncDue = g.syncDue := rfl
@[simp] theorem Gang.setV_sinceSync (g : Gang) (r l : Nat) (b : W32) (t : Tag) : (g.setV r l b t).sinceSync = g.sinceSync := rfl
@[simp] theorem Gang.setV_loads (g : Gang) (r l : Nat) (b : W32) (t : Tag) : (g.setV r l b t).loads = g.loads := rfl
@[simp] theorem Gang.setV_rc (g : Gang) (r l : Nat) (b : W32) (t : Tag) : (g.setV r l b t).rc = g.rc := rfl
@[simp] theorem Gang.setV_acq (g : Gang) (r l : Nat) (b : W32) (t : Tag) : (g.setV r l b t).acq = g.acq := rfl
@[simp] theorem Gang.setV_vr (g : Gang) (r l : Nat) (b : W32) (t : Tag) : (g.setV r l b t).vr = g.vr := rfl
@[simp] theorem Gang.setV_relFence (g : Gang) (r l : Nat) (b : W32) (t : Tag) : (g.setV r l b t).relFence = g.relFence := rfl
@[simp] theorem Gang.setV_seen (g : Gang) (r l : Nat) (b : W32) (t : Tag) : (g.setV r l b t).seen = g.seen := rfl
@[simp] theorem Gang.setV_know (g : Gang) (r l : Nat) (b : W32) (t : Tag) : (g.setV r l b t).know = g.know := rfl
@[simp] theorem Gang.setV_lastIssue (g : Gang) (r l : Nat) (b : W32) (t : Tag) : (g.setV r l b t).lastIssue = g.lastIssue := rfl
@[simp] theorem Gang.setV_yieldAt (g : Gang) (r l : Nat) (b : W32) (t : Tag) : (g.setV r l b t).yieldAt = g.yieldAt := rfl
@[simp] theorem Gang.setV_done (g : Gang) (r l : Nat) (b : W32) (t : Tag) : (g.setV r l b t).done = g.done := rfl
@[simp] theorem Gang.setV_service (g : Gang) (r l : Nat) (b : W32) (t : Tag) : (g.setV r l b t).service = g.service := rfl
@[simp] theorem Gang.setV_dbgStop (g : Gang) (r l : Nat) (b : W32) (t : Tag) : (g.setV r l b t).dbgStop = g.dbgStop := rfl
@[simp] theorem Gang.setV_stopReq (g : Gang) (r l : Nat) (b : W32) (t : Tag) : (g.setV r l b t).stopReq = g.stopReq := rfl

@[simp] theorem Gang.setSplit_role (g : Gang) (i : Nat) (sp : Split) : (g.setSplit i sp).role = g.role := rfl
@[simp] theorem Gang.setSplit_v (g : Gang) (i : Nat) (sp : Split) : (g.setSplit i sp).v = g.v := rfl
@[simp] theorem Gang.setSplit_s (g : Gang) (i : Nat) (sp : Split) : (g.setSplit i sp).s = g.s := rfl
@[simp] theorem Gang.setSplit_p (g : Gang) (i : Nat) (sp : Split) : (g.setSplit i sp).p = g.p := rfl
@[simp] theorem Gang.setSplit_x (g : Gang) (i : Nat) (sp : Split) : (g.setSplit i sp).x = g.x := rfl
@[simp] theorem Gang.setSplit_om (g : Gang) (i : Nat) (sp : Split) : (g.setSplit i sp).om = g.om := rfl
@[simp] theorem Gang.setSplit_c (g : Gang) (i : Nat) (sp : Split) : (g.setSplit i sp).c = g.c := rfl
@[simp] theorem Gang.setSplit_cIssued (g : Gang) (i : Nat) (sp : Split) : (g.setSplit i sp).cIssued = g.cIssued := rfl
@[simp] theorem Gang.setSplit_cErr (g : Gang) (i : Nat) (sp : Split) : (g.setSplit i sp).cErr = g.cErr := rfl
@[simp] theorem Gang.setSplit_cRel (g : Gang) (i : Nat) (sp : Split) : (g.setSplit i sp).cRel = g.cRel := rfl
@[simp] theorem Gang.setSplit_cLast (g : Gang) (i : Nat) (sp : Split) : (g.setSplit i sp).cLast = g.cLast := rfl
@[simp] theorem Gang.setSplit_mrec (g : Gang) (i : Nat) (sp : Split) : (g.setSplit i sp).mrec = g.mrec := rfl
@[simp] theorem Gang.setSplit_regions (g : Gang) (i : Nat) (sp : Split) : (g.setSplit i sp).regions = g.regions := rfl
@[simp] theorem Gang.setSplit_plane (g : Gang) (i : Nat) (sp : Split) : (g.setSplit i sp).plane = g.plane := rfl
@[simp] theorem Gang.setSplit_dp (g : Gang) (i : Nat) (sp : Split) : (g.setSplit i sp).dp = g.dp := rfl
@[simp] theorem Gang.setSplit_exited (g : Gang) (i : Nat) (sp : Split) : (g.setSplit i sp).exited = g.exited := rfl
@[simp] theorem Gang.setSplit_flags (g : Gang) (i : Nat) (sp : Split) : (g.setSplit i sp).flags = g.flags := rfl
@[simp] theorem Gang.setSplit_mode (g : Gang) (i : Nat) (sp : Split) : (g.setSplit i sp).mode = g.mode := rfl
@[simp] theorem Gang.setSplit_blame (g : Gang) (i : Nat) (sp : Split) : (g.setSplit i sp).blame = g.blame := rfl
@[simp] theorem Gang.setSplit_trapc (g : Gang) (i : Nat) (sp : Split) : (g.setSplit i sp).trapc = g.trapc := rfl
@[simp] theorem Gang.setSplit_trapa (g : Gang) (i : Nat) (sp : Split) : (g.setSplit i sp).trapa = g.trapa := rfl
@[simp] theorem Gang.setSplit_trappc (g : Gang) (i : Nat) (sp : Split) : (g.setSplit i sp).trappc = g.trappc := rfl
@[simp] theorem Gang.setSplit_trapl (g : Gang) (i : Nat) (sp : Split) : (g.setSplit i sp).trapl = g.trapl := rfl
@[simp] theorem Gang.setSplit_handler (g : Gang) (i : Nat) (sp : Split) : (g.setSplit i sp).handler = g.handler := rfl
@[simp] theorem Gang.setSplit_ext (g : Gang) (i : Nat) (sp : Split) : (g.setSplit i sp).ext = g.ext := rfl
@[simp] theorem Gang.setSplit_traceEn (g : Gang) (i : Nat) (sp : Split) : (g.setSplit i sp).traceEn = g.traceEn := rfl
@[simp] theorem Gang.setSplit_permit (g : Gang) (i : Nat) (sp : Split) : (g.setSplit i sp).permit = g.permit := rfl
@[simp] theorem Gang.setSplit_acctd (g : Gang) (i : Nat) (sp : Split) : (g.setSplit i sp).acctd = g.acctd := rfl
@[simp] theorem Gang.setSplit_syncDue (g : Gang) (i : Nat) (sp : Split) : (g.setSplit i sp).syncDue = g.syncDue := rfl
@[simp] theorem Gang.setSplit_sinceSync (g : Gang) (i : Nat) (sp : Split) : (g.setSplit i sp).sinceSync = g.sinceSync := rfl
@[simp] theorem Gang.setSplit_loads (g : Gang) (i : Nat) (sp : Split) : (g.setSplit i sp).loads = g.loads := rfl
@[simp] theorem Gang.setSplit_rc (g : Gang) (i : Nat) (sp : Split) : (g.setSplit i sp).rc = g.rc := rfl
@[simp] theorem Gang.setSplit_acq (g : Gang) (i : Nat) (sp : Split) : (g.setSplit i sp).acq = g.acq := rfl
@[simp] theorem Gang.setSplit_vr (g : Gang) (i : Nat) (sp : Split) : (g.setSplit i sp).vr = g.vr := rfl
@[simp] theorem Gang.setSplit_relFence (g : Gang) (i : Nat) (sp : Split) : (g.setSplit i sp).relFence = g.relFence := rfl
@[simp] theorem Gang.setSplit_seen (g : Gang) (i : Nat) (sp : Split) : (g.setSplit i sp).seen = g.seen := rfl
@[simp] theorem Gang.setSplit_know (g : Gang) (i : Nat) (sp : Split) : (g.setSplit i sp).know = g.know := rfl
@[simp] theorem Gang.setSplit_lastIssue (g : Gang) (i : Nat) (sp : Split) : (g.setSplit i sp).lastIssue = g.lastIssue := rfl
@[simp] theorem Gang.setSplit_yieldAt (g : Gang) (i : Nat) (sp : Split) : (g.setSplit i sp).yieldAt = g.yieldAt := rfl
@[simp] theorem Gang.setSplit_done (g : Gang) (i : Nat) (sp : Split) : (g.setSplit i sp).done = g.done := rfl
@[simp] theorem Gang.setSplit_service (g : Gang) (i : Nat) (sp : Split) : (g.setSplit i sp).service = g.service := rfl
@[simp] theorem Gang.setSplit_dbgStop (g : Gang) (i : Nat) (sp : Split) : (g.setSplit i sp).dbgStop = g.dbgStop := rfl
@[simp] theorem Gang.setSplit_stopReq (g : Gang) (i : Nat) (sp : Split) : (g.setSplit i sp).stopReq = g.stopReq := rfl

@[simp] theorem Gang.spliceSplit_role (g : Gang) (i : Nat) (l : List Split) : (g.spliceSplit i l).role = g.role := rfl
@[simp] theorem Gang.spliceSplit_v (g : Gang) (i : Nat) (l : List Split) : (g.spliceSplit i l).v = g.v := rfl
@[simp] theorem Gang.spliceSplit_s (g : Gang) (i : Nat) (l : List Split) : (g.spliceSplit i l).s = g.s := rfl
@[simp] theorem Gang.spliceSplit_p (g : Gang) (i : Nat) (l : List Split) : (g.spliceSplit i l).p = g.p := rfl
@[simp] theorem Gang.spliceSplit_x (g : Gang) (i : Nat) (l : List Split) : (g.spliceSplit i l).x = g.x := rfl
@[simp] theorem Gang.spliceSplit_om (g : Gang) (i : Nat) (l : List Split) : (g.spliceSplit i l).om = g.om := rfl
@[simp] theorem Gang.spliceSplit_c (g : Gang) (i : Nat) (l : List Split) : (g.spliceSplit i l).c = g.c := rfl
@[simp] theorem Gang.spliceSplit_cIssued (g : Gang) (i : Nat) (l : List Split) : (g.spliceSplit i l).cIssued = g.cIssued := rfl
@[simp] theorem Gang.spliceSplit_cErr (g : Gang) (i : Nat) (l : List Split) : (g.spliceSplit i l).cErr = g.cErr := rfl
@[simp] theorem Gang.spliceSplit_cRel (g : Gang) (i : Nat) (l : List Split) : (g.spliceSplit i l).cRel = g.cRel := rfl
@[simp] theorem Gang.spliceSplit_cLast (g : Gang) (i : Nat) (l : List Split) : (g.spliceSplit i l).cLast = g.cLast := rfl
@[simp] theorem Gang.spliceSplit_mrec (g : Gang) (i : Nat) (l : List Split) : (g.spliceSplit i l).mrec = g.mrec := rfl
@[simp] theorem Gang.spliceSplit_regions (g : Gang) (i : Nat) (l : List Split) : (g.spliceSplit i l).regions = g.regions := rfl
@[simp] theorem Gang.spliceSplit_plane (g : Gang) (i : Nat) (l : List Split) : (g.spliceSplit i l).plane = g.plane := rfl
@[simp] theorem Gang.spliceSplit_dp (g : Gang) (i : Nat) (l : List Split) : (g.spliceSplit i l).dp = g.dp := rfl
@[simp] theorem Gang.spliceSplit_exited (g : Gang) (i : Nat) (l : List Split) : (g.spliceSplit i l).exited = g.exited := rfl
@[simp] theorem Gang.spliceSplit_flags (g : Gang) (i : Nat) (l : List Split) : (g.spliceSplit i l).flags = g.flags := rfl
@[simp] theorem Gang.spliceSplit_mode (g : Gang) (i : Nat) (l : List Split) : (g.spliceSplit i l).mode = g.mode := rfl
@[simp] theorem Gang.spliceSplit_blame (g : Gang) (i : Nat) (l : List Split) : (g.spliceSplit i l).blame = g.blame := rfl
@[simp] theorem Gang.spliceSplit_trapc (g : Gang) (i : Nat) (l : List Split) : (g.spliceSplit i l).trapc = g.trapc := rfl
@[simp] theorem Gang.spliceSplit_trapa (g : Gang) (i : Nat) (l : List Split) : (g.spliceSplit i l).trapa = g.trapa := rfl
@[simp] theorem Gang.spliceSplit_trappc (g : Gang) (i : Nat) (l : List Split) : (g.spliceSplit i l).trappc = g.trappc := rfl
@[simp] theorem Gang.spliceSplit_trapl (g : Gang) (i : Nat) (l : List Split) : (g.spliceSplit i l).trapl = g.trapl := rfl
@[simp] theorem Gang.spliceSplit_handler (g : Gang) (i : Nat) (l : List Split) : (g.spliceSplit i l).handler = g.handler := rfl
@[simp] theorem Gang.spliceSplit_ext (g : Gang) (i : Nat) (l : List Split) : (g.spliceSplit i l).ext = g.ext := rfl
@[simp] theorem Gang.spliceSplit_traceEn (g : Gang) (i : Nat) (l : List Split) : (g.spliceSplit i l).traceEn = g.traceEn := rfl
@[simp] theorem Gang.spliceSplit_permit (g : Gang) (i : Nat) (l : List Split) : (g.spliceSplit i l).permit = g.permit := rfl
@[simp] theorem Gang.spliceSplit_acctd (g : Gang) (i : Nat) (l : List Split) : (g.spliceSplit i l).acctd = g.acctd := rfl
@[simp] theorem Gang.spliceSplit_syncDue (g : Gang) (i : Nat) (l : List Split) : (g.spliceSplit i l).syncDue = g.syncDue := rfl
@[simp] theorem Gang.spliceSplit_sinceSync (g : Gang) (i : Nat) (l : List Split) : (g.spliceSplit i l).sinceSync = g.sinceSync := rfl
@[simp] theorem Gang.spliceSplit_loads (g : Gang) (i : Nat) (l : List Split) : (g.spliceSplit i l).loads = g.loads := rfl
@[simp] theorem Gang.spliceSplit_rc (g : Gang) (i : Nat) (l : List Split) : (g.spliceSplit i l).rc = g.rc := rfl
@[simp] theorem Gang.spliceSplit_acq (g : Gang) (i : Nat) (l : List Split) : (g.spliceSplit i l).acq = g.acq := rfl
@[simp] theorem Gang.spliceSplit_vr (g : Gang) (i : Nat) (l : List Split) : (g.spliceSplit i l).vr = g.vr := rfl
@[simp] theorem Gang.spliceSplit_relFence (g : Gang) (i : Nat) (l : List Split) : (g.spliceSplit i l).relFence = g.relFence := rfl
@[simp] theorem Gang.spliceSplit_seen (g : Gang) (i : Nat) (l : List Split) : (g.spliceSplit i l).seen = g.seen := rfl
@[simp] theorem Gang.spliceSplit_know (g : Gang) (i : Nat) (l : List Split) : (g.spliceSplit i l).know = g.know := rfl
@[simp] theorem Gang.spliceSplit_lastIssue (g : Gang) (i : Nat) (l : List Split) : (g.spliceSplit i l).lastIssue = g.lastIssue := rfl
@[simp] theorem Gang.spliceSplit_yieldAt (g : Gang) (i : Nat) (l : List Split) : (g.spliceSplit i l).yieldAt = g.yieldAt := rfl
@[simp] theorem Gang.spliceSplit_done (g : Gang) (i : Nat) (l : List Split) : (g.spliceSplit i l).done = g.done := rfl
@[simp] theorem Gang.spliceSplit_service (g : Gang) (i : Nat) (l : List Split) : (g.spliceSplit i l).service = g.service := rfl
@[simp] theorem Gang.spliceSplit_dbgStop (g : Gang) (i : Nat) (l : List Split) : (g.spliceSplit i l).dbgStop = g.dbgStop := rfl
@[simp] theorem Gang.spliceSplit_stopReq (g : Gang) (i : Nat) (l : List Split) : (g.spliceSplit i l).stopReq = g.stopReq := rfl

@[simp] theorem Gang.orFlags_role (g : Gang) (f : Nat) : (g.orFlags f).role = g.role := rfl
@[simp] theorem Gang.orFlags_v (g : Gang) (f : Nat) : (g.orFlags f).v = g.v := rfl
@[simp] theorem Gang.orFlags_s (g : Gang) (f : Nat) : (g.orFlags f).s = g.s := rfl
@[simp] theorem Gang.orFlags_p (g : Gang) (f : Nat) : (g.orFlags f).p = g.p := rfl
@[simp] theorem Gang.orFlags_x (g : Gang) (f : Nat) : (g.orFlags f).x = g.x := rfl
@[simp] theorem Gang.orFlags_om (g : Gang) (f : Nat) : (g.orFlags f).om = g.om := rfl
@[simp] theorem Gang.orFlags_c (g : Gang) (f : Nat) : (g.orFlags f).c = g.c := rfl
@[simp] theorem Gang.orFlags_cIssued (g : Gang) (f : Nat) : (g.orFlags f).cIssued = g.cIssued := rfl
@[simp] theorem Gang.orFlags_cErr (g : Gang) (f : Nat) : (g.orFlags f).cErr = g.cErr := rfl
@[simp] theorem Gang.orFlags_cRel (g : Gang) (f : Nat) : (g.orFlags f).cRel = g.cRel := rfl
@[simp] theorem Gang.orFlags_cLast (g : Gang) (f : Nat) : (g.orFlags f).cLast = g.cLast := rfl
@[simp] theorem Gang.orFlags_mrec (g : Gang) (f : Nat) : (g.orFlags f).mrec = g.mrec := rfl
@[simp] theorem Gang.orFlags_regions (g : Gang) (f : Nat) : (g.orFlags f).regions = g.regions := rfl
@[simp] theorem Gang.orFlags_plane (g : Gang) (f : Nat) : (g.orFlags f).plane = g.plane := rfl
@[simp] theorem Gang.orFlags_splits (g : Gang) (f : Nat) : (g.orFlags f).splits = g.splits := rfl
@[simp] theorem Gang.orFlags_dp (g : Gang) (f : Nat) : (g.orFlags f).dp = g.dp := rfl
@[simp] theorem Gang.orFlags_exited (g : Gang) (f : Nat) : (g.orFlags f).exited = g.exited := rfl
@[simp] theorem Gang.orFlags_mode (g : Gang) (f : Nat) : (g.orFlags f).mode = g.mode := rfl
@[simp] theorem Gang.orFlags_blame (g : Gang) (f : Nat) : (g.orFlags f).blame = g.blame := rfl
@[simp] theorem Gang.orFlags_trapc (g : Gang) (f : Nat) : (g.orFlags f).trapc = g.trapc := rfl
@[simp] theorem Gang.orFlags_trapa (g : Gang) (f : Nat) : (g.orFlags f).trapa = g.trapa := rfl
@[simp] theorem Gang.orFlags_trappc (g : Gang) (f : Nat) : (g.orFlags f).trappc = g.trappc := rfl
@[simp] theorem Gang.orFlags_trapl (g : Gang) (f : Nat) : (g.orFlags f).trapl = g.trapl := rfl
@[simp] theorem Gang.orFlags_handler (g : Gang) (f : Nat) : (g.orFlags f).handler = g.handler := rfl
@[simp] theorem Gang.orFlags_ext (g : Gang) (f : Nat) : (g.orFlags f).ext = g.ext := rfl
@[simp] theorem Gang.orFlags_traceEn (g : Gang) (f : Nat) : (g.orFlags f).traceEn = g.traceEn := rfl
@[simp] theorem Gang.orFlags_permit (g : Gang) (f : Nat) : (g.orFlags f).permit = g.permit := rfl
@[simp] theorem Gang.orFlags_acctd (g : Gang) (f : Nat) : (g.orFlags f).acctd = g.acctd := rfl
@[simp] theorem Gang.orFlags_syncDue (g : Gang) (f : Nat) : (g.orFlags f).syncDue = g.syncDue := rfl
@[simp] theorem Gang.orFlags_sinceSync (g : Gang) (f : Nat) : (g.orFlags f).sinceSync = g.sinceSync := rfl
@[simp] theorem Gang.orFlags_loads (g : Gang) (f : Nat) : (g.orFlags f).loads = g.loads := rfl
@[simp] theorem Gang.orFlags_rc (g : Gang) (f : Nat) : (g.orFlags f).rc = g.rc := rfl
@[simp] theorem Gang.orFlags_acq (g : Gang) (f : Nat) : (g.orFlags f).acq = g.acq := rfl
@[simp] theorem Gang.orFlags_vr (g : Gang) (f : Nat) : (g.orFlags f).vr = g.vr := rfl
@[simp] theorem Gang.orFlags_relFence (g : Gang) (f : Nat) : (g.orFlags f).relFence = g.relFence := rfl
@[simp] theorem Gang.orFlags_seen (g : Gang) (f : Nat) : (g.orFlags f).seen = g.seen := rfl
@[simp] theorem Gang.orFlags_know (g : Gang) (f : Nat) : (g.orFlags f).know = g.know := rfl
@[simp] theorem Gang.orFlags_lastIssue (g : Gang) (f : Nat) : (g.orFlags f).lastIssue = g.lastIssue := rfl
@[simp] theorem Gang.orFlags_yieldAt (g : Gang) (f : Nat) : (g.orFlags f).yieldAt = g.yieldAt := rfl
@[simp] theorem Gang.orFlags_done (g : Gang) (f : Nat) : (g.orFlags f).done = g.done := rfl
@[simp] theorem Gang.orFlags_service (g : Gang) (f : Nat) : (g.orFlags f).service = g.service := rfl
@[simp] theorem Gang.orFlags_dbgStop (g : Gang) (f : Nat) : (g.orFlags f).dbgStop = g.dbgStop := rfl
@[simp] theorem Gang.orFlags_stopReq (g : Gang) (f : Nat) : (g.orFlags f).stopReq = g.stopReq := rfl

@[simp] theorem Gang.issued_role (g : Gang) (cx : Ctx) (c : Nat) : (g.issued cx c).role = g.role := rfl
@[simp] theorem Gang.issued_v (g : Gang) (cx : Ctx) (c : Nat) : (g.issued cx c).v = g.v := rfl
@[simp] theorem Gang.issued_s (g : Gang) (cx : Ctx) (c : Nat) : (g.issued cx c).s = g.s := rfl
@[simp] theorem Gang.issued_p (g : Gang) (cx : Ctx) (c : Nat) : (g.issued cx c).p = g.p := rfl
@[simp] theorem Gang.issued_om (g : Gang) (cx : Ctx) (c : Nat) : (g.issued cx c).om = g.om := rfl
@[simp] theorem Gang.issued_c (g : Gang) (cx : Ctx) (c : Nat) : (g.issued cx c).c = g.c := rfl
@[simp] theorem Gang.issued_cIssued (g : Gang) (cx : Ctx) (c : Nat) : (g.issued cx c).cIssued = g.cIssued := rfl
@[simp] theorem Gang.issued_cErr (g : Gang) (cx : Ctx) (c : Nat) : (g.issued cx c).cErr = g.cErr := rfl
@[simp] theorem Gang.issued_cRel (g : Gang) (cx : Ctx) (c : Nat) : (g.issued cx c).cRel = g.cRel := rfl
@[simp] theorem Gang.issued_cLast (g : Gang) (cx : Ctx) (c : Nat) : (g.issued cx c).cLast = g.cLast := rfl
@[simp] theorem Gang.issued_mrec (g : Gang) (cx : Ctx) (c : Nat) : (g.issued cx c).mrec = g.mrec := rfl
@[simp] theorem Gang.issued_regions (g : Gang) (cx : Ctx) (c : Nat) : (g.issued cx c).regions = g.regions := rfl
@[simp] theorem Gang.issued_plane (g : Gang) (cx : Ctx) (c : Nat) : (g.issued cx c).plane = g.plane := rfl
@[simp] theorem Gang.issued_splits (g : Gang) (cx : Ctx) (c : Nat) : (g.issued cx c).splits = g.splits := rfl
@[simp] theorem Gang.issued_dp (g : Gang) (cx : Ctx) (c : Nat) : (g.issued cx c).dp = g.dp := rfl
@[simp] theorem Gang.issued_exited (g : Gang) (cx : Ctx) (c : Nat) : (g.issued cx c).exited = g.exited := rfl
@[simp] theorem Gang.issued_flags (g : Gang) (cx : Ctx) (c : Nat) : (g.issued cx c).flags = g.flags := rfl
@[simp] theorem Gang.issued_mode (g : Gang) (cx : Ctx) (c : Nat) : (g.issued cx c).mode = g.mode := rfl
@[simp] theorem Gang.issued_blame (g : Gang) (cx : Ctx) (c : Nat) : (g.issued cx c).blame = g.blame := rfl
@[simp] theorem Gang.issued_trapc (g : Gang) (cx : Ctx) (c : Nat) : (g.issued cx c).trapc = g.trapc := rfl
@[simp] theorem Gang.issued_trapa (g : Gang) (cx : Ctx) (c : Nat) : (g.issued cx c).trapa = g.trapa := rfl
@[simp] theorem Gang.issued_trappc (g : Gang) (cx : Ctx) (c : Nat) : (g.issued cx c).trappc = g.trappc := rfl
@[simp] theorem Gang.issued_trapl (g : Gang) (cx : Ctx) (c : Nat) : (g.issued cx c).trapl = g.trapl := rfl
@[simp] theorem Gang.issued_handler (g : Gang) (cx : Ctx) (c : Nat) : (g.issued cx c).handler = g.handler := rfl
@[simp] theorem Gang.issued_ext (g : Gang) (cx : Ctx) (c : Nat) : (g.issued cx c).ext = g.ext := rfl
@[simp] theorem Gang.issued_traceEn (g : Gang) (cx : Ctx) (c : Nat) : (g.issued cx c).traceEn = g.traceEn := rfl
@[simp] theorem Gang.issued_permit (g : Gang) (cx : Ctx) (c : Nat) : (g.issued cx c).permit = g.permit := rfl
@[simp] theorem Gang.issued_acctd (g : Gang) (cx : Ctx) (c : Nat) : (g.issued cx c).acctd = g.acctd := rfl
@[simp] theorem Gang.issued_syncDue (g : Gang) (cx : Ctx) (c : Nat) : (g.issued cx c).syncDue = g.syncDue := rfl
@[simp] theorem Gang.issued_sinceSync (g : Gang) (cx : Ctx) (c : Nat) : (g.issued cx c).sinceSync = g.sinceSync := rfl
@[simp] theorem Gang.issued_loads (g : Gang) (cx : Ctx) (c : Nat) : (g.issued cx c).loads = g.loads := rfl
@[simp] theorem Gang.issued_rc (g : Gang) (cx : Ctx) (c : Nat) : (g.issued cx c).rc = g.rc := rfl
@[simp] theorem Gang.issued_acq (g : Gang) (cx : Ctx) (c : Nat) : (g.issued cx c).acq = g.acq := rfl
@[simp] theorem Gang.issued_vr (g : Gang) (cx : Ctx) (c : Nat) : (g.issued cx c).vr = g.vr := rfl
@[simp] theorem Gang.issued_relFence (g : Gang) (cx : Ctx) (c : Nat) : (g.issued cx c).relFence = g.relFence := rfl
@[simp] theorem Gang.issued_seen (g : Gang) (cx : Ctx) (c : Nat) : (g.issued cx c).seen = g.seen := rfl
@[simp] theorem Gang.issued_know (g : Gang) (cx : Ctx) (c : Nat) : (g.issued cx c).know = g.know := rfl
@[simp] theorem Gang.issued_yieldAt (g : Gang) (cx : Ctx) (c : Nat) : (g.issued cx c).yieldAt = g.yieldAt := rfl
@[simp] theorem Gang.issued_done (g : Gang) (cx : Ctx) (c : Nat) : (g.issued cx c).done = g.done := rfl
@[simp] theorem Gang.issued_service (g : Gang) (cx : Ctx) (c : Nat) : (g.issued cx c).service = g.service := rfl
@[simp] theorem Gang.issued_dbgStop (g : Gang) (cx : Ctx) (c : Nat) : (g.issued cx c).dbgStop = g.dbgStop := rfl
@[simp] theorem Gang.issued_stopReq (g : Gang) (cx : Ctx) (c : Nat) : (g.issued cx c).stopReq = g.stopReq := rfl

@[simp] theorem Gang.trapRegs_role (g : Gang) (d : Delivery) : (g.trapRegs d).role = g.role := rfl
@[simp] theorem Gang.trapRegs_v (g : Gang) (d : Delivery) : (g.trapRegs d).v = g.v := rfl
@[simp] theorem Gang.trapRegs_s (g : Gang) (d : Delivery) : (g.trapRegs d).s = g.s := rfl
@[simp] theorem Gang.trapRegs_p (g : Gang) (d : Delivery) : (g.trapRegs d).p = g.p := rfl
@[simp] theorem Gang.trapRegs_x (g : Gang) (d : Delivery) : (g.trapRegs d).x = g.x := rfl
@[simp] theorem Gang.trapRegs_om (g : Gang) (d : Delivery) : (g.trapRegs d).om = g.om := rfl
@[simp] theorem Gang.trapRegs_c (g : Gang) (d : Delivery) : (g.trapRegs d).c = g.c := rfl
@[simp] theorem Gang.trapRegs_cIssued (g : Gang) (d : Delivery) : (g.trapRegs d).cIssued = g.cIssued := rfl
@[simp] theorem Gang.trapRegs_cErr (g : Gang) (d : Delivery) : (g.trapRegs d).cErr = g.cErr := rfl
@[simp] theorem Gang.trapRegs_cRel (g : Gang) (d : Delivery) : (g.trapRegs d).cRel = g.cRel := rfl
@[simp] theorem Gang.trapRegs_cLast (g : Gang) (d : Delivery) : (g.trapRegs d).cLast = g.cLast := rfl
@[simp] theorem Gang.trapRegs_mrec (g : Gang) (d : Delivery) : (g.trapRegs d).mrec = g.mrec := rfl
@[simp] theorem Gang.trapRegs_regions (g : Gang) (d : Delivery) : (g.trapRegs d).regions = g.regions := rfl
@[simp] theorem Gang.trapRegs_plane (g : Gang) (d : Delivery) : (g.trapRegs d).plane = g.plane := rfl
@[simp] theorem Gang.trapRegs_splits (g : Gang) (d : Delivery) : (g.trapRegs d).splits = g.splits := rfl
@[simp] theorem Gang.trapRegs_dp (g : Gang) (d : Delivery) : (g.trapRegs d).dp = g.dp := rfl
@[simp] theorem Gang.trapRegs_exited (g : Gang) (d : Delivery) : (g.trapRegs d).exited = g.exited := rfl
@[simp] theorem Gang.trapRegs_flags (g : Gang) (d : Delivery) : (g.trapRegs d).flags = g.flags := rfl
@[simp] theorem Gang.trapRegs_mode (g : Gang) (d : Delivery) : (g.trapRegs d).mode = g.mode := rfl
@[simp] theorem Gang.trapRegs_blame (g : Gang) (d : Delivery) : (g.trapRegs d).blame = g.blame := rfl
@[simp] theorem Gang.trapRegs_handler (g : Gang) (d : Delivery) : (g.trapRegs d).handler = g.handler := rfl
@[simp] theorem Gang.trapRegs_ext (g : Gang) (d : Delivery) : (g.trapRegs d).ext = g.ext := rfl
@[simp] theorem Gang.trapRegs_traceEn (g : Gang) (d : Delivery) : (g.trapRegs d).traceEn = g.traceEn := rfl
@[simp] theorem Gang.trapRegs_permit (g : Gang) (d : Delivery) : (g.trapRegs d).permit = g.permit := rfl
@[simp] theorem Gang.trapRegs_acctd (g : Gang) (d : Delivery) : (g.trapRegs d).acctd = g.acctd := rfl
@[simp] theorem Gang.trapRegs_syncDue (g : Gang) (d : Delivery) : (g.trapRegs d).syncDue = g.syncDue := rfl
@[simp] theorem Gang.trapRegs_sinceSync (g : Gang) (d : Delivery) : (g.trapRegs d).sinceSync = g.sinceSync := rfl
@[simp] theorem Gang.trapRegs_loads (g : Gang) (d : Delivery) : (g.trapRegs d).loads = g.loads := rfl
@[simp] theorem Gang.trapRegs_rc (g : Gang) (d : Delivery) : (g.trapRegs d).rc = g.rc := rfl
@[simp] theorem Gang.trapRegs_acq (g : Gang) (d : Delivery) : (g.trapRegs d).acq = g.acq := rfl
@[simp] theorem Gang.trapRegs_vr (g : Gang) (d : Delivery) : (g.trapRegs d).vr = g.vr := rfl
@[simp] theorem Gang.trapRegs_relFence (g : Gang) (d : Delivery) : (g.trapRegs d).relFence = g.relFence := rfl
@[simp] theorem Gang.trapRegs_seen (g : Gang) (d : Delivery) : (g.trapRegs d).seen = g.seen := rfl
@[simp] theorem Gang.trapRegs_know (g : Gang) (d : Delivery) : (g.trapRegs d).know = g.know := rfl
@[simp] theorem Gang.trapRegs_lastIssue (g : Gang) (d : Delivery) : (g.trapRegs d).lastIssue = g.lastIssue := rfl
@[simp] theorem Gang.trapRegs_yieldAt (g : Gang) (d : Delivery) : (g.trapRegs d).yieldAt = g.yieldAt := rfl
@[simp] theorem Gang.trapRegs_done (g : Gang) (d : Delivery) : (g.trapRegs d).done = g.done := rfl
@[simp] theorem Gang.trapRegs_service (g : Gang) (d : Delivery) : (g.trapRegs d).service = g.service := rfl
@[simp] theorem Gang.trapRegs_dbgStop (g : Gang) (d : Delivery) : (g.trapRegs d).dbgStop = g.dbgStop := rfl
@[simp] theorem Gang.trapRegs_stopReq (g : Gang) (d : Delivery) : (g.trapRegs d).stopReq = g.stopReq := rfl

/-! ### A read after a write -/

@[simp] theorem State.coreAt_setCore (s : State) (c : Nat) (k : Core) : (s.setCore c k).coreAt c = k := by
  simp [State.coreAt, State.setCore]

theorem State.coreAt_setCore_other (s : State) {c c' : Nat} (k : Core) (h : c' ≠ c) : (s.setCore c k).coreAt c' = s.coreAt c' := by
  simp [State.coreAt, State.setCore, SMap.get_set_other _ _ _ h]

@[simp] theorem State.wgAt_setWg (s : State) (c : Nat) (w : Workgroup) : (s.setWg c w).wgAt c = w := by
  simp [State.wgAt, State.setWg]

theorem State.wgAt_setWg_other (s : State) {c c' : Nat} (w : Workgroup) (h : c' ≠ c) : (s.setWg c w).wgAt c' = s.wgAt c' := by
  simp [State.wgAt, State.setWg, State.coreAt_setCore_other _ _ h]

@[simp] theorem State.gangAt_setGang (s : State) (c n : Nat) (x : Gang) : (s.setGang c n x).gangAt c n = x := by
  simp [State.gangAt, State.setGang]

theorem State.gangAt_setGang_other (s : State) (c : Nat) {n n' : Nat} (x : Gang) (h : n' ≠ n) :
    (s.setGang c n x).gangAt c n' = s.gangAt c n' := by
  simp [State.gangAt, State.setGang, SMap.get_set_other _ _ _ h]

theorem State.gangAt_setGang_core (s : State) {c c' : Nat} (n n' : Nat) (x : Gang) (h : c' ≠ c) :
    (s.setGang c n x).gangAt c' n' = s.gangAt c' n' := by
  simp [State.gangAt, State.setGang, State.wgAt_setWg_other _ _ h]

@[simp] theorem State.gangAt_updGang (s : State) (c n : Nat) (f : Gang → Gang) : (s.updGang c n f).gangAt c n = f (s.gangAt c n) := by
  simp [State.updGang]

/-- Writing a gang does not move the scratchpad or the accumulators of its core. -/
@[simp] theorem State.store_setGang (s : State) (c n c' : Nat) (x : Gang) : ((s.setGang c n x).coreAt c').store = (s.coreAt c').store := by
  by_cases h : c' = c
  · subst h; simp [State.setGang, State.setWg]
  · simp [State.setGang, State.setWg, State.coreAt_setCore_other _ _ h]

@[simp] theorem State.clockAt_setGang (s : State) (c n c' : Nat) (x : Gang) : (s.setGang c n x).clockAt c' = s.clockAt c' := rfl

@[simp] theorem State.kernel_setGang (s : State) (c n : Nat) (x : Gang) : ((s.setGang c n x).wgAt c).kernel = (s.wgAt c).kernel := by
  simp [State.setGang]

/-- s0 reads 0. -/
@[simp] theorem Gang.sreg_zero (g : Gang) : g.sreg 0 = 0 := rfl

/-- A write to s0 is ignored. -/
@[simp] theorem Gang.setS_zero (g : Gang) (x : W64) : g.setS 0 x = g := rfl

theorem Gang.sreg_setS (g : Gang) (n r : Nat) (x : W64) : (g.setS n x).sreg r = if r = n ∧ n ≠ 0 then x else g.sreg r := by
  unfold Gang.setS Gang.sreg
  by_cases hn : n = 0
  · simp [hn]
  · by_cases hr : r = 0
    · subst hr; simp [Ne.symm hn]
    · by_cases h : r = n
      · subst h; simp [hn]
      · simp [hn, hr, h, SMap.get_set_other _ _ _ h]

/-- p0 reads all ones. -/
@[simp] theorem Gang.preg_zero (g : Gang) : g.preg 0 = BitVec.allOnes 32 := rfl

theorem Gang.preg_setP_other (g : Gang) {n r : Nat} (m b : W32) (h : r ≠ n) : (g.setP n m b).preg r = g.preg r := by
  unfold Gang.setP Gang.preg
  by_cases hn : n = 0
  · simp [hn]
  · by_cases hr : r = 0
    · simp [hr]
    · simp [hn, hr, SMap.get_set_other _ _ _ h]

theorem Gang.preg_setP (g : Gang) {n : Nat} (m b : W32) (h : n ≠ 0) :
    (g.setP n m b).preg n = (g.preg n &&& ~~~m) ||| (b &&& m) := by
  simp [Gang.setP, Gang.preg, h]

@[simp] theorem Gang.raw_setCell (g : Gang) (r l : Nat) (x : VCell) : (g.setCell r l x).raw r l = x := by
  simp [Gang.raw, Gang.setCell]

@[simp] theorem Gang.cell_setCell (g : Gang) (r l : Nat) (x : VCell) : (g.setCell r l x).cell r l = x.clean := by
  simp [Gang.cell]

/-- Zeros in bits 7:6 of L6X4 stay (03 R58). -/
@[simp] theorem Tag.clean_clean (t : Tag) (x : W32) : t.clean (t.clean x) = t.clean x := by
  unfold Tag.clean
  split
  · rw [BitVec.and_assoc, BitVec.and_self]
  · rfl

@[simp] theorem Gang.cell_setV (g : Gang) (r l : Nat) (bits : W32) (t : Tag) : (g.setV r l bits t).cell r l = ⟨t.clean bits, t, false⟩ := by
  simp [Gang.setV, VCell.clean]

theorem Gang.raw_setCell_other (g : Gang) {r l r' l' : Nat} (x : VCell) (hl : l < 32) (hl' : l' < 32) (h : r' ≠ r ∨ l' ≠ l) :
    (g.setCell r l x).raw r' l' = g.raw r' l' := by
  have hk : 32 * r' + l' ≠ 32 * r + l := by omega
  by_cases hd : cellDefault r' = cellDefault r
  · simp [Gang.raw, Gang.setCell, hd, SMap.get_set_other _ _ _ hk]
  · simp only [Gang.raw, Gang.setCell, SMap.set]
    split
    · exact SMap.get_del_other _ _ hk
    · rw [SMap.get_ins_other _ _ _ hk, SMap.get_del_other _ _ hk]

theorem Gang.cell_setCell_other (g : Gang) {r l r' l' : Nat} (x : VCell) (hl : l < 32) (hl' : l' < 32) (h : r' ≠ r ∨ l' ≠ l) :
    (g.setCell r l x).cell r' l' = g.cell r' l' := by
  simp [Gang.cell, Gang.raw_setCell_other g x hl hl' h]

/-- The context of an issue is that of the split that issues. -/
theorem State.ctx?_gang {s : State} {cx : Ctx} (h : s.ctx? = some cx) : cx.g = s.gangAt cx.core cx.gang := by
  unfold State.ctx? at h
  split at h
  · cases h
  · split at h
    · cases h
    · cases h; rfl

theorem State.ctx?_wg {s : State} {cx : Ctx} (h : s.ctx? = some cx) : cx.wg = s.wgAt cx.core := by
  unfold State.ctx? at h
  split at h
  · cases h
  · split at h
    · cases h
    · cases h; rfl

theorem State.ctx?_split {s : State} {cx : Ctx} (h : s.ctx? = some cx) : cx.g.splits[cx.split]? = some cx.sp := by
  unfold State.ctx? at h
  split at h
  · cases h
  · split at h
    · cases h
    · next hs => cases h; exact hs

end Sys2Proof.Machine
end

