-- ==== Sys2Proof/Laws/Memory.lean ====
section
/-! SUPPORT. Memory: what a read gives after each operation, and that every operation keeps the canonical form of device memory, host memory and the scratchpads. -/

namespace Sys2Proof.Machine

variable {α : Type}

/-! ### Ranges of a map -/

theorem SMap.get_absent (d : α) (m : SMap α) (k : Nat) (h : ∀ e ∈ m, e.1 ≠ k) : SMap.get d m k = d := by
  induction m with
  | nil => rfl
  | cons e r ih =>
    obtain ⟨k', v⟩ := e
    rw [SMap.get_cons, if_neg (h (k', v) (by simp)), ih (fun e he => h e (by simp [he]))]

theorem SMap.get_append_left (d : α) (a b : SMap α) (k : Nat) (h : ∀ e ∈ b, e.1 ≠ k) : SMap.get d (a ++ b) k = SMap.get d a k := by
  induction a with
  | nil => exact SMap.get_absent d b k h
  | cons e r ih =>
    obtain ⟨k', v⟩ := e
    rw [List.cons_append, SMap.get_cons, SMap.get_cons, ih]

theorem SMap.get_append_right (d : α) (a b : SMap α) (k : Nat) (h : ∀ e ∈ a, e.1 ≠ k) : SMap.get d (a ++ b) k = SMap.get d b k := by
  induction a with
  | nil => rfl
  | cons e r ih =>
    obtain ⟨k', v⟩ := e
    rw [List.cons_append, SMap.get_cons, if_neg (h (k', v) (by simp)), ih (fun e he => h e (by simp [he]))]

/-- A dropped range reads as unlisted; every other key as before. -/
theorem SMap.get_dropRange (d : α) (m : SMap α) (lo n k : Nat) :
    SMap.get d (dropRange m lo n) k = if lo ≤ k ∧ k < lo + n then d else SMap.get d m k := by
  unfold dropRange
  rw [SMap.get_filter d m (fun k => decide (k < lo ∨ lo + n ≤ k))]
  by_cases h : lo ≤ k ∧ k < lo + n
  · rw [if_pos h, if_neg (by rw [decide_eq_true_eq]; omega)]
  · rw [if_neg h, if_pos (by rw [decide_eq_true_eq]; omega)]

/-- The entries of a function on a range. -/
theorem mem_tabulate [DecidableEq α] {d : α} {lo n : Nat} {f : Nat → α} {e : Nat × α}
    (h : e ∈ (List.range n).filterMap (fun i => if f i = d then none else some (lo + i, f i))) : lo ≤ e.1 ∧ e.1 < lo + n := by
  obtain ⟨i, hi, hf⟩ := List.mem_filterMap.mp h
  rw [List.mem_range] at hi
  split at hf
  · cases hf
  · cases hf; simp; omega

theorem SMap.get_tabulate [DecidableEq α] (d : α) (lo n k : Nat) (f : Nat → α) :
    SMap.get d ((List.range n).filterMap (fun i => if f i = d then none else some (lo + i, f i))) k =
      if lo ≤ k ∧ k < lo + n then f (k - lo) else d := by
  induction n with
  | zero => rw [if_neg (by omega)]; rfl
  | succ n ih =>
    rw [List.range_succ, List.filterMap_append]
    by_cases hk : k = lo + n
    · subst hk
      rw [SMap.get_append_right _ _ _ _ (fun e he => by have := mem_tabulate he; omega), if_pos (by omega)]
      by_cases hf : f n = d <;> simp [hf, SMap.get]
    · rw [SMap.get_append_left, ih]
      · by_cases h : lo ≤ k ∧ k < lo + n
        · rw [if_pos h, if_pos (by omega)]
        · rw [if_neg h, if_neg (by omega)]
      · intro e he
        by_cases hf : f n = d
        · simp [hf] at he
        · simp [hf] at he; subst he; simpa using Ne.symm hk

/-- A filled range reads as the function of the key, every other key as before. -/
theorem SMap.get_fillRange [DecidableEq α] (d : α) (m : SMap α) (lo n k : Nat) (f : Nat → α) :
    SMap.get d (fillRange d m lo n f) k = if lo ≤ k ∧ k < lo + n then f (k - lo) else SMap.get d m k := by
  have ha := SMap.get_filter d m (fun k => decide (k < lo)) k
  have hb := SMap.get_filter d m (fun k => decide (lo + n ≤ k)) k
  have hl : ∀ e ∈ m.filter (fun e => decide (e.1 < lo)), e.1 < lo := fun e he => by simpa using (List.mem_filter.mp he).2
  have hr : ∀ e ∈ m.filter (fun e => decide (lo + n ≤ e.1)), lo + n ≤ e.1 := fun e he => by simpa using (List.mem_filter.mp he).2
  unfold fillRange
  by_cases h1 : k < lo
  · rw [SMap.get_append_left _ _ _ _ (fun e he => by have := hr e he; omega),
      SMap.get_append_left _ _ _ _ (fun e he => by have := mem_tabulate he; omega), ha, if_pos (by simpa using h1), if_neg (by omega)]
  · by_cases h2 : k < lo + n
    · rw [SMap.get_append_left _ _ _ _ (fun e he => by have := hr e he; omega),
        SMap.get_append_right _ _ _ _ (fun e he => by have := hl e he; omega), SMap.get_tabulate]
      simp [h2, Nat.le_of_not_lt h1]
    · rw [SMap.get_append_right _ _ _ _ (fun e he => by
          rcases List.mem_append.mp he with he | he
          · have := hl e he; omega
          · have := mem_tabulate he; omega), hb, if_pos (by simpa using Nat.le_of_not_lt h2), if_neg (by omega)]

theorem SMap.wf_dropRange [DecidableEq α] {d : α} {m : SMap α} (lo n : Nat) (h : SMap.wf d m = true) : SMap.wf d (dropRange m lo n) = true :=
  SMap.wf_filter _ h

/-- Every key of the first list lies below every key of the second. -/
theorem SMap.wf_append [DecidableEq α] {d : α} {a b : SMap α} (ha : SMap.wf d a = true) (hb : SMap.wf d b = true)
    (h : ∀ x ∈ a, ∀ y ∈ b, x.1 < y.1) : SMap.wf d (a ++ b) = true := by
  induction a with
  | nil => exact hb
  | cons e r ih =>
    obtain ⟨k, v⟩ := e
    obtain ⟨hv, hab, hr⟩ := (SMap.wf_cons d k v r).mp ha
    refine (SMap.wf_cons d k v _).mpr ⟨hv, ?_, ih hr (fun x hx => h x (by simp [hx]))⟩
    cases r with
    | nil =>
      cases b with
      | nil => rfl
      | cons y b => simpa [SMap.above] using h (k, v) (by simp) y (by simp)
    | cons x r => simpa [SMap.above] using hab

theorem SMap.wf_tabulate [DecidableEq α] (d : α) (lo n : Nat) (f : Nat → α) :
    SMap.wf d ((List.range n).filterMap (fun i => if f i = d then none else some (lo + i, f i))) = true := by
  induction n with
  | zero => rfl
  | succ n ih =>
    rw [List.range_succ, List.filterMap_append]
    refine SMap.wf_append ih ?_ ?_
    · by_cases hf : f n = d <;> simp [hf, SMap.wf, SMap.above]
    · intro x hx y hy
      obtain ⟨i, hi, hfi⟩ := List.mem_filterMap.mp hx
      rw [List.mem_range] at hi
      split at hfi
      · cases hfi
      · cases hfi
        obtain ⟨j, hj, hfj⟩ := List.mem_filterMap.mp hy
        simp only [List.mem_singleton] at hj
        subst hj
        split at hfj
        · cases hfj
        · cases hfj; simp; omega

theorem SMap.wf_fillRange [DecidableEq α] {d : α} {m : SMap α} (lo n : Nat) (f : Nat → α) (h : SMap.wf d m = true) :
    SMap.wf d (fillRange d m lo n f) = true := by
  have hlt : ∀ x ∈ m.filter (fun e => decide (e.1 < lo)), x.1 < lo := fun x hx => by simpa using (List.mem_filter.mp hx).2
  have hge : ∀ x ∈ m.filter (fun e => decide (lo + n ≤ e.1)), lo + n ≤ x.1 := fun x hx => by simpa using (List.mem_filter.mp hx).2
  have hin : ∀ x ∈ (List.range n).filterMap (fun i => if f i = d then none else some (lo + i, f i)), lo ≤ x.1 ∧ x.1 < lo + n := by
    intro x hx
    obtain ⟨i, hi, hf⟩ := List.mem_filterMap.mp hx
    rw [List.mem_range] at hi
    split at hf
    · cases hf
    · cases hf; simp; omega
  refine SMap.wf_append (SMap.wf_append (SMap.wf_filter _ h) (SMap.wf_tabulate d lo n f) ?_) (SMap.wf_filter _ h) ?_
  · exact fun x hx y hy => Nat.lt_of_lt_of_le (hlt x hx) (hin y hy).1
  · intro x hx y hy
    have := hge y hy
    rcases List.mem_append.mp hx with hx | hx
    · have := hlt x hx; omega
    · have := (hin x hx).2; omega

/-! ### One byte -/

/-- A read after a write to the same place of device memory, host memory or a scratchpad gives the byte written. -/
theorem State.byteAt_setByteAt_dev (s : State) (pa : Nat) (b : Byte) : (s.setByteAt (.dev pa) b).byteAt (.dev pa) = b := by
  simp [State.setByteAt, State.byteAt]

theorem State.byteAt_setByteAt_host (s : State) (pa : Nat) (b : Byte) : (s.setByteAt (.host pa) b).byteAt (.host pa) = b := by
  simp [State.setByteAt, State.byteAt]

theorem State.byteAt_setByteAt_pad (s : State) (c off : Nat) (b : Byte) : (s.setByteAt (.pad c off) b).byteAt (.pad c off) = b := by
  simp [State.setByteAt, State.byteAt]

theorem State.mem_setByteAt (s : State) (p : Place) (b : Byte) (pa : Nat) :
    SMap.get 0 (s.setByteAt p b).mem pa = if p = .dev pa then b else SMap.get 0 s.mem pa := by
  cases p with
  | dev q =>
    by_cases h : pa = q
    · subst h; simp [State.setByteAt]
    · simp [State.setByteAt, SMap.get_set_other _ _ _ h, Ne.symm h]
  | chip c win off =>
    have : (s.setByteAt (.chip c win off) b).mem = s.mem := by
      simp only [State.setByteAt, State.setChipByte, State.setRegAt]
      split <;> (try split) <;> simp
    simp [this]
  | pad c off => simp [State.setByteAt]
  | _ => simp [State.setByteAt]

/-! ### The canonical form -/

/-- Device and host memory in canonical form. -/
structure MemoryOk (s : State) : Prop where
  mem : Memory.wf s.mem = true
  hmem : Memory.wf s.hmem = true

theorem State.reset_memoryOk : MemoryOk State.reset := ⟨rfl, rfl⟩

theorem State.setByteAt_memoryOk {s : State} (p : Place) (b : Byte) (h : MemoryOk s) : MemoryOk (s.setByteAt p b) := by
  cases p with
  | dev pa => exact ⟨SMap.wf_set _ _ h.mem, h.hmem⟩
  | host pa => exact ⟨h.mem, SMap.wf_set _ _ h.hmem⟩
  | pad c off => exact ⟨h.mem, h.hmem⟩
  | chip c win off =>
    simp only [State.setByteAt, State.setChipByte, State.setRegAt]
    split <;> (try split) <;> exact ⟨h.mem, h.hmem⟩
  | _ => exact h

/-- The scratchpad of the written core keeps its canonical form. -/
theorem State.setByteAt_scr {s : State} (c off c' : Nat) (b : Byte) (h : Memory.wf (s.coreAt c').store.scr = true) :
    Memory.wf ((s.setByteAt (.pad c off) b).coreAt c').store.scr = true := by
  by_cases hc : c' = c
  · subst hc
    simp only [State.setByteAt, State.coreAt_setCore]
    exact SMap.wf_set _ _ h
  · simpa [State.setByteAt, State.coreAt_setCore_other _ _ hc] using h

/-- A fold keeps the canonical form if each of its steps does. -/
theorem foldl_memoryOk {β : Type} {f : State → β → State} (hf : ∀ s x, MemoryOk s → MemoryOk (f s x)) (xs : List β) {s : State}
    (h : MemoryOk s) : MemoryOk (xs.foldl f s) := by
  induction xs generalizing s with
  | nil => exact h
  | cons x r ih => exact ih (hf _ _ h)

theorem setBytes_memoryOk {s : State} (ws : List (Place × Byte)) (h : MemoryOk s) : MemoryOk (setBytes ws s) :=
  foldl_memoryOk (fun _ _ h => State.setByteAt_memoryOk _ _ h) ws h

/-- What a write leaves beside the bytes is in neither memory. -/
theorem State.setRelAt_memoryOk {s : State} (p : Place) (n : Nat) (rs : List RelInfo) (h : MemoryOk s) : MemoryOk (s.setRelAt p n rs) := by
  unfold State.setRelAt
  split
  · exact ⟨h.mem, h.hmem⟩
  · split <;> exact ⟨h.mem, h.hmem⟩

theorem State.recordPast_memoryOk {s : State} (p : Place) (b : Byte) (h : MemoryOk s) : MemoryOk (s.recordPast p b) := by
  unfold State.recordPast
  split <;> exact ⟨h.mem, h.hmem⟩

theorem overwritten_memoryOk {s : State} (ws : List (Place × Byte)) (h : MemoryOk s) : MemoryOk (overwritten ws s) :=
  foldl_memoryOk (fun _ _ h => State.recordPast_memoryOk _ _ h) _
    (foldl_memoryOk (fun _ _ h => State.setRelAt_memoryOk _ _ _ h) _ ⟨h.mem, h.hmem⟩)

/-- Marks of poison and of errors on chip are no bytes of memory. -/
theorem State.setPoisonAt_memoryOk {s : State} (p : Place) (b : Bool) (h : MemoryOk s) : MemoryOk (s.setPoisonAt p b) := by
  unfold State.setPoisonAt
  split
  case h_3 => split <;> exact ⟨h.mem, h.hmem⟩
  case h_6 => simp only [State.setRegAt]; split <;> exact ⟨h.mem, h.hmem⟩
  all_goals exact ⟨h.mem, h.hmem⟩

theorem clearPoison_memoryOk {s : State} (ps : List Place) (h : MemoryOk s) : MemoryOk (clearPoison ps s) :=
  foldl_memoryOk (fun _ _ h => by split <;> [exact State.setPoisonAt_memoryOk _ _ h; exact h]) ps h

theorem storing_memoryOk {s : State} (ws : List (Place × Byte)) (h : MemoryOk s) : MemoryOk (storing ws s) :=
  overwritten_memoryOk _ (clearPoison_memoryOk _ h)

theorem writePlain_memoryOk {s : State} (ws : List (Place × Byte)) (h : MemoryOk s) : MemoryOk (writePlain ws s) :=
  setBytes_memoryOk _ (storing_memoryOk _ h)

theorem asAgent_memoryOk {s : State} (k : Nat) {f : State → State} (hf : ∀ s, MemoryOk s → MemoryOk (f s)) (h : MemoryOk s) :
    MemoryOk (asAgent k f s) := by
  have h' := hf { s with hand := some k } ⟨h.mem, h.hmem⟩
  exact ⟨h'.mem, h'.hmem⟩

theorem writeDev_memoryOk {s : State} (pa : Nat) (bs : List Byte) (h : MemoryOk s) : MemoryOk (writeDev pa bs s) :=
  writePlain_memoryOk _ h

theorem writeFrame_memoryOk {s : State} (f : Nat) (bs : List (Nat × Byte)) (h : MemoryOk s) : MemoryOk (writeFrame f bs s) :=
  foldl_memoryOk (fun _ _ h => State.setByteAt_memoryOk _ _ h) bs h

theorem fillFrame_memoryOk {s : State} (r : Region) (f : Nat) (h : MemoryOk s) : MemoryOk (fillFrame r f s) :=
  ⟨SMap.wf_fillRange _ _ _ h.mem, h.hmem⟩

theorem movePage_memoryOk {s : State} (lo hi : Nat) (h : MemoryOk s) : MemoryOk (movePage lo hi s) := ⟨h.mem, h.hmem⟩

theorem allocate_memoryOk {s : State} (i n : Nat) (r : Region) (f : Nat) (h : MemoryOk s) : MemoryOk (allocate i n r f s) :=
  movePage_memoryOk _ _ (fillFrame_memoryOk _ _ h)

theorem zeroRange_memoryOk {s : State} (pa n : Nat) (h : MemoryOk s) : MemoryOk (zeroRange pa n s) :=
  ⟨SMap.wf_dropRange _ _ h.mem, h.hmem⟩

theorem giveFrame_memoryOk {s : State} (i d f : Nat) (h : MemoryOk s) : MemoryOk (giveFrame i d f s) := by
  unfold giveFrame
  split
  · exact ⟨h.mem, h.hmem⟩
  · dsimp only; split <;> exact ⟨h.mem, h.hmem⟩

theorem putBack_memoryOk {s : State} (i d f : Nat) (b : Bool) (h : MemoryOk s) : MemoryOk (putBack i d f b s) := by
  unfold putBack
  split <;> exact ⟨h.mem, h.hmem⟩

theorem takeFrame_memoryOk {s s' : State} {i d f : Nat} (h : MemoryOk s) (e : takeFrame i d s = some (f, s')) : MemoryOk s' := by
  unfold takeFrame at e
  split at e
  · cases e
  · split at e
    · cases e; exact ⟨h.mem, h.hmem⟩
    · split at e
      · cases e; exact ⟨h.mem, h.hmem⟩
      · cases e

theorem releasePage_memoryOk {s : State} (i n : Nat) (b : Backed) (h : MemoryOk s) : MemoryOk (releasePage i n b s) :=
  giveFrame_memoryOk _ _ _ ⟨h.mem, h.hmem⟩

theorem writeBacked_memoryOk {s : State} (i n : Nat) (r : Region) (b : Backed) (bs : List (Nat × Byte)) (bad : List Nat) (h : MemoryOk s) :
    MemoryOk (writeBacked i n r b bs bad s) := by
  unfold writeBacked
  have h' := foldl_memoryOk (fun s (o : Nat) h => State.setPoisonAt_memoryOk (s := s) (.dev (b.frame + o)) true h) bad (writeFrame_memoryOk b.frame bs h)
  dsimp only
  split
  · exact releasePage_memoryOk _ _ _ h'
  · exact ⟨h'.mem, h'.hmem⟩

theorem writeMarked_memoryOk {s : State} (i n : Nat) (bs : List (Nat × Byte)) (bad : List Nat) (ps : Provs) (h : MemoryOk s) :
    MemoryOk (writeMarked i n bs bad ps s).1 := by
  unfold writeMarked
  split
  · exact h
  · split
    · exact writeBacked_memoryOk _ _ _ _ _ _ h
    · split
      · exact h
      · split
        · exact writeBacked_memoryOk _ _ _ _ _ _ (allocate_memoryOk _ _ _ _ h)
        · split
          · next e => exact writeBacked_memoryOk _ _ _ _ _ _ (allocate_memoryOk _ _ _ _ (takeFrame_memoryOk h e))
          · exact h

theorem writeOp_memoryOk {s : State} (i n : Nat) (bs : List (Nat × Byte)) (ps : Provs) (h : MemoryOk s) : MemoryOk (writeOp i n bs ps s).1 :=
  writeMarked_memoryOk _ _ _ _ _ h

/-- The bytes of a store at their places, and its write operations on pages of default regions, keep the canonical form. -/
theorem performStore_memoryOk {s : State} (ws : List (Place × Byte)) (bad : List Place) (ps : Provs) (h : MemoryOk s) :
    MemoryOk (performStore ws bad ps s).1 := by
  have hops : ∀ (parts : List (Nat × Nat)) (bs : Nat × Nat → List (Nat × Byte)) (ms : Nat × Nat → List Nat) (acc : State × Provs), MemoryOk acc.1 →
      MemoryOk (parts.foldl (fun acc q => ((writeMarked q.1 q.2 (bs q) (ms q) acc.2 acc.1).1, (writeMarked q.1 q.2 (bs q) (ms q) acc.2 acc.1).2.1)) acc).1 := by
    intro parts bs ms
    induction parts with
    | nil => exact fun _ h => h
    | cons q rest ih => exact fun acc h => ih _ (writeMarked_memoryOk _ _ _ _ _ h)
  exact hops _ _ _ _ (foldl_memoryOk (fun _ _ h => State.setPoisonAt_memoryOk _ _ h) _ (setBytes_memoryOk ws h))

/-- Every store to memory keeps the canonical form, of a gang and of an engine. -/
theorem writePoisoned_memoryOk {s : State} (ws : List (Place × Byte)) (bad : List Place) (ps : Provs) (h : MemoryOk s) :
    MemoryOk (writePoisoned ws bad ps s).1 := performStore_memoryOk _ _ _ (storing_memoryOk _ h)

theorem writePlaces_memoryOk {s : State} (ws : List (Place × Byte)) (ps : Provs) (h : MemoryOk s) :
    MemoryOk (writePlaces ws ps s).1 := writePoisoned_memoryOk _ _ _ h

theorem writeWords_memoryOk {s : State} (ws : List (Place × Byte)) (bad : List Place) (h : MemoryOk s) : MemoryOk (writeWords ws bad s) :=
  performStore_memoryOk _ _ _ (foldl_memoryOk (fun _ _ h => overwritten_memoryOk _ h) _ (clearPoison_memoryOk _ h))

theorem writeVa_memoryOk {s : State} (asid : Nat) (va : W64) (bs : List Byte) (h : MemoryOk s) : MemoryOk (writeVa asid va bs s) :=
  asAgent_memoryOk _ (fun _ h => writePlaces_memoryOk _ _ h) h

theorem returnProvs_memoryOk {s : State} (ps : Provs) (h : MemoryOk s) : MemoryOk (returnProvs ps s) := by
  unfold returnProvs
  induction ps generalizing s with
  | nil => exact h
  | cons p r ih => exact ih (putBack_memoryOk _ _ _ _ h)

theorem putBytes_wf {m : SMap Byte} (a : Nat) (bs : List Byte) (h : Memory.wf m = true) : Memory.wf (putBytes m a bs) = true := by
  unfold putBytes
  generalize bs.zipIdx = xs
  induction xs generalizing m with
  | nil => exact h
  | cons x r ih => exact ih (SMap.wf_set _ _ h)

/-- Placing a word keeps the canonical form. -/
theorem placeWord_memoryOk {s : State} (w : W32) (h : MemoryOk s) : MemoryOk (placeWord w s) :=
  ⟨putBytes_wf _ _ h.mem, h.hmem⟩

/-- A frame that the collector opens. -/
theorem openFrame_memoryOk {s : State} (die : Nat) (p : Packet) (h : MemoryOk s) : MemoryOk (openFrame die p s) :=
  ⟨SMap.wf_fillRange _ _ _ h.mem, h.hmem⟩

end Sys2Proof.Machine
end

