-- ==== Sys2Proof/Laws/Ops.lean ====
section
/-! SUPPORT. One lemma for each shared operation: what an issue can do, what retiring, waiting, a packet, a trap and a termination leave. -/

namespace Sys2Proof.Machine

/-! ### An issue -/

theorem issue_none {s : State} (f : Ctx → Except Stop State) (h : s.ctx? = none) : issue s f = .next s := by
  simp [issue, h]

theorem issue_ok {s t : State} {cx : Ctx} {f : Ctx → Except Stop State} (h : s.ctx? = some cx) (e : f cx = .ok t) : issue s f = .next t := by
  simp [issue, h, e]

theorem issue_trap {s : State} {cx : Ctx} {x : Trap} {f : Ctx → Except Stop State} (h : s.ctx? = some cx) (e : f cx = .error (.trap x)) :
    issue s f = .next (takeTrap cx x s) := by
  simp [issue, h, e]

theorem issue_fault {s : State} {cx : Ctx} {x : Fault} {f : Ctx → Except Stop State} (h : s.ctx? = some cx) (e : f cx = .error (.fault x)) :
    issue s f = .fault x := by
  simp [issue, h, e]

/-- An issue leaves the state alone where no split issues; else it has its effect, or takes its trap, or stops the machine. -/
theorem issue_cases (s : State) (f : Ctx → Except Stop State) :
    (s.ctx? = none ∧ issue s f = .next s) ∨
    (∃ cx, s.ctx? = some cx ∧ ((∃ t, f cx = .ok t ∧ issue s f = .next t) ∨ (∃ x, f cx = .error (.trap x) ∧ issue s f = .next (takeTrap cx x s)) ∨
      (∃ x, f cx = .error (.fault x) ∧ issue s f = .fault x))) := by
  cases h : s.ctx? with
  | none => exact .inl ⟨rfl, issue_none f h⟩
  | some cx =>
    refine .inr ⟨cx, rfl, ?_⟩
    cases e : f cx with
    | ok t => exact .inl ⟨t, rfl, issue_ok h e⟩
    | error x =>
      cases x with
      | trap x => exact .inr (.inl ⟨x, rfl, issue_trap h e⟩)
      | fault x => exact .inr (.inr ⟨x, rfl, issue_fault h e⟩)

/-- No issue is refused. -/
theorem issue_not_refused (s : State) (f : Ctx → Except Stop State) (r : Refusal) : issue s f ≠ .refused r := by
  rcases issue_cases s f with ⟨-, h⟩ | ⟨cx, -, ⟨t, -, h⟩ | ⟨x, -, h⟩ | ⟨x, -, h⟩⟩ <;> simp [h]

@[simp] theorem need_true (e : Stop) : need true e = .ok () := rfl
@[simp] theorem need_false (e : Stop) : need false e = .error e := rfl

theorem need_of {b : Bool} (e : Stop) (h : b = true) : need b e = .ok () := by rw [h]; rfl

/-- A required condition that fails stops the issue. -/
theorem need_bind {α : Type} (b : Bool) (e : Stop) (f : Unit → Except Stop α) : (need b e >>= f) = if b then f () else .error e := by
  cases b <;> rfl

/-! ### Memory under an update of a gang -/

theorem SameMemory.refl (s : State) : SameMemory s s := ⟨fun _ _ => rfl, fun _ _ => rfl⟩

theorem SameMemory.trans {s t u : State} (h : SameMemory s t) (k : SameMemory t u) : SameMemory s u :=
  ⟨fun p hp => (k.bytes p hp).trans (h.bytes p hp), fun c n => (k.tiles c n).trans (h.tiles c n)⟩

/-- States with the same memories, regions, backing and stores of every core. -/
theorem SameMemory.of_fields {s t : State} (hm : t.mem = s.mem) (hh : t.hmem = s.hmem) (hb : t.backed = s.backed) (hr : t.regions = s.regions)
    (hc : ∀ c, (t.coreAt c).store = (s.coreAt c).store) : SameMemory s t := by
  refine ⟨fun p hp => ?_, fun c k => by rw [hc]⟩
  cases p <;> simp_all [State.byteAt, State.backedAt, Place.onChip]

/-- Writing a gang changes no byte of memory. -/
theorem sameMemory_setGang (s : State) (c n : Nat) (g : Gang) : SameMemory s (s.setGang c n g) :=
  SameMemory.of_fields rfl rfl rfl rfl (fun c' => State.store_setGang s c n c' g)

/-- Writing a workgroup changes no byte of memory. -/
theorem sameMemory_setWg (s : State) (c : Nat) (w : Workgroup) : SameMemory s (s.setWg c w) := by
  refine SameMemory.of_fields rfl rfl rfl rfl (fun c' => ?_)
  by_cases h : c' = c
  · subst h; simp [State.setWg]
  · simp [State.setWg, State.coreAt_setCore_other _ _ h]

/-! ### Retiring and waiting -/

/-- A gang written twice holds what was written last. -/
theorem State.setCore_setCore (s : State) (c : Nat) (k k' : Core) : ((s.setCore c k).setCore c k').cores = SMap.set Core.empty (SMap.set Core.empty s.cores c k) c k' := rfl

/-- The latches after an issue that is not latch-class. -/
theorem latchesDrop_issued (cx : Ctx) (n : Nat) (g : Gang) : LatchesDrop cx g (g.issued cx n).x := by
  intro m hm i hi l hl
  have h1 : (32 * (4 * m + i) + l) % 32 = l := by omega
  have h2 : (32 * (4 * m + i) + l) / 128 = m := by omega
  show SMap.get none (dropLatches g.x cx.lanes cx.plane) _ = _
  unfold dropLatches
  rw [SMap.get_filter none _ (fun k => !(cx.lanes.getLsbD (k % 32) && (cx.plane.isNone || cx.plane == some (k / 128)))), h1, h2]
  cases hp : cx.plane <;> cases hb : cx.lanes.getLsbD l <;> simp [Gang.latch]

/-- Where a split goes depends on nothing that the record of an issue changes. -/
theorem Split.step_issued (cx : Ctx) (n : Nat) (g : Gang) (sp : Split) (p : Option Nat) : Split.step (g.issued cx n) sp p = Split.step g sp p := rfl

/-- Retiring an issue changes the issuing gang alone: it goes on after its word. -/
theorem retire_spec (cx : Ctx) (s : State) : ∃ g', retire cx s = s.setGang cx.core cx.gang g' ∧
    Issued cx s (s.gangAt cx.core cx.gang) g' :=
  ⟨_, rfl, _, latchesDrop_issued cx _ _, rfl⟩

/-- An issue that retires with nothing else to do. -/
theorem retires_retire {s : State} {cx : Ctx} (h : s.ctx? = some cx) : Retires cx s cx.g (.next (retire cx s)) := by
  obtain ⟨g', e, hi⟩ := retire_spec cx s
  rw [← State.ctx?_gang h] at hi
  exact ⟨_, g', rfl, e ▸ sameMemory_setGang s _ _ _, e, hi⟩

/-- A wait changes the issuing gang alone, and leaves the split at its word. -/
theorem waitsAt_waitAt {s : State} {cx : Ctx} (w : Wait) (h : s.ctx? = some cx) : WaitsAt cx s w (.next (waitAt cx w s)) := by
  refine ⟨_, _, rfl, sameMemory_setGang s _ _ _, rfl, _, latchesDrop_issued cx (cx.now s) cx.g, ?_⟩
  rw [State.ctx?_gang h]; rfl

/-! ### Packets -/

/-- A queued packet changes the trace buffers alone. -/
theorem pushPacket_spec (die : Nat) (p : Packet) (s : State) : ∃ tr, pushPacket die p s = { s with traces := tr } := by
  unfold pushPacket
  dsimp only
  split <;> exact ⟨_, rfl⟩

/-- A packet changes the trace buffers and the gang's SYNC bookkeeping alone. -/
theorem emitPacket_spec (core gang cls type bits src : Nat) (tag : Option (BitVec 16)) (payload : List Byte) (s : State) :
    emitPacket core gang cls type bits src tag payload s = s ∨ ∃ tr q k, emitPacket core gang cls type bits src tag payload s =
      { s.setGang core gang { s.gangAt core gang with syncDue := q, sinceSync := k } with traces := tr } := by
  unfold emitPacket
  dsimp only
  split
  · exact .inl rfl
  · refine .inr ?_
    generalize ((s.gangAt core gang).syncDue || decide (256 ≤ (s.gangAt core gang).sinceSync)) = due
    have h1 : ∃ tr, (if due then pushPacket (dieOf core) (syncPacket s core gang src) s else s) = { s with traces := tr } := by
      split
      · exact pushPacket_spec _ _ s
      · exact ⟨s.traces, rfl⟩
    obtain ⟨tr, h1⟩ := h1
    rw [h1]
    obtain ⟨tr', h2⟩ := pushPacket_spec (dieOf core) (({ s with traces := tr } : State).packetNow (dieOf core) type bits tag payload) { s with traces := tr }
    rw [h2]
    exact ⟨tr', false, _, rfl⟩

theorem sameMemory_emitPacket (core gang cls type bits src : Nat) (tag : Option (BitVec 16)) (payload : List Byte) (s : State) :
    SameMemory s (emitPacket core gang cls type bits src tag payload s) := by
  rcases emitPacket_spec core gang cls type bits src tag payload s with h | ⟨tr, q, k, h⟩ <;> rw [h]
  · exact SameMemory.refl s
  · exact (sameMemory_setGang s core gang { s.gangAt core gang with syncDue := q, sinceSync := k }).trans
      (SameMemory.of_fields rfl rfl rfl rfl (fun _ => rfl))

/-! ### Traps and terminations -/

/-- A charge, a launch record and a status change no byte of memory and no core. -/
theorem sameMemory_updLaunch (s : State) (n : Nat) (f : Launch → Launch) : SameMemory s (s.updLaunch n f) ∧ (s.updLaunch n f).cores = s.cores := by
  unfold State.updLaunch
  split
  · exact ⟨SameMemory.of_fields rfl rfl rfl rfl (fun _ => rfl), rfl⟩
  · exact ⟨SameMemory.refl s, rfl⟩

theorem endService_spec (w : Workgroup) (since : W64) (s : State) : SameMemory s (endService w since s) ∧ (endService w since s).cores = s.cores := by
  unfold endService
  obtain ⟨h, hc⟩ := sameMemory_updLaunch (s.charge w.domain 8 (s.time - since).toNat) w.launch (fun l => { l with faults := min (l.faults + 1) (2 ^ 32 - 1) })
  exact ⟨(SameMemory.of_fields (s := s) (t := s.charge w.domain 8 (s.time - since).toNat) rfl rfl rfl rfl (fun _ => rfl)).trans h, hc⟩

theorem endServices_spec (core : Nat) (ts : List W64) (s : State) :
    SameMemory s (endServices core ts s) ∧ (endServices core ts s).cores = s.cores := by
  unfold endServices
  induction ts generalizing s with
  | nil => exact ⟨SameMemory.refl s, rfl⟩
  | cons x r ih =>
    obtain ⟨h, hc⟩ := endService_spec (s.wgAt core) x s
    obtain ⟨h', hc'⟩ := ih (endService (s.wgAt core) x s)
    exact ⟨h.trans h', hc'.trans hc⟩

/-- A read as a search. -/
theorem SMap.get_eq_find {α : Type} (d : α) (m : SMap α) (k : Nat) :
    SMap.get d m k = match m.find? (fun e => e.1 == k) with
      | some e => e.2
      | none => d := by
  induction m with
  | nil => rfl
  | cons e r ih =>
    obtain ⟨k', v⟩ := e
    rw [SMap.get_cons, List.find?_cons]
    by_cases h : k' = k
    · simp [h]
    · have hb : (k' == k) = false := by simpa using h
      rw [if_neg h, ih]; dsimp only; rw [hb]

/-- A gang of a map under a change of every gang. -/
theorem Workgroup.gang_mapGangs (w : Workgroup) (f : Nat → Gang → Gang) (n : Nat) :
    SMap.get Gang.empty (w.mapGangs f).gangs n =
      match w.gangs.find? (fun e => e.1 == n) with
      | some e => f n e.2
      | none => Gang.empty := by
  show SMap.get Gang.empty (SMap.mapV Gang.empty f w.gangs) n = _
  unfold SMap.mapV SMap.canon SMap.setAll
  rw [List.foldl_map, List.foldl_reverse]
  generalize w.gangs = m
  induction m with
  | nil => rfl
  | cons e r ih =>
    rw [List.foldr_cons, SMap.get_set, List.find?_cons]
    by_cases h : n = e.1
    · subst h; simp
    · have hb : (e.1 == n) = false := by simpa using Ne.symm h
      rw [if_neg h, ih, hb]

/-- A gang that stops keeps of its splits those that are unfinished. -/
theorem Gang.mem_stopping {s : State} {core gang : Nat} {w : Workgroup} {g : Gang} {sp : Split} (h : sp ∈ (g.stopping s core gang w).splits) :
    sp ∈ g.splits ∧ Split.unfinished s core gang w g sp = true := by
  unfold Gang.stopping at h
  split at h
  · cases h
  · next e _ => exact List.mem_filter.mp h

/-- A stopped workgroup: it ends, and its gangs keep only splits that are unfinished; memory and the other cores stand. -/
theorem stopCore_spec (core : Nat) (s : State) : SameMemory s (stopCore core s) ∧ Ends s (stopCore core s) core ∧
    ∀ c, c ≠ core → (stopCore core s).coreAt c = s.coreAt c := by
  obtain ⟨h, hc⟩ := endServices_spec core (s.wgAt core).gangServices s
  have hk : ∀ c, (endServices core (s.wgAt core).gangServices s).coreAt c = s.coreAt c := fun c => by simp [State.coreAt, hc]
  have hw : (stopCore core s).wgAt core = (s.wgAt core).stopAll (endServices core (s.wgAt core).gangServices s) core := by
    have e : ∀ (u : State) (w : Workgroup), (u.setCore core { u.coreAt core with wg := some w, racq := [] }).wgAt core = w := by
      intro u w; simp [State.wgAt]
    exact (e _ _).trans (congrArg (fun k : Core => (k.wg.getD Workgroup.empty).stopAll _ core) (hk core))
  refine ⟨?_, ⟨by rw [hw]; rfl, fun n => ?_⟩, fun c hne => ?_⟩
  · refine h.trans (SameMemory.of_fields rfl rfl rfl rfl (fun c => ?_))
    by_cases hcc : c = core
    · subst hcc; simp [stopCore]
    · simp [stopCore, State.coreAt_setCore_other _ _ hcc]
  · have hg : ∀ sp ∈ ((stopCore core s).gangAt core n).splits, sp ∈ (s.gangAt core n).splits ∧ ∃ s' w,
        Split.unfinished s' core n w (s.gangAt core n) sp = true := by
      intro sp hsp
      have e : (stopCore core s).gangAt core n = SMap.get Gang.empty ((stopCore core s).wgAt core).gangs n := rfl
      rw [e, hw, Workgroup.stopAll, Workgroup.gang_mapGangs] at hsp
      dsimp only at hsp
      have hf := SMap.get_eq_find Gang.empty (s.wgAt core).gangs n
      cases hfind : (s.wgAt core).gangs.find? (fun e => e.1 == n) with
      | none => rw [hfind] at hsp; cases hsp
      | some e =>
        rw [hfind] at hsp hf
        rw [show s.gangAt core n = e.2 from hf]
        obtain ⟨h1, h2⟩ := Gang.mem_stopping hsp
        exact ⟨h1, _, _, h2⟩
    refine ⟨fun hd => ?_, fun sp hsp => ?_⟩
    · refine List.eq_nil_iff_forall_not_mem.mpr (fun sp hsp => ?_)
      obtain ⟨-, s', w, hu⟩ := hg sp hsp
      rcases hd with hd | hd <;> simp [Split.unfinished, hd] at hu
    · obtain ⟨hm, s', w, hu⟩ := hg sp hsp
      refine ⟨hm, by cases hb : sp.stopped <;> simp [Split.unfinished, hb] at hu ⊢, fun hh => ?_⟩
      unfold Split.unfinished at hu
      split at hu
      · next op e => exact ⟨op, e⟩
      · simp [hh] at hu
  · simp [stopCore, State.coreAt_setCore_other _ _ hne, hk]

theorem endLaunch_spec (s : State) (launch : Nat) (st : Status) : SameMemory s (endLaunch s launch st) ∧ (endLaunch s launch st).cores = s.cores := by
  unfold endLaunch
  split
  · exact ⟨SameMemory.refl s, rfl⟩
  · exact ⟨SameMemory.of_fields rfl rfl rfl rfl (fun _ => rfl), rfl⟩

/-- What a workgroup's end says depends on the cores alone. -/
theorem Ends.of_cores {s s' t : State} {core : Nat} (h : Ends s' t core) (hc : s'.cores = s.cores) : Ends s t core := by
  have e : ∀ n, s'.gangAt core n = s.gangAt core n := fun n => by simp [State.gangAt, State.wgAt, State.coreAt, hc]
  exact ⟨h.1, fun n => by simpa only [e] using h.2 n⟩

/-- A termination ends the workgroup of the core; memory and the other cores stand. -/
theorem terminate_spec (core : Nat) (st : Status) (s : State) : SameMemory s (terminate core st s) ∧
    Ends s (terminate core st s) core ∧ ∀ c, c ≠ core → (terminate core st s).coreAt c = s.coreAt c := by
  unfold terminate
  obtain ⟨h, hc⟩ := endLaunch_spec s (s.wgAt core).launch { st with node := (s.wgAt core).node, rank := (s.wgAt core).rank }
  obtain ⟨h', he, ho⟩ := stopCore_spec core (endLaunch s (s.wgAt core).launch { st with node := (s.wgAt core).node, rank := (s.wgAt core).rank })
  have hk : ∀ c, (endLaunch s (s.wgAt core).launch { st with node := (s.wgAt core).node, rank := (s.wgAt core).rank }).coreAt c = s.coreAt c :=
    fun c => by unfold State.coreAt; rw [hc]
  exact ⟨h.trans h', he.of_cores hc, fun c hne => (ho c hne).trans (hk c)⟩

/-- A trap that goes to the Puone cores leaves the gang with a service; nothing else changes. -/
theorem toPuone_spec (cx : Ctx) (t : Trap) (s : State) : SameMemory s (toPuone cx t s) ∧ ∃ g, toPuone cx t s = s.setGang cx.core cx.gang g ∧
    g.service.isSome = true ∧ g.v = (s.gangAt cx.core cx.gang).v ∧ g.s = (s.gangAt cx.core cx.gang).s ∧ g.p = (s.gangAt cx.core cx.gang).p :=
  ⟨sameMemory_setGang _ _ _ _, _, rfl, rfl, rfl, rfl, rfl⟩

/-- A delivered trap enters the kernel's handler, or ends the workgroup; memory stands. -/
theorem deliver_spec (core gang : Nat) (d : Delivery) (s : State) : SameMemory s (deliver core gang d s) ∧
    ((∃ off q k, (s.wgAt core).kernel.trapOff = some off ∧ (s.gangAt core gang).handler = none ∧
      (deliver core gang d s).gangAt core gang = Gang.enterHandler { s.gangAt core gang with syncDue := q, sinceSync := k } d off) ∨
    (((deliver core gang d s).wgAt core).ending = true ∧
      deliver core gang d s = terminate core d.status (s.updGang core gang (fun g => g.stopSplit d.split)))) := by
  have stay : Gang.enterHandler (s.gangAt core gang) d = Gang.enterHandler
      { s.gangAt core gang with syncDue := (s.gangAt core gang).syncDue, sinceSync := (s.gangAt core gang).sinceSync } d := rfl
  unfold deliver
  dsimp only
  split
  · next off ho hh =>
    split
    · next sp hs =>
      refine ⟨(sameMemory_emitPacket _ _ _ _ _ _ _ _ s).trans (sameMemory_setGang _ _ _ _), .inl ?_⟩
      rw [State.gangAt_updGang]
      rcases emitPacket_spec core gang 1 4 0 (srcOf core gang sp) d.tag (leBytes 2 (srcOf core gang sp) ++ leBytes 1 4 ++ leBytes 4 sp.lanes.toNat) s with h | ⟨tr, q, k, h⟩ <;> rw [h]
      · exact ⟨off, _, _, ho, hh, congrFun stay off⟩
      · exact ⟨off, q, k, ho, hh, congrArg (fun g => Gang.enterHandler g d off) (State.gangAt_setGang s core gang _)⟩
    · exact ⟨sameMemory_setGang _ _ _ _, .inl ⟨off, _, _, ho, hh, (State.gangAt_updGang _ _ _ _).trans (congrFun stay off)⟩⟩
  · obtain ⟨h, he, -⟩ := terminate_spec core d.status (s.updGang core gang (fun g => g.stopSplit d.split))
    exact ⟨(sameMemory_setGang _ _ _ _).trans h, .inr ⟨he.1, rfl⟩⟩

end Sys2Proof.Machine
end

