-- ==== Sys2Proof/Laws/PerInstr.lean ====
section
/-! SUPPORT. Decode and encode agree, constructor by constructor: the word of an instruction decodes to it (05 R84 to R102). -/

namespace Sys2Proof.Laws

/-- A field of a word is the value whose bits stand there. -/
theorem fld_eq {w : W32} {lo n : Nat} {x : BitVec n} (h : w.toNat / 2 ^ lo % 2 ^ n = x.toNat) : fld w lo n = x := by
  apply BitVec.eq_of_toNat_eq
  rw [fld, BitVec.toNat_ofNat, h]

theorem wordOf_cons (f a s : Nat) (l : List (Nat × Nat)) : wordOf f ((a, s) :: l) = wordOf (f + a * 2 ^ s) l := rfl

theorem wordOf_nil (f : Nat) : (wordOf f []).toNat = f % 2 ^ 32 := by
  rw [wordOf, List.foldl, BitVec.toNat_ofNat]

end Sys2Proof.Laws

namespace Sys2Proof.Laws.RoundTrip

/-- The word of the instruction, where it has one, decodes to the instruction. -/
def Statement (i : Instr) : Prop := ∀ w : W32, encode i = some w → decode w = .ok i

theorem nop : Statement .nop := by
  intro wd hy
  obtain rfl := Option.some.inj hy
  rfl

theorem bra (p : BitVec 3) (q : BitVec 1) (f : BitVec 20) : Statement (.bra p q f) := by
  intro wd hy
  have b_p := p.isLt
  have b_q := q.isLt
  have b_f := f.isLt
  have hw : wd.toNat = 0x01000000 + p.toNat * 2 ^ 21 + q.toNat * 2 ^ 20 + f.toNat * 2 ^ 0 := by
    unfold encode at hy
    injection hy with hy
    rw [← hy, wordOf_cons, wordOf_cons, wordOf_cons, wordOf_nil]; omega
  have ho : opcodeOf wd = 0x01 := by unfold opcodeOf; omega
  have f_p : fld wd 21 3 = p := fld_eq (by omega)
  have f_q : fld wd 20 1 = q := fld_eq (by omega)
  have f_f : fld wd 0 20 = f := fld_eq (by omega)
  clear hy
  simp [decode, ho, decodeControl, f_p, f_q, f_f]

theorem brc (p : BitVec 3) (q : BitVec 1) (f : BitVec 20) : Statement (.brc p q f) := by
  intro wd hy
  have b_p := p.isLt
  have b_q := q.isLt
  have b_f := f.isLt
  have hw : wd.toNat = 0x02000000 + p.toNat * 2 ^ 21 + q.toNat * 2 ^ 20 + f.toNat * 2 ^ 0 := by
    unfold encode at hy
    injection hy with hy
    rw [← hy, wordOf_cons, wordOf_cons, wordOf_cons, wordOf_nil]; omega
  have ho : opcodeOf wd = 0x02 := by unfold opcodeOf; omega
  have f_p : fld wd 21 3 = p := fld_eq (by omega)
  have f_q : fld wd 20 1 = q := fld_eq (by omega)
  have f_f : fld wd 0 20 = f := fld_eq (by omega)
  clear hy
  simp [decode, ho, decodeControl, f_p, f_q, f_f]

theorem skip (p : BitVec 3) (q : BitVec 1) (n : BitVec 3) : Statement (.skip p q n) := by
  intro wd hy
  have b_p := p.isLt
  have b_q := q.isLt
  have b_n := n.isLt
  have hw : wd.toNat = 0x03000000 + p.toNat * 2 ^ 21 + q.toNat * 2 ^ 20 + n.toNat * 2 ^ 0 := by
    unfold encode at hy
    injection hy with hy
    rw [← hy, wordOf_cons, wordOf_cons, wordOf_cons, wordOf_nil]; omega
  have ho : opcodeOf wd = 0x03 := by unfold opcodeOf; omega
  have r0 : rsv wd 3 17 = 0 := by unfold rsv; omega
  have f_p : fld wd 21 3 = p := fld_eq (by omega)
  have f_q : fld wd 20 1 = q := fld_eq (by omega)
  have f_n : fld wd 0 3 = n := fld_eq (by omega)
  clear hy
  simp [decode, ho, decodeControl, accept, r0, f_p, f_q, f_n]

theorem call (p : BitVec 3) (q : BitVec 1) (f : BitVec 20) : Statement (.call p q f) := by
  intro wd hy
  have b_p := p.isLt
  have b_q := q.isLt
  have b_f := f.isLt
  have hw : wd.toNat = 0x04000000 + p.toNat * 2 ^ 21 + q.toNat * 2 ^ 20 + f.toNat * 2 ^ 0 := by
    unfold encode at hy
    injection hy with hy
    rw [← hy, wordOf_cons, wordOf_cons, wordOf_cons, wordOf_nil]; omega
  have ho : opcodeOf wd = 0x04 := by unfold opcodeOf; omega
  have f_p : fld wd 21 3 = p := fld_eq (by omega)
  have f_q : fld wd 20 1 = q := fld_eq (by omega)
  have f_f : fld wd 0 20 = f := fld_eq (by omega)
  clear hy
  simp [decode, ho, decodeControl, f_p, f_q, f_f]

theorem ret (p : BitVec 3) (q : BitVec 1) (l : BitVec 6) : Statement (.ret p q l) := by
  intro wd hy
  have b_p := p.isLt
  have b_q := q.isLt
  have b_l := l.isLt
  have hw : wd.toNat = 0x05000000 + p.toNat * 2 ^ 21 + q.toNat * 2 ^ 20 + l.toNat * 2 ^ 0 := by
    unfold encode at hy
    injection hy with hy
    rw [← hy, wordOf_cons, wordOf_cons, wordOf_cons, wordOf_nil]; omega
  have ho : opcodeOf wd = 0x05 := by unfold opcodeOf; omega
  have r0 : rsv wd 6 14 = 0 := by unfold rsv; omega
  have f_p : fld wd 21 3 = p := fld_eq (by omega)
  have f_q : fld wd 20 1 = q := fld_eq (by omega)
  have f_l : fld wd 0 6 = l := fld_eq (by omega)
  clear hy
  simp [decode, ho, decodeControl, accept, r0, f_p, f_q, f_l]

theorem jmpi (p : BitVec 3) (q : BitVec 1) (b : BitVec 14) (n : BitVec 6) : Statement (.jmpi p q b n) := by
  intro wd hy
  have b_p := p.isLt
  have b_q := q.isLt
  have b_b := b.isLt
  have b_n := n.isLt
  have hw : wd.toNat = 0x06000000 + p.toNat * 2 ^ 21 + q.toNat * 2 ^ 20 + b.toNat * 2 ^ 6 + n.toNat * 2 ^ 0 := by
    unfold encode at hy
    injection hy with hy
    rw [← hy, wordOf_cons, wordOf_cons, wordOf_cons, wordOf_cons, wordOf_nil]; omega
  have ho : opcodeOf wd = 0x06 := by unfold opcodeOf; omega
  have f_p : fld wd 21 3 = p := fld_eq (by omega)
  have f_q : fld wd 20 1 = q := fld_eq (by omega)
  have f_b : fld wd 6 14 = b := fld_eq (by omega)
  have f_n : fld wd 0 6 = n := fld_eq (by omega)
  clear hy
  simp [decode, ho, decodeControl, f_p, f_q, f_b, f_n]

theorem exit (p : BitVec 3) (q : BitVec 1) : Statement (.exit p q) := by
  intro wd hy
  have b_p := p.isLt
  have b_q := q.isLt
  have hw : wd.toNat = 0x07000000 + p.toNat * 2 ^ 21 + q.toNat * 2 ^ 20 := by
    unfold encode at hy
    injection hy with hy
    rw [← hy, wordOf_cons, wordOf_cons, wordOf_nil]; omega
  have ho : opcodeOf wd = 0x07 := by unfold opcodeOf; omega
  have r0 : rsv wd 0 20 = 0 := by unfold rsv; omega
  have f_p : fld wd 21 3 = p := fld_eq (by omega)
  have f_q : fld wd 20 1 = q := fld_eq (by omega)
  clear hy
  simp [decode, ho, decodeControl, accept, r0, f_p, f_q]

theorem yield : Statement .yield := by
  intro wd hy
  obtain rfl := Option.some.inj hy
  rfl

theorem regang (m : BitVec 8) : Statement (.regang m) := by
  intro wd hy
  have b_m := m.isLt
  have hw : wd.toNat = 0x09000000 + m.toNat * 2 ^ 0 := by
    unfold encode at hy
    injection hy with hy
    rw [← hy, wordOf_cons, wordOf_nil]; omega
  have ho : opcodeOf wd = 0x09 := by unfold opcodeOf; omega
  have r0 : rsv wd 8 16 = 0 := by unfold rsv; omega
  have f_m : fld wd 0 8 = m := fld_eq (by omega)
  clear hy
  simp [decode, ho, decodeControl, accept, r0, f_m]

theorem loop (p : BitVec 3) (q : BitVec 1) (c : BitVec 6) (f : BitVec 14) : Statement (.loop p q c f) := by
  intro wd hy
  have b_p := p.isLt
  have b_q := q.isLt
  have b_c := c.isLt
  have b_f := f.isLt
  have hw : wd.toNat = 0x0A000000 + p.toNat * 2 ^ 21 + q.toNat * 2 ^ 20 + c.toNat * 2 ^ 14 + f.toNat * 2 ^ 0 := by
    unfold encode at hy
    injection hy with hy
    rw [← hy, wordOf_cons, wordOf_cons, wordOf_cons, wordOf_cons, wordOf_nil]; omega
  have ho : opcodeOf wd = 0x0A := by unfold opcodeOf; omega
  have f_p : fld wd 21 3 = p := fld_eq (by omega)
  have f_q : fld wd 20 1 = q := fld_eq (by omega)
  have f_c : fld wd 14 6 = c := fld_eq (by omega)
  have f_f : fld wd 0 14 = f := fld_eq (by omega)
  clear hy
  simp [decode, ho, decodeControl, f_p, f_q, f_c, f_f]

theorem plsw (p : BitVec 3) (a : BitVec 8) : Statement (.plsw p a) := by
  intro wd hy
  have b_p := p.isLt
  have b_a := a.isLt
  have hw : wd.toNat = 0x10000000 + p.toNat * 2 ^ 16 + a.toNat * 2 ^ 8 := by
    unfold encode at hy
    injection hy with hy
    rw [← hy, wordOf_cons, wordOf_cons, wordOf_nil]; omega
  have ho : opcodeOf wd = 0x10 := by unfold opcodeOf; omega
  have r0 : rsv wd 0 8 = 0 := by unfold rsv; omega
  have r1 : rsv wd 19 5 = 0 := by unfold rsv; omega
  have f_p : fld wd 16 3 = p := fld_eq (by omega)
  have f_a : fld wd 8 8 = a := fld_eq (by omega)
  clear hy
  simp [decode, ho, decodeControl, accept, r0, r1, f_p, f_a]

theorem plset (a : BitVec 8) : Statement (.plset a) := by
  intro wd hy
  have b_a := a.isLt
  have hw : wd.toNat = 0x11000000 + a.toNat * 2 ^ 8 := by
    unfold encode at hy
    injection hy with hy
    rw [← hy, wordOf_cons, wordOf_nil]; omega
  have ho : opcodeOf wd = 0x11 := by unfold opcodeOf; omega
  have r0 : rsv wd 0 8 = 0 := by unfold rsv; omega
  have r1 : rsv wd 16 8 = 0 := by unfold rsv; omega
  have f_a : fld wd 8 8 = a := fld_eq (by omega)
  clear hy
  simp [decode, ho, decodeControl, accept, r0, r1, f_a]

theorem plmsk (d : BitVec 3) (a : BitVec 8) : Statement (.plmsk d a) := by
  intro wd hy
  have b_d := d.isLt
  have b_a := a.isLt
  have hw : wd.toNat = 0x12000000 + d.toNat * 2 ^ 16 + a.toNat * 2 ^ 8 := by
    unfold encode at hy
    injection hy with hy
    rw [← hy, wordOf_cons, wordOf_cons, wordOf_nil]; omega
  have ho : opcodeOf wd = 0x12 := by unfold opcodeOf; omega
  have r0 : rsv wd 0 8 = 0 := by unfold rsv; omega
  have r1 : rsv wd 19 5 = 0 := by unfold rsv; omega
  have f_d : fld wd 16 3 = d := fld_eq (by omega)
  have f_a : fld wd 8 8 = a := fld_eq (by omega)
  clear hy
  simp [decode, ho, decodeControl, accept, r0, r1, f_d, f_a]

theorem plocc (d : BitVec 6) : Statement (.plocc d) := by
  intro wd hy
  have b_d := d.isLt
  have hw : wd.toNat = 0x13000000 + d.toNat * 2 ^ 16 := by
    unfold encode at hy
    injection hy with hy
    rw [← hy, wordOf_cons, wordOf_nil]; omega
  have ho : opcodeOf wd = 0x13 := by unfold opcodeOf; omega
  have r0 : rsv wd 0 16 = 0 := by unfold rsv; omega
  have r1 : rsv wd 22 2 = 0 := by unfold rsv; omega
  have f_d : fld wd 16 6 = d := fld_eq (by omega)
  clear hy
  simp [decode, ho, decodeControl, accept, r0, r1, f_d]

theorem racq : Statement .racq := by
  intro wd hy
  obtain rfl := Option.some.inj hy
  rfl

theorem rrel : Statement .rrel := by
  intro wd hy
  obtain rfl := Option.some.inj hy
  rfl

theorem rent (i : BitVec 16) : Statement (.rent i) := by
  intro wd hy
  have b_i := i.isLt
  have hw : wd.toNat = 0x16000000 + i.toNat * 2 ^ 0 := by
    unfold encode at hy
    injection hy with hy
    rw [← hy, wordOf_cons, wordOf_nil]; omega
  have ho : opcodeOf wd = 0x16 := by unfold opcodeOf; omega
  have r0 : rsv wd 16 8 = 0 := by unfold rsv; omega
  have f_i : fld wd 0 16 = i := fld_eq (by omega)
  clear hy
  simp [decode, ho, decodeControl, accept, r0, f_i]

theorem rlev (i : BitVec 16) : Statement (.rlev i) := by
  intro wd hy
  have b_i := i.isLt
  have hw : wd.toNat = 0x17000000 + i.toNat * 2 ^ 0 := by
    unfold encode at hy
    injection hy with hy
    rw [← hy, wordOf_cons, wordOf_nil]; omega
  have ho : opcodeOf wd = 0x17 := by unfold opcodeOf; omega
  have r0 : rsv wd 16 8 = 0 := by unfold rsv; omega
  have f_i : fld wd 0 16 = i := fld_eq (by omega)
  clear hy
  simp [decode, ho, decodeControl, accept, r0, f_i]

theorem pand (d : BitVec 7) (a : BitVec 8) (b : BitVec 8) : Statement (.pand d a b) := by
  intro wd hy
  have b_d := d.isLt
  have b_a := a.isLt
  have b_b := b.isLt
  have hw : wd.toNat = 0x18000000 + d.toNat * 2 ^ 16 + a.toNat * 2 ^ 8 + b.toNat * 2 ^ 0 := by
    unfold encode at hy
    injection hy with hy
    rw [← hy, wordOf_cons, wordOf_cons, wordOf_cons, wordOf_nil]; omega
  have ho : opcodeOf wd = 0x18 := by unfold opcodeOf; omega
  have r0 : rsv wd 23 1 = 0 := by unfold rsv; omega
  have f_d : fld wd 16 7 = d := fld_eq (by omega)
  have f_a : fld wd 8 8 = a := fld_eq (by omega)
  have f_b : fld wd 0 8 = b := fld_eq (by omega)
  clear hy
  simp [decode, ho, decodePredScalar, accept, r0, f_d, f_a, f_b]

theorem por (d : BitVec 7) (a : BitVec 8) (b : BitVec 8) : Statement (.por d a b) := by
  intro wd hy
  have b_d := d.isLt
  have b_a := a.isLt
  have b_b := b.isLt
  have hw : wd.toNat = 0x19000000 + d.toNat * 2 ^ 16 + a.toNat * 2 ^ 8 + b.toNat * 2 ^ 0 := by
    unfold encode at hy
    injection hy with hy
    rw [← hy, wordOf_cons, wordOf_cons, wordOf_cons, wordOf_nil]; omega
  have ho : opcodeOf wd = 0x19 := by unfold opcodeOf; omega
  have r0 : rsv wd 23 1 = 0 := by unfold rsv; omega
  have f_d : fld wd 16 7 = d := fld_eq (by omega)
  have f_a : fld wd 8 8 = a := fld_eq (by omega)
  have f_b : fld wd 0 8 = b := fld_eq (by omega)
  clear hy
  simp [decode, ho, decodePredScalar, accept, r0, f_d, f_a, f_b]

theorem pxor (d : BitVec 7) (a : BitVec 8) (b : BitVec 8) : Statement (.pxor d a b) := by
  intro wd hy
  have b_d := d.isLt
  have b_a := a.isLt
  have b_b := b.isLt
  have hw : wd.toNat = 0x1A000000 + d.toNat * 2 ^ 16 + a.toNat * 2 ^ 8 + b.toNat * 2 ^ 0 := by
    unfold encode at hy
    injection hy with hy
    rw [← hy, wordOf_cons, wordOf_cons, wordOf_cons, wordOf_nil]; omega
  have ho : opcodeOf wd = 0x1A := by unfold opcodeOf; omega
  have r0 : rsv wd 23 1 = 0 := by unfold rsv; omega
  have f_d : fld wd 16 7 = d := fld_eq (by omega)
  have f_a : fld wd 8 8 = a := fld_eq (by omega)
  have f_b : fld wd 0 8 = b := fld_eq (by omega)
  clear hy
  simp [decode, ho, decodePredScalar, accept, r0, f_d, f_a, f_b]

theorem pnot (d : BitVec 7) (a : BitVec 8) : Statement (.pnot d a) := by
  intro wd hy
  have b_d := d.isLt
  have b_a := a.isLt
  have hw : wd.toNat = 0x1B000000 + d.toNat * 2 ^ 16 + a.toNat * 2 ^ 8 := by
    unfold encode at hy
    injection hy with hy
    rw [← hy, wordOf_cons, wordOf_cons, wordOf_nil]; omega
  have ho : opcodeOf wd = 0x1B := by unfold opcodeOf; omega
  have r0 : rsv wd 0 8 = 0 := by unfold rsv; omega
  have r1 : rsv wd 23 1 = 0 := by unfold rsv; omega
  have f_d : fld wd 16 7 = d := fld_eq (by omega)
  have f_a : fld wd 8 8 = a := fld_eq (by omega)
  clear hy
  simp [decode, ho, decodePredScalar, accept, r0, r1, f_d, f_a]

theorem ptos (d : BitVec 7) (a : BitVec 8) : Statement (.ptos d a) := by
  intro wd hy
  have b_d := d.isLt
  have b_a := a.isLt
  have hw : wd.toNat = 0x1C000000 + d.toNat * 2 ^ 16 + a.toNat * 2 ^ 8 := by
    unfold encode at hy
    injection hy with hy
    rw [← hy, wordOf_cons, wordOf_cons, wordOf_nil]; omega
  have ho : opcodeOf wd = 0x1C := by unfold opcodeOf; omega
  have r0 : rsv wd 0 8 = 0 := by unfold rsv; omega
  have r1 : rsv wd 23 1 = 0 := by unfold rsv; omega
  have f_d : fld wd 16 7 = d := fld_eq (by omega)
  have f_a : fld wd 8 8 = a := fld_eq (by omega)
  clear hy
  simp [decode, ho, decodePredScalar, accept, r0, r1, f_d, f_a]

theorem pset (d : BitVec 7) (b : BitVec 8) : Statement (.pset d b) := by
  intro wd hy
  have b_d := d.isLt
  have b_b := b.isLt
  have hw : wd.toNat = 0x1D000000 + d.toNat * 2 ^ 16 + b.toNat * 2 ^ 0 := by
    unfold encode at hy
    injection hy with hy
    rw [← hy, wordOf_cons, wordOf_cons, wordOf_nil]; omega
  have ho : opcodeOf wd = 0x1D := by unfold opcodeOf; omega
  have r0 : rsv wd 8 8 = 0 := by unfold rsv; omega
  have r1 : rsv wd 23 1 = 0 := by unfold rsv; omega
  have f_d : fld wd 16 7 = d := fld_eq (by omega)
  have f_b : fld wd 0 8 = b := fld_eq (by omega)
  clear hy
  simp [decode, ho, decodePredScalar, accept, r0, r1, f_d, f_b]

theorem pany (d : BitVec 7) (a : BitVec 8) : Statement (.pany d a) := by
  intro wd hy
  have b_d := d.isLt
  have b_a := a.isLt
  have hw : wd.toNat = 0x1E000000 + d.toNat * 2 ^ 16 + a.toNat * 2 ^ 8 := by
    unfold encode at hy
    injection hy with hy
    rw [← hy, wordOf_cons, wordOf_cons, wordOf_nil]; omega
  have ho : opcodeOf wd = 0x1E := by unfold opcodeOf; omega
  have r0 : rsv wd 0 8 = 0 := by unfold rsv; omega
  have r1 : rsv wd 23 1 = 0 := by unfold rsv; omega
  have f_d : fld wd 16 7 = d := fld_eq (by omega)
  have f_a : fld wd 8 8 = a := fld_eq (by omega)
  clear hy
  simp [decode, ho, decodePredScalar, accept, r0, r1, f_d, f_a]

theorem pall (d : BitVec 7) (a : BitVec 8) : Statement (.pall d a) := by
  intro wd hy
  have b_d := d.isLt
  have b_a := a.isLt
  have hw : wd.toNat = 0x1F000000 + d.toNat * 2 ^ 16 + a.toNat * 2 ^ 8 := by
    unfold encode at hy
    injection hy with hy
    rw [← hy, wordOf_cons, wordOf_cons, wordOf_nil]; omega
  have ho : opcodeOf wd = 0x1F := by unfold opcodeOf; omega
  have r0 : rsv wd 0 8 = 0 := by unfold rsv; omega
  have r1 : rsv wd 23 1 = 0 := by unfold rsv; omega
  have f_d : fld wd 16 7 = d := fld_eq (by omega)
  have f_a : fld wd 8 8 = a := fld_eq (by omega)
  clear hy
  simp [decode, ho, decodePredScalar, accept, r0, r1, f_d, f_a]

theorem sadd (d : BitVec 6) (a : BitVec 8) (b : BitVec 8) : Statement (.sadd d a b) := by
  intro wd hy
  have b_d := d.isLt
  have b_a := a.isLt
  have b_b := b.isLt
  have hw : wd.toNat = 0x20000000 + d.toNat * 2 ^ 16 + a.toNat * 2 ^ 8 + b.toNat * 2 ^ 0 := by
    unfold encode at hy
    injection hy with hy
    rw [← hy, wordOf_cons, wordOf_cons, wordOf_cons, wordOf_nil]; omega
  have ho : opcodeOf wd = 0x20 := by unfold opcodeOf; omega
  have r0 : rsv wd 22 2 = 0 := by unfold rsv; omega
  have f_d : fld wd 16 6 = d := fld_eq (by omega)
  have f_a : fld wd 8 8 = a := fld_eq (by omega)
  have f_b : fld wd 0 8 = b := fld_eq (by omega)
  clear hy
  simp [decode, ho, decodePredScalar, accept, r0, f_d, f_a, f_b]

theorem ssub (d : BitVec 6) (a : BitVec 8) (b : BitVec 8) : Statement (.ssub d a b) := by
  intro wd hy
  have b_d := d.isLt
  have b_a := a.isLt
  have b_b := b.isLt
  have hw : wd.toNat = 0x21000000 + d.toNat * 2 ^ 16 + a.toNat * 2 ^ 8 + b.toNat * 2 ^ 0 := by
    unfold encode at hy
    injection hy with hy
    rw [← hy, wordOf_cons, wordOf_cons, wordOf_cons, wordOf_nil]; omega
  have ho : opcodeOf wd = 0x21 := by unfold opcodeOf; omega
  have r0 : rsv wd 22 2 = 0 := by unfold rsv; omega
  have f_d : fld wd 16 6 = d := fld_eq (by omega)
  have f_a : fld wd 8 8 = a := fld_eq (by omega)
  have f_b : fld wd 0 8 = b := fld_eq (by omega)
  clear hy
  simp [decode, ho, decodePredScalar, accept, r0, f_d, f_a, f_b]

theorem smul (d : BitVec 6) (a : BitVec 8) (b : BitVec 8) : Statement (.smul d a b) := by
  intro wd hy
  have b_d := d.isLt
  have b_a := a.isLt
  have b_b := b.isLt
  have hw : wd.toNat = 0x22000000 + d.toNat * 2 ^ 16 + a.toNat * 2 ^ 8 + b.toNat * 2 ^ 0 := by
    unfold encode at hy
    injection hy with hy
    rw [← hy, wordOf_cons, wordOf_cons, wordOf_cons, wordOf_nil]; omega
  have ho : opcodeOf wd = 0x22 := by unfold opcodeOf; omega
  have r0 : rsv wd 22 2 = 0 := by unfold rsv; omega
  have f_d : fld wd 16 6 = d := fld_eq (by omega)
  have f_a : fld wd 8 8 = a := fld_eq (by omega)
  have f_b : fld wd 0 8 = b := fld_eq (by omega)
  clear hy
  simp [decode, ho, decodePredScalar, accept, r0, f_d, f_a, f_b]

theorem smulh (m : BitVec 1) (d : BitVec 6) (a : BitVec 8) (b : BitVec 8) : Statement (.smulh m d a b) := by
  intro wd hy
  have b_m := m.isLt
  have b_d := d.isLt
  have b_a := a.isLt
  have b_b := b.isLt
  have hw : wd.toNat = 0x23000000 + m.toNat * 2 ^ 22 + d.toNat * 2 ^ 16 + a.toNat * 2 ^ 8 + b.toNat * 2 ^ 0 := by
    unfold encode at hy
    injection hy with hy
    rw [← hy, wordOf_cons, wordOf_cons, wordOf_cons, wordOf_cons, wordOf_nil]; omega
  have ho : opcodeOf wd = 0x23 := by unfold opcodeOf; omega
  have r0 : rsv wd 23 1 = 0 := by unfold rsv; omega
  have f_m : fld wd 22 1 = m := fld_eq (by omega)
  have f_d : fld wd 16 6 = d := fld_eq (by omega)
  have f_a : fld wd 8 8 = a := fld_eq (by omega)
  have f_b : fld wd 0 8 = b := fld_eq (by omega)
  clear hy
  simp [decode, ho, decodePredScalar, accept, r0, f_m, f_d, f_a, f_b]

theorem sdiv (m : BitVec 1) (d : BitVec 6) (a : BitVec 8) (b : BitVec 8) : Statement (.sdiv m d a b) := by
  intro wd hy
  have b_m := m.isLt
  have b_d := d.isLt
  have b_a := a.isLt
  have b_b := b.isLt
  have hw : wd.toNat = 0x24000000 + m.toNat * 2 ^ 22 + d.toNat * 2 ^ 16 + a.toNat * 2 ^ 8 + b.toNat * 2 ^ 0 := by
    unfold encode at hy
    injection hy with hy
    rw [← hy, wordOf_cons, wordOf_cons, wordOf_cons, wordOf_cons, wordOf_nil]; omega
  have ho : opcodeOf wd = 0x24 := by unfold opcodeOf; omega
  have r0 : rsv wd 23 1 = 0 := by unfold rsv; omega
  have f_m : fld wd 22 1 = m := fld_eq (by omega)
  have f_d : fld wd 16 6 = d := fld_eq (by omega)
  have f_a : fld wd 8 8 = a := fld_eq (by omega)
  have f_b : fld wd 0 8 = b := fld_eq (by omega)
  clear hy
  simp [decode, ho, decodePredScalar, accept, r0, f_m, f_d, f_a, f_b]

theorem srem (m : BitVec 1) (d : BitVec 6) (a : BitVec 8) (b : BitVec 8) : Statement (.srem m d a b) := by
  intro wd hy
  have b_m := m.isLt
  have b_d := d.isLt
  have b_a := a.isLt
  have b_b := b.isLt
  have hw : wd.toNat = 0x25000000 + m.toNat * 2 ^ 22 + d.toNat * 2 ^ 16 + a.toNat * 2 ^ 8 + b.toNat * 2 ^ 0 := by
    unfold encode at hy
    injection hy with hy
    rw [← hy, wordOf_cons, wordOf_cons, wordOf_cons, wordOf_cons, wordOf_nil]; omega
  have ho : opcodeOf wd = 0x25 := by unfold opcodeOf; omega
  have r0 : rsv wd 23 1 = 0 := by unfold rsv; omega
  have f_m : fld wd 22 1 = m := fld_eq (by omega)
  have f_d : fld wd 16 6 = d := fld_eq (by omega)
  have f_a : fld wd 8 8 = a := fld_eq (by omega)
  have f_b : fld wd 0 8 = b := fld_eq (by omega)
  clear hy
  simp [decode, ho, decodePredScalar, accept, r0, f_m, f_d, f_a, f_b]

theorem sand (d : BitVec 6) (a : BitVec 8) (b : BitVec 8) : Statement (.sand d a b) := by
  intro wd hy
  have b_d := d.isLt
  have b_a := a.isLt
  have b_b := b.isLt
  have hw : wd.toNat = 0x26000000 + d.toNat * 2 ^ 16 + a.toNat * 2 ^ 8 + b.toNat * 2 ^ 0 := by
    unfold encode at hy
    injection hy with hy
    rw [← hy, wordOf_cons, wordOf_cons, wordOf_cons, wordOf_nil]; omega
  have ho : opcodeOf wd = 0x26 := by unfold opcodeOf; omega
  have r0 : rsv wd 22 2 = 0 := by unfold rsv; omega
  have f_d : fld wd 16 6 = d := fld_eq (by omega)
  have f_a : fld wd 8 8 = a := fld_eq (by omega)
  have f_b : fld wd 0 8 = b := fld_eq (by omega)
  clear hy
  simp [decode, ho, decodePredScalar, accept, r0, f_d, f_a, f_b]

theorem sor (d : BitVec 6) (a : BitVec 8) (b : BitVec 8) : Statement (.sor d a b) := by
  intro wd hy
  have b_d := d.isLt
  have b_a := a.isLt
  have b_b := b.isLt
  have hw : wd.toNat = 0x27000000 + d.toNat * 2 ^ 16 + a.toNat * 2 ^ 8 + b.toNat * 2 ^ 0 := by
    unfold encode at hy
    injection hy with hy
    rw [← hy, wordOf_cons, wordOf_cons, wordOf_cons, wordOf_nil]; omega
  have ho : opcodeOf wd = 0x27 := by unfold opcodeOf; omega
  have r0 : rsv wd 22 2 = 0 := by unfold rsv; omega
  have f_d : fld wd 16 6 = d := fld_eq (by omega)
  have f_a : fld wd 8 8 = a := fld_eq (by omega)
  have f_b : fld wd 0 8 = b := fld_eq (by omega)
  clear hy
  simp [decode, ho, decodePredScalar, accept, r0, f_d, f_a, f_b]

theorem sxor (d : BitVec 6) (a : BitVec 8) (b : BitVec 8) : Statement (.sxor d a b) := by
  intro wd hy
  have b_d := d.isLt
  have b_a := a.isLt
  have b_b := b.isLt
  have hw : wd.toNat = 0x28000000 + d.toNat * 2 ^ 16 + a.toNat * 2 ^ 8 + b.toNat * 2 ^ 0 := by
    unfold encode at hy
    injection hy with hy
    rw [← hy, wordOf_cons, wordOf_cons, wordOf_cons, wordOf_nil]; omega
  have ho : opcodeOf wd = 0x28 := by unfold opcodeOf; omega
  have r0 : rsv wd 22 2 = 0 := by unfold rsv; omega
  have f_d : fld wd 16 6 = d := fld_eq (by omega)
  have f_a : fld wd 8 8 = a := fld_eq (by omega)
  have f_b : fld wd 0 8 = b := fld_eq (by omega)
  clear hy
  simp [decode, ho, decodePredScalar, accept, r0, f_d, f_a, f_b]

theorem sshl (d : BitVec 6) (a : BitVec 8) (b : BitVec 8) : Statement (.sshl d a b) := by
  intro wd hy
  have b_d := d.isLt
  have b_a := a.isLt
  have b_b := b.isLt
  have hw : wd.toNat = 0x29000000 + d.toNat * 2 ^ 16 + a.toNat * 2 ^ 8 + b.toNat * 2 ^ 0 := by
    unfold encode at hy
    injection hy with hy
    rw [← hy, wordOf_cons, wordOf_cons, wordOf_cons, wordOf_nil]; omega
  have ho : opcodeOf wd = 0x29 := by unfold opcodeOf; omega
  have r0 : rsv wd 22 2 = 0 := by unfold rsv; omega
  have f_d : fld wd 16 6 = d := fld_eq (by omega)
  have f_a : fld wd 8 8 = a := fld_eq (by omega)
  have f_b : fld wd 0 8 = b := fld_eq (by omega)
  clear hy
  simp [decode, ho, decodePredScalar, accept, r0, f_d, f_a, f_b]

theorem sshr (d : BitVec 6) (a : BitVec 8) (b : BitVec 8) : Statement (.sshr d a b) := by
  intro wd hy
  have b_d := d.isLt
  have b_a := a.isLt
  have b_b := b.isLt
  have hw : wd.toNat = 0x2A000000 + d.toNat * 2 ^ 16 + a.toNat * 2 ^ 8 + b.toNat * 2 ^ 0 := by
    unfold encode at hy
    injection hy with hy
    rw [← hy, wordOf_cons, wordOf_cons, wordOf_cons, wordOf_nil]; omega
  have ho : opcodeOf wd = 0x2A := by unfold opcodeOf; omega
  have r0 : rsv wd 22 2 = 0 := by unfold rsv; omega
  have f_d : fld wd 16 6 = d := fld_eq (by omega)
  have f_a : fld wd 8 8 = a := fld_eq (by omega)
  have f_b : fld wd 0 8 = b := fld_eq (by omega)
  clear hy
  simp [decode, ho, decodePredScalar, accept, r0, f_d, f_a, f_b]

theorem ssra (d : BitVec 6) (a : BitVec 8) (b : BitVec 8) : Statement (.ssra d a b) := by
  intro wd hy
  have b_d := d.isLt
  have b_a := a.isLt
  have b_b := b.isLt
  have hw : wd.toNat = 0x2B000000 + d.toNat * 2 ^ 16 + a.toNat * 2 ^ 8 + b.toNat * 2 ^ 0 := by
    unfold encode at hy
    injection hy with hy
    rw [← hy, wordOf_cons, wordOf_cons, wordOf_cons, wordOf_nil]; omega
  have ho : opcodeOf wd = 0x2B := by unfold opcodeOf; omega
  have r0 : rsv wd 22 2 = 0 := by unfold rsv; omega
  have f_d : fld wd 16 6 = d := fld_eq (by omega)
  have f_a : fld wd 8 8 = a := fld_eq (by omega)
  have f_b : fld wd 0 8 = b := fld_eq (by omega)
  clear hy
  simp [decode, ho, decodePredScalar, accept, r0, f_d, f_a, f_b]

theorem smin (m : BitVec 1) (d : BitVec 6) (a : BitVec 8) (b : BitVec 8) : Statement (.smin m d a b) := by
  intro wd hy
  have b_m := m.isLt
  have b_d := d.isLt
  have b_a := a.isLt
  have b_b := b.isLt
  have hw : wd.toNat = 0x2C000000 + m.toNat * 2 ^ 22 + d.toNat * 2 ^ 16 + a.toNat * 2 ^ 8 + b.toNat * 2 ^ 0 := by
    unfold encode at hy
    injection hy with hy
    rw [← hy, wordOf_cons, wordOf_cons, wordOf_cons, wordOf_cons, wordOf_nil]; omega
  have ho : opcodeOf wd = 0x2C := by unfold opcodeOf; omega
  have r0 : rsv wd 23 1 = 0 := by unfold rsv; omega
  have f_m : fld wd 22 1 = m := fld_eq (by omega)
  have f_d : fld wd 16 6 = d := fld_eq (by omega)
  have f_a : fld wd 8 8 = a := fld_eq (by omega)
  have f_b : fld wd 0 8 = b := fld_eq (by omega)
  clear hy
  simp [decode, ho, decodePredScalar, accept, r0, f_m, f_d, f_a, f_b]

theorem smax (m : BitVec 1) (d : BitVec 6) (a : BitVec 8) (b : BitVec 8) : Statement (.smax m d a b) := by
  intro wd hy
  have b_m := m.isLt
  have b_d := d.isLt
  have b_a := a.isLt
  have b_b := b.isLt
  have hw : wd.toNat = 0x2D000000 + m.toNat * 2 ^ 22 + d.toNat * 2 ^ 16 + a.toNat * 2 ^ 8 + b.toNat * 2 ^ 0 := by
    unfold encode at hy
    injection hy with hy
    rw [← hy, wordOf_cons, wordOf_cons, wordOf_cons, wordOf_cons, wordOf_nil]; omega
  have ho : opcodeOf wd = 0x2D := by unfold opcodeOf; omega
  have r0 : rsv wd 23 1 = 0 := by unfold rsv; omega
  have f_m : fld wd 22 1 = m := fld_eq (by omega)
  have f_d : fld wd 16 6 = d := fld_eq (by omega)
  have f_a : fld wd 8 8 = a := fld_eq (by omega)
  have f_b : fld wd 0 8 = b := fld_eq (by omega)
  clear hy
  simp [decode, ho, decodePredScalar, accept, r0, f_m, f_d, f_a, f_b]

theorem scmp (m : BitVec 1) (d : BitVec 6) (a : BitVec 8) (b : BitVec 8) : Statement (.scmp m d a b) := by
  intro wd hy
  have b_m := m.isLt
  have b_d := d.isLt
  have b_a := a.isLt
  have b_b := b.isLt
  have hw : wd.toNat = 0x2E000000 + m.toNat * 2 ^ 22 + d.toNat * 2 ^ 16 + a.toNat * 2 ^ 8 + b.toNat * 2 ^ 0 := by
    unfold encode at hy
    injection hy with hy
    rw [← hy, wordOf_cons, wordOf_cons, wordOf_cons, wordOf_cons, wordOf_nil]; omega
  have ho : opcodeOf wd = 0x2E := by unfold opcodeOf; omega
  have r0 : rsv wd 23 1 = 0 := by unfold rsv; omega
  have f_m : fld wd 22 1 = m := fld_eq (by omega)
  have f_d : fld wd 16 6 = d := fld_eq (by omega)
  have f_a : fld wd 8 8 = a := fld_eq (by omega)
  have f_b : fld wd 0 8 = b := fld_eq (by omega)
  clear hy
  simp [decode, ho, decodePredScalar, accept, r0, f_m, f_d, f_a, f_b]

theorem ssel (d : BitVec 6) (a : BitVec 8) (b : BitVec 8) : Statement (.ssel d a b) := by
  intro wd hy
  have b_d := d.isLt
  have b_a := a.isLt
  have b_b := b.isLt
  have hw : wd.toNat = 0x2F000000 + d.toNat * 2 ^ 16 + a.toNat * 2 ^ 8 + b.toNat * 2 ^ 0 := by
    unfold encode at hy
    injection hy with hy
    rw [← hy, wordOf_cons, wordOf_cons, wordOf_cons, wordOf_nil]; omega
  have ho : opcodeOf wd = 0x2F := by unfold opcodeOf; omega
  have r0 : rsv wd 22 2 = 0 := by unfold rsv; omega
  have f_d : fld wd 16 6 = d := fld_eq (by omega)
  have f_a : fld wd 8 8 = a := fld_eq (by omega)
  have f_b : fld wd 0 8 = b := fld_eq (by omega)
  clear hy
  simp [decode, ho, decodePredScalar, accept, r0, f_d, f_a, f_b]

theorem smov (d : BitVec 6) (b : BitVec 8) : Statement (.smov d b) := by
  intro wd hy
  have b_d := d.isLt
  have b_b := b.isLt
  have hw : wd.toNat = 0x30000000 + d.toNat * 2 ^ 16 + b.toNat * 2 ^ 0 := by
    unfold encode at hy
    injection hy with hy
    rw [← hy, wordOf_cons, wordOf_cons, wordOf_nil]; omega
  have ho : opcodeOf wd = 0x30 := by unfold opcodeOf; omega
  have r0 : rsv wd 8 8 = 0 := by unfold rsv; omega
  have r1 : rsv wd 22 2 = 0 := by unfold rsv; omega
  have f_d : fld wd 16 6 = d := fld_eq (by omega)
  have f_b : fld wd 0 8 = b := fld_eq (by omega)
  clear hy
  simp [decode, ho, decodePredScalar, accept, r0, r1, f_d, f_b]

theorem smovi (d : BitVec 6) (h : BitVec 2) (i : BitVec 16) : Statement (.smovi d h i) := by
  intro wd hy
  have b_d := d.isLt
  have b_h := h.isLt
  have b_i := i.isLt
  have hw : wd.toNat = 0x31000000 + d.toNat * 2 ^ 18 + h.toNat * 2 ^ 16 + i.toNat * 2 ^ 0 := by
    unfold encode at hy
    injection hy with hy
    rw [← hy, wordOf_cons, wordOf_cons, wordOf_cons, wordOf_nil]; omega
  have ho : opcodeOf wd = 0x31 := by unfold opcodeOf; omega
  have f_d : fld wd 18 6 = d := fld_eq (by omega)
  have f_h : fld wd 16 2 = h := fld_eq (by omega)
  have f_i : fld wd 0 16 = i := fld_eq (by omega)
  clear hy
  simp [decode, ho, decodePredScalar, f_d, f_h, f_i]

theorem slea (m : BitVec 2) (d : BitVec 6) (a : BitVec 8) (b : BitVec 8) : Statement (.slea m d a b) := by
  intro wd hy
  have b_m := m.isLt
  have b_d := d.isLt
  have b_a := a.isLt
  have b_b := b.isLt
  have hw : wd.toNat = 0x32000000 + m.toNat * 2 ^ 22 + d.toNat * 2 ^ 16 + a.toNat * 2 ^ 8 + b.toNat * 2 ^ 0 := by
    unfold encode at hy
    injection hy with hy
    rw [← hy, wordOf_cons, wordOf_cons, wordOf_cons, wordOf_cons, wordOf_nil]; omega
  have ho : opcodeOf wd = 0x32 := by unfold opcodeOf; omega
  have f_m : fld wd 22 2 = m := fld_eq (by omega)
  have f_d : fld wd 16 6 = d := fld_eq (by omega)
  have f_a : fld wd 8 8 = a := fld_eq (by omega)
  have f_b : fld wd 0 8 = b := fld_eq (by omega)
  clear hy
  simp [decode, ho, decodePredScalar, f_m, f_d, f_a, f_b]

theorem sclz (d : BitVec 6) (a : BitVec 8) : Statement (.sclz d a) := by
  intro wd hy
  have b_d := d.isLt
  have b_a := a.isLt
  have hw : wd.toNat = 0x33000000 + d.toNat * 2 ^ 16 + a.toNat * 2 ^ 8 := by
    unfold encode at hy
    injection hy with hy
    rw [← hy, wordOf_cons, wordOf_cons, wordOf_nil]; omega
  have ho : opcodeOf wd = 0x33 := by unfold opcodeOf; omega
  have r0 : rsv wd 0 8 = 0 := by unfold rsv; omega
  have r1 : rsv wd 22 2 = 0 := by unfold rsv; omega
  have f_d : fld wd 16 6 = d := fld_eq (by omega)
  have f_a : fld wd 8 8 = a := fld_eq (by omega)
  clear hy
  simp [decode, ho, decodePredScalar, accept, r0, r1, f_d, f_a]

theorem spop (d : BitVec 6) (a : BitVec 8) : Statement (.spop d a) := by
  intro wd hy
  have b_d := d.isLt
  have b_a := a.isLt
  have hw : wd.toNat = 0x34000000 + d.toNat * 2 ^ 16 + a.toNat * 2 ^ 8 := by
    unfold encode at hy
    injection hy with hy
    rw [← hy, wordOf_cons, wordOf_cons, wordOf_nil]; omega
  have ho : opcodeOf wd = 0x34 := by unfold opcodeOf; omega
  have r0 : rsv wd 0 8 = 0 := by unfold rsv; omega
  have r1 : rsv wd 22 2 = 0 := by unfold rsv; omega
  have f_d : fld wd 16 6 = d := fld_eq (by omega)
  have f_a : fld wd 8 8 = a := fld_eq (by omega)
  clear hy
  simp [decode, ho, decodePredScalar, accept, r0, r1, f_d, f_a]

theorem sbfe (m : BitVec 1) (d : BitVec 6) (a : BitVec 8) (b : BitVec 8) : Statement (.sbfe m d a b) := by
  intro wd hy
  have b_m := m.isLt
  have b_d := d.isLt
  have b_a := a.isLt
  have b_b := b.isLt
  have hw : wd.toNat = 0x35000000 + m.toNat * 2 ^ 22 + d.toNat * 2 ^ 16 + a.toNat * 2 ^ 8 + b.toNat * 2 ^ 0 := by
    unfold encode at hy
    injection hy with hy
    rw [← hy, wordOf_cons, wordOf_cons, wordOf_cons, wordOf_cons, wordOf_nil]; omega
  have ho : opcodeOf wd = 0x35 := by unfold opcodeOf; omega
  have r0 : rsv wd 23 1 = 0 := by unfold rsv; omega
  have f_m : fld wd 22 1 = m := fld_eq (by omega)
  have f_d : fld wd 16 6 = d := fld_eq (by omega)
  have f_a : fld wd 8 8 = a := fld_eq (by omega)
  have f_b : fld wd 0 8 = b := fld_eq (by omega)
  clear hy
  simp [decode, ho, decodePredScalar, accept, r0, f_m, f_d, f_a, f_b]

theorem vadd (n : BitVec 1) (d : BitVec 7) (a : BitVec 8) (b : BitVec 8) : Statement (.vadd n d a b) := by
  intro wd hy
  have b_n := n.isLt
  have b_d := d.isLt
  have b_a := a.isLt
  have b_b := b.isLt
  have hw : wd.toNat = 0x40000000 + n.toNat * 2 ^ 23 + d.toNat * 2 ^ 16 + a.toNat * 2 ^ 8 + b.toNat * 2 ^ 0 := by
    unfold encode at hy
    injection hy with hy
    rw [← hy, wordOf_cons, wordOf_cons, wordOf_cons, wordOf_cons, wordOf_nil]; omega
  have ho : opcodeOf wd = 0x40 := by unfold opcodeOf; omega
  have f_n : fld wd 23 1 = n := fld_eq (by omega)
  have f_d : fld wd 16 7 = d := fld_eq (by omega)
  have f_a : fld wd 8 8 = a := fld_eq (by omega)
  have f_b : fld wd 0 8 = b := fld_eq (by omega)
  clear hy
  simp [decode, ho, decodeVecInt, f_n, f_d, f_a, f_b]

theorem vsub (n : BitVec 1) (d : BitVec 7) (a : BitVec 8) (b : BitVec 8) : Statement (.vsub n d a b) := by
  intro wd hy
  have b_n := n.isLt
  have b_d := d.isLt
  have b_a := a.isLt
  have b_b := b.isLt
  have hw : wd.toNat = 0x41000000 + n.toNat * 2 ^ 23 + d.toNat * 2 ^ 16 + a.toNat * 2 ^ 8 + b.toNat * 2 ^ 0 := by
    unfold encode at hy
    injection hy with hy
    rw [← hy, wordOf_cons, wordOf_cons, wordOf_cons, wordOf_cons, wordOf_nil]; omega
  have ho : opcodeOf wd = 0x41 := by unfold opcodeOf; omega
  have f_n : fld wd 23 1 = n := fld_eq (by omega)
  have f_d : fld wd 16 7 = d := fld_eq (by omega)
  have f_a : fld wd 8 8 = a := fld_eq (by omega)
  have f_b : fld wd 0 8 = b := fld_eq (by omega)
  clear hy
  simp [decode, ho, decodeVecInt, f_n, f_d, f_a, f_b]

theorem vmul (n : BitVec 1) (d : BitVec 7) (a : BitVec 8) (b : BitVec 8) : Statement (.vmul n d a b) := by
  intro wd hy
  have b_n := n.isLt
  have b_d := d.isLt
  have b_a := a.isLt
  have b_b := b.isLt
  have hw : wd.toNat = 0x42000000 + n.toNat * 2 ^ 23 + d.toNat * 2 ^ 16 + a.toNat * 2 ^ 8 + b.toNat * 2 ^ 0 := by
    unfold encode at hy
    injection hy with hy
    rw [← hy, wordOf_cons, wordOf_cons, wordOf_cons, wordOf_cons, wordOf_nil]; omega
  have ho : opcodeOf wd = 0x42 := by unfold opcodeOf; omega
  have f_n : fld wd 23 1 = n := fld_eq (by omega)
  have f_d : fld wd 16 7 = d := fld_eq (by omega)
  have f_a : fld wd 8 8 = a := fld_eq (by omega)
  have f_b : fld wd 0 8 = b := fld_eq (by omega)
  clear hy
  simp [decode, ho, decodeVecInt, f_n, f_d, f_a, f_b]

theorem vmulh (n : BitVec 1) (d : BitVec 7) (a : BitVec 8) (b : BitVec 8) : Statement (.vmulh n d a b) := by
  intro wd hy
  have b_n := n.isLt
  have b_d := d.isLt
  have b_a := a.isLt
  have b_b := b.isLt
  have hw : wd.toNat = 0x43000000 + n.toNat * 2 ^ 23 + d.toNat * 2 ^ 16 + a.toNat * 2 ^ 8 + b.toNat * 2 ^ 0 := by
    unfold encode at hy
    injection hy with hy
    rw [← hy, wordOf_cons, wordOf_cons, wordOf_cons, wordOf_cons, wordOf_nil]; omega
  have ho : opcodeOf wd = 0x43 := by unfold opcodeOf; omega
  have f_n : fld wd 23 1 = n := fld_eq (by omega)
  have f_d : fld wd 16 7 = d := fld_eq (by omega)
  have f_a : fld wd 8 8 = a := fld_eq (by omega)
  have f_b : fld wd 0 8 = b := fld_eq (by omega)
  clear hy
  simp [decode, ho, decodeVecInt, f_n, f_d, f_a, f_b]

theorem vmad (n : BitVec 1) (d : BitVec 7) (a : BitVec 8) (b : BitVec 8) : Statement (.vmad n d a b) := by
  intro wd hy
  have b_n := n.isLt
  have b_d := d.isLt
  have b_a := a.isLt
  have b_b := b.isLt
  have hw : wd.toNat = 0x44000000 + n.toNat * 2 ^ 23 + d.toNat * 2 ^ 16 + a.toNat * 2 ^ 8 + b.toNat * 2 ^ 0 := by
    unfold encode at hy
    injection hy with hy
    rw [← hy, wordOf_cons, wordOf_cons, wordOf_cons, wordOf_cons, wordOf_nil]; omega
  have ho : opcodeOf wd = 0x44 := by unfold opcodeOf; omega
  have f_n : fld wd 23 1 = n := fld_eq (by omega)
  have f_d : fld wd 16 7 = d := fld_eq (by omega)
  have f_a : fld wd 8 8 = a := fld_eq (by omega)
  have f_b : fld wd 0 8 = b := fld_eq (by omega)
  clear hy
  simp [decode, ho, decodeVecInt, f_n, f_d, f_a, f_b]

theorem vand (n : BitVec 1) (d : BitVec 7) (a : BitVec 8) (b : BitVec 8) : Statement (.vand n d a b) := by
  intro wd hy
  have b_n := n.isLt
  have b_d := d.isLt
  have b_a := a.isLt
  have b_b := b.isLt
  have hw : wd.toNat = 0x45000000 + n.toNat * 2 ^ 23 + d.toNat * 2 ^ 16 + a.toNat * 2 ^ 8 + b.toNat * 2 ^ 0 := by
    unfold encode at hy
    injection hy with hy
    rw [← hy, wordOf_cons, wordOf_cons, wordOf_cons, wordOf_cons, wordOf_nil]; omega
  have ho : opcodeOf wd = 0x45 := by unfold opcodeOf; omega
  have f_n : fld wd 23 1 = n := fld_eq (by omega)
  have f_d : fld wd 16 7 = d := fld_eq (by omega)
  have f_a : fld wd 8 8 = a := fld_eq (by omega)
  have f_b : fld wd 0 8 = b := fld_eq (by omega)
  clear hy
  simp [decode, ho, decodeVecInt, f_n, f_d, f_a, f_b]

theorem vor (n : BitVec 1) (d : BitVec 7) (a : BitVec 8) (b : BitVec 8) : Statement (.vor n d a b) := by
  intro wd hy
  have b_n := n.isLt
  have b_d := d.isLt
  have b_a := a.isLt
  have b_b := b.isLt
  have hw : wd.toNat = 0x46000000 + n.toNat * 2 ^ 23 + d.toNat * 2 ^ 16 + a.toNat * 2 ^ 8 + b.toNat * 2 ^ 0 := by
    unfold encode at hy
    injection hy with hy
    rw [← hy, wordOf_cons, wordOf_cons, wordOf_cons, wordOf_cons, wordOf_nil]; omega
  have ho : opcodeOf wd = 0x46 := by unfold opcodeOf; omega
  have f_n : fld wd 23 1 = n := fld_eq (by omega)
  have f_d : fld wd 16 7 = d := fld_eq (by omega)
  have f_a : fld wd 8 8 = a := fld_eq (by omega)
  have f_b : fld wd 0 8 = b := fld_eq (by omega)
  clear hy
  simp [decode, ho, decodeVecInt, f_n, f_d, f_a, f_b]

theorem vxor (n : BitVec 1) (d : BitVec 7) (a : BitVec 8) (b : BitVec 8) : Statement (.vxor n d a b) := by
  intro wd hy
  have b_n := n.isLt
  have b_d := d.isLt
  have b_a := a.isLt
  have b_b := b.isLt
  have hw : wd.toNat = 0x47000000 + n.toNat * 2 ^ 23 + d.toNat * 2 ^ 16 + a.toNat * 2 ^ 8 + b.toNat * 2 ^ 0 := by
    unfold encode at hy
    injection hy with hy
    rw [← hy, wordOf_cons, wordOf_cons, wordOf_cons, wordOf_cons, wordOf_nil]; omega
  have ho : opcodeOf wd = 0x47 := by unfold opcodeOf; omega
  have f_n : fld wd 23 1 = n := fld_eq (by omega)
  have f_d : fld wd 16 7 = d := fld_eq (by omega)
  have f_a : fld wd 8 8 = a := fld_eq (by omega)
  have f_b : fld wd 0 8 = b := fld_eq (by omega)
  clear hy
  simp [decode, ho, decodeVecInt, f_n, f_d, f_a, f_b]

theorem vshl (n : BitVec 1) (d : BitVec 7) (a : BitVec 8) (b : BitVec 8) : Statement (.vshl n d a b) := by
  intro wd hy
  have b_n := n.isLt
  have b_d := d.isLt
  have b_a := a.isLt
  have b_b := b.isLt
  have hw : wd.toNat = 0x48000000 + n.toNat * 2 ^ 23 + d.toNat * 2 ^ 16 + a.toNat * 2 ^ 8 + b.toNat * 2 ^ 0 := by
    unfold encode at hy
    injection hy with hy
    rw [← hy, wordOf_cons, wordOf_cons, wordOf_cons, wordOf_cons, wordOf_nil]; omega
  have ho : opcodeOf wd = 0x48 := by unfold opcodeOf; omega
  have f_n : fld wd 23 1 = n := fld_eq (by omega)
  have f_d : fld wd 16 7 = d := fld_eq (by omega)
  have f_a : fld wd 8 8 = a := fld_eq (by omega)
  have f_b : fld wd 0 8 = b := fld_eq (by omega)
  clear hy
  simp [decode, ho, decodeVecInt, f_n, f_d, f_a, f_b]

theorem vshr (n : BitVec 1) (d : BitVec 7) (a : BitVec 8) (b : BitVec 8) : Statement (.vshr n d a b) := by
  intro wd hy
  have b_n := n.isLt
  have b_d := d.isLt
  have b_a := a.isLt
  have b_b := b.isLt
  have hw : wd.toNat = 0x49000000 + n.toNat * 2 ^ 23 + d.toNat * 2 ^ 16 + a.toNat * 2 ^ 8 + b.toNat * 2 ^ 0 := by
    unfold encode at hy
    injection hy with hy
    rw [← hy, wordOf_cons, wordOf_cons, wordOf_cons, wordOf_cons, wordOf_nil]; omega
  have ho : opcodeOf wd = 0x49 := by unfold opcodeOf; omega
  have f_n : fld wd 23 1 = n := fld_eq (by omega)
  have f_d : fld wd 16 7 = d := fld_eq (by omega)
  have f_a : fld wd 8 8 = a := fld_eq (by omega)
  have f_b : fld wd 0 8 = b := fld_eq (by omega)
  clear hy
  simp [decode, ho, decodeVecInt, f_n, f_d, f_a, f_b]

theorem vsra (n : BitVec 1) (d : BitVec 7) (a : BitVec 8) (b : BitVec 8) : Statement (.vsra n d a b) := by
  intro wd hy
  have b_n := n.isLt
  have b_d := d.isLt
  have b_a := a.isLt
  have b_b := b.isLt
  have hw : wd.toNat = 0x4A000000 + n.toNat * 2 ^ 23 + d.toNat * 2 ^ 16 + a.toNat * 2 ^ 8 + b.toNat * 2 ^ 0 := by
    unfold encode at hy
    injection hy with hy
    rw [← hy, wordOf_cons, wordOf_cons, wordOf_cons, wordOf_cons, wordOf_nil]; omega
  have ho : opcodeOf wd = 0x4A := by unfold opcodeOf; omega
  have f_n : fld wd 23 1 = n := fld_eq (by omega)
  have f_d : fld wd 16 7 = d := fld_eq (by omega)
  have f_a : fld wd 8 8 = a := fld_eq (by omega)
  have f_b : fld wd 0 8 = b := fld_eq (by omega)
  clear hy
  simp [decode, ho, decodeVecInt, f_n, f_d, f_a, f_b]

theorem vmin (n : BitVec 1) (d : BitVec 7) (a : BitVec 8) (b : BitVec 8) : Statement (.vmin n d a b) := by
  intro wd hy
  have b_n := n.isLt
  have b_d := d.isLt
  have b_a := a.isLt
  have b_b := b.isLt
  have hw : wd.toNat = 0x4B000000 + n.toNat * 2 ^ 23 + d.toNat * 2 ^ 16 + a.toNat * 2 ^ 8 + b.toNat * 2 ^ 0 := by
    unfold encode at hy
    injection hy with hy
    rw [← hy, wordOf_cons, wordOf_cons, wordOf_cons, wordOf_cons, wordOf_nil]; omega
  have ho : opcodeOf wd = 0x4B := by unfold opcodeOf; omega
  have f_n : fld wd 23 1 = n := fld_eq (by omega)
  have f_d : fld wd 16 7 = d := fld_eq (by omega)
  have f_a : fld wd 8 8 = a := fld_eq (by omega)
  have f_b : fld wd 0 8 = b := fld_eq (by omega)
  clear hy
  simp [decode, ho, decodeVecInt, f_n, f_d, f_a, f_b]

theorem vmax (n : BitVec 1) (d : BitVec 7) (a : BitVec 8) (b : BitVec 8) : Statement (.vmax n d a b) := by
  intro wd hy
  have b_n := n.isLt
  have b_d := d.isLt
  have b_a := a.isLt
  have b_b := b.isLt
  have hw : wd.toNat = 0x4C000000 + n.toNat * 2 ^ 23 + d.toNat * 2 ^ 16 + a.toNat * 2 ^ 8 + b.toNat * 2 ^ 0 := by
    unfold encode at hy
    injection hy with hy
    rw [← hy, wordOf_cons, wordOf_cons, wordOf_cons, wordOf_cons, wordOf_nil]; omega
  have ho : opcodeOf wd = 0x4C := by unfold opcodeOf; omega
  have f_n : fld wd 23 1 = n := fld_eq (by omega)
  have f_d : fld wd 16 7 = d := fld_eq (by omega)
  have f_a : fld wd 8 8 = a := fld_eq (by omega)
  have f_b : fld wd 0 8 = b := fld_eq (by omega)
  clear hy
  simp [decode, ho, decodeVecInt, f_n, f_d, f_a, f_b]

theorem vabsd (n : BitVec 1) (d : BitVec 7) (a : BitVec 8) (b : BitVec 8) : Statement (.vabsd n d a b) := by
  intro wd hy
  have b_n := n.isLt
  have b_d := d.isLt
  have b_a := a.isLt
  have b_b := b.isLt
  have hw : wd.toNat = 0x4D000000 + n.toNat * 2 ^ 23 + d.toNat * 2 ^ 16 + a.toNat * 2 ^ 8 + b.toNat * 2 ^ 0 := by
    unfold encode at hy
    injection hy with hy
    rw [← hy, wordOf_cons, wordOf_cons, wordOf_cons, wordOf_cons, wordOf_nil]; omega
  have ho : opcodeOf wd = 0x4D := by unfold opcodeOf; omega
  have f_n : fld wd 23 1 = n := fld_eq (by omega)
  have f_d : fld wd 16 7 = d := fld_eq (by omega)
  have f_a : fld wd 8 8 = a := fld_eq (by omega)
  have f_b : fld wd 0 8 = b := fld_eq (by omega)
  clear hy
  simp [decode, ho, decodeVecInt, f_n, f_d, f_a, f_b]

theorem vclz (n : BitVec 1) (d : BitVec 7) (a : BitVec 8) : Statement (.vclz n d a) := by
  intro wd hy
  have b_n := n.isLt
  have b_d := d.isLt
  have b_a := a.isLt
  have hw : wd.toNat = 0x4E000000 + n.toNat * 2 ^ 23 + d.toNat * 2 ^ 16 + a.toNat * 2 ^ 8 := by
    unfold encode at hy
    injection hy with hy
    rw [← hy, wordOf_cons, wordOf_cons, wordOf_cons, wordOf_nil]; omega
  have ho : opcodeOf wd = 0x4E := by unfold opcodeOf; omega
  have r0 : rsv wd 0 8 = 0 := by unfold rsv; omega
  have f_n : fld wd 23 1 = n := fld_eq (by omega)
  have f_d : fld wd 16 7 = d := fld_eq (by omega)
  have f_a : fld wd 8 8 = a := fld_eq (by omega)
  clear hy
  simp [decode, ho, decodeVecInt, accept, r0, f_n, f_d, f_a]

theorem vpop (n : BitVec 1) (d : BitVec 7) (a : BitVec 8) : Statement (.vpop n d a) := by
  intro wd hy
  have b_n := n.isLt
  have b_d := d.isLt
  have b_a := a.isLt
  have hw : wd.toNat = 0x4F000000 + n.toNat * 2 ^ 23 + d.toNat * 2 ^ 16 + a.toNat * 2 ^ 8 := by
    unfold encode at hy
    injection hy with hy
    rw [← hy, wordOf_cons, wordOf_cons, wordOf_cons, wordOf_nil]; omega
  have ho : opcodeOf wd = 0x4F := by unfold opcodeOf; omega
  have r0 : rsv wd 0 8 = 0 := by unfold rsv; omega
  have f_n : fld wd 23 1 = n := fld_eq (by omega)
  have f_d : fld wd 16 7 = d := fld_eq (by omega)
  have f_a : fld wd 8 8 = a := fld_eq (by omega)
  clear hy
  simp [decode, ho, decodeVecInt, accept, r0, f_n, f_d, f_a]

theorem vbfe (n : BitVec 1) (d : BitVec 7) (a : BitVec 8) (b : BitVec 8) : Statement (.vbfe n d a b) := by
  intro wd hy
  have b_n := n.isLt
  have b_d := d.isLt
  have b_a := a.isLt
  have b_b := b.isLt
  have hw : wd.toNat = 0x50000000 + n.toNat * 2 ^ 23 + d.toNat * 2 ^ 16 + a.toNat * 2 ^ 8 + b.toNat * 2 ^ 0 := by
    unfold encode at hy
    injection hy with hy
    rw [← hy, wordOf_cons, wordOf_cons, wordOf_cons, wordOf_cons, wordOf_nil]; omega
  have ho : opcodeOf wd = 0x50 := by unfold opcodeOf; omega
  have f_n : fld wd 23 1 = n := fld_eq (by omega)
  have f_d : fld wd 16 7 = d := fld_eq (by omega)
  have f_a : fld wd 8 8 = a := fld_eq (by omega)
  have f_b : fld wd 0 8 = b := fld_eq (by omega)
  clear hy
  simp [decode, ho, decodeVecInt, f_n, f_d, f_a, f_b]

theorem vbfi (n : BitVec 1) (d : BitVec 7) (a : BitVec 8) (b : BitVec 8) : Statement (.vbfi n d a b) := by
  intro wd hy
  have b_n := n.isLt
  have b_d := d.isLt
  have b_a := a.isLt
  have b_b := b.isLt
  have hw : wd.toNat = 0x51000000 + n.toNat * 2 ^ 23 + d.toNat * 2 ^ 16 + a.toNat * 2 ^ 8 + b.toNat * 2 ^ 0 := by
    unfold encode at hy
    injection hy with hy
    rw [← hy, wordOf_cons, wordOf_cons, wordOf_cons, wordOf_cons, wordOf_nil]; omega
  have ho : opcodeOf wd = 0x51 := by unfold opcodeOf; omega
  have f_n : fld wd 23 1 = n := fld_eq (by omega)
  have f_d : fld wd 16 7 = d := fld_eq (by omega)
  have f_a : fld wd 8 8 = a := fld_eq (by omega)
  have f_b : fld wd 0 8 = b := fld_eq (by omega)
  clear hy
  simp [decode, ho, decodeVecInt, f_n, f_d, f_a, f_b]

theorem vsel (n : BitVec 1) (d : BitVec 7) (a : BitVec 8) (b : BitVec 8) : Statement (.vsel n d a b) := by
  intro wd hy
  have b_n := n.isLt
  have b_d := d.isLt
  have b_a := a.isLt
  have b_b := b.isLt
  have hw : wd.toNat = 0x52000000 + n.toNat * 2 ^ 23 + d.toNat * 2 ^ 16 + a.toNat * 2 ^ 8 + b.toNat * 2 ^ 0 := by
    unfold encode at hy
    injection hy with hy
    rw [← hy, wordOf_cons, wordOf_cons, wordOf_cons, wordOf_cons, wordOf_nil]; omega
  have ho : opcodeOf wd = 0x52 := by unfold opcodeOf; omega
  have f_n : fld wd 23 1 = n := fld_eq (by omega)
  have f_d : fld wd 16 7 = d := fld_eq (by omega)
  have f_a : fld wd 8 8 = a := fld_eq (by omega)
  have f_b : fld wd 0 8 = b := fld_eq (by omega)
  clear hy
  simp [decode, ho, decodeVecInt, f_n, f_d, f_a, f_b]

theorem vmov (n : BitVec 1) (d : BitVec 7) (a : BitVec 8) : Statement (.vmov n d a) := by
  intro wd hy
  have b_n := n.isLt
  have b_d := d.isLt
  have b_a := a.isLt
  have hw : wd.toNat = 0x53000000 + n.toNat * 2 ^ 23 + d.toNat * 2 ^ 16 + a.toNat * 2 ^ 8 := by
    unfold encode at hy
    injection hy with hy
    rw [← hy, wordOf_cons, wordOf_cons, wordOf_cons, wordOf_nil]; omega
  have ho : opcodeOf wd = 0x53 := by unfold opcodeOf; omega
  have r0 : rsv wd 0 8 = 0 := by unfold rsv; omega
  have f_n : fld wd 23 1 = n := fld_eq (by omega)
  have f_d : fld wd 16 7 = d := fld_eq (by omega)
  have f_a : fld wd 8 8 = a := fld_eq (by omega)
  clear hy
  simp [decode, ho, decodeVecInt, accept, r0, f_n, f_d, f_a]

theorem vcmp (y : BitVec 1) (r : BitVec 3) (p : BitVec 3) (a : BitVec 8) (b : BitVec 8) : Statement (.vcmp y r p a b) := by
  intro wd hy
  have b_y := y.isLt
  have b_r := r.isLt
  have b_p := p.isLt
  have b_a := a.isLt
  have b_b := b.isLt
  have hw : wd.toNat = 0x54000000 + y.toNat * 2 ^ 22 + r.toNat * 2 ^ 19 + p.toNat * 2 ^ 16 + a.toNat * 2 ^ 8 + b.toNat * 2 ^ 0 := by
    unfold encode at hy
    injection hy with hy
    rw [← hy, wordOf_cons, wordOf_cons, wordOf_cons, wordOf_cons, wordOf_cons, wordOf_nil]; omega
  have ho : opcodeOf wd = 0x54 := by unfold opcodeOf; omega
  have r0 : rsv wd 23 1 = 0 := by unfold rsv; omega
  have f_y : fld wd 22 1 = y := fld_eq (by omega)
  have f_r : fld wd 19 3 = r := fld_eq (by omega)
  have f_p : fld wd 16 3 = p := fld_eq (by omega)
  have f_a : fld wd 8 8 = a := fld_eq (by omega)
  have f_b : fld wd 0 8 = b := fld_eq (by omega)
  clear hy
  simp [decode, ho, decodeVecInt, r0, f_y, f_r, f_p, f_a, f_b]

theorem fadd (n : BitVec 1) (d : BitVec 7) (a : BitVec 8) (b : BitVec 8) : Statement (.fadd n d a b) := by
  intro wd hy
  have b_n := n.isLt
  have b_d := d.isLt
  have b_a := a.isLt
  have b_b := b.isLt
  have hw : wd.toNat = 0x60000000 + n.toNat * 2 ^ 23 + d.toNat * 2 ^ 16 + a.toNat * 2 ^ 8 + b.toNat * 2 ^ 0 := by
    unfold encode at hy
    injection hy with hy
    rw [← hy, wordOf_cons, wordOf_cons, wordOf_cons, wordOf_cons, wordOf_nil]; omega
  have ho : opcodeOf wd = 0x60 := by unfold opcodeOf; omega
  have f_n : fld wd 23 1 = n := fld_eq (by omega)
  have f_d : fld wd 16 7 = d := fld_eq (by omega)
  have f_a : fld wd 8 8 = a := fld_eq (by omega)
  have f_b : fld wd 0 8 = b := fld_eq (by omega)
  clear hy
  simp [decode, ho, decodeVecFloat, f_n, f_d, f_a, f_b]

theorem fsub (n : BitVec 1) (d : BitVec 7) (a : BitVec 8) (b : BitVec 8) : Statement (.fsub n d a b) := by
  intro wd hy
  have b_n := n.isLt
  have b_d := d.isLt
  have b_a := a.isLt
  have b_b := b.isLt
  have hw : wd.toNat = 0x61000000 + n.toNat * 2 ^ 23 + d.toNat * 2 ^ 16 + a.toNat * 2 ^ 8 + b.toNat * 2 ^ 0 := by
    unfold encode at hy
    injection hy with hy
    rw [← hy, wordOf_cons, wordOf_cons, wordOf_cons, wordOf_cons, wordOf_nil]; omega
  have ho : opcodeOf wd = 0x61 := by unfold opcodeOf; omega
  have f_n : fld wd 23 1 = n := fld_eq (by omega)
  have f_d : fld wd 16 7 = d := fld_eq (by omega)
  have f_a : fld wd 8 8 = a := fld_eq (by omega)
  have f_b : fld wd 0 8 = b := fld_eq (by omega)
  clear hy
  simp [decode, ho, decodeVecFloat, f_n, f_d, f_a, f_b]

theorem fmul (n : BitVec 1) (d : BitVec 7) (a : BitVec 8) (b : BitVec 8) : Statement (.fmul n d a b) := by
  intro wd hy
  have b_n := n.isLt
  have b_d := d.isLt
  have b_a := a.isLt
  have b_b := b.isLt
  have hw : wd.toNat = 0x62000000 + n.toNat * 2 ^ 23 + d.toNat * 2 ^ 16 + a.toNat * 2 ^ 8 + b.toNat * 2 ^ 0 := by
    unfold encode at hy
    injection hy with hy
    rw [← hy, wordOf_cons, wordOf_cons, wordOf_cons, wordOf_cons, wordOf_nil]; omega
  have ho : opcodeOf wd = 0x62 := by unfold opcodeOf; omega
  have f_n : fld wd 23 1 = n := fld_eq (by omega)
  have f_d : fld wd 16 7 = d := fld_eq (by omega)
  have f_a : fld wd 8 8 = a := fld_eq (by omega)
  have f_b : fld wd 0 8 = b := fld_eq (by omega)
  clear hy
  simp [decode, ho, decodeVecFloat, f_n, f_d, f_a, f_b]

theorem ffma (n : BitVec 1) (d : BitVec 7) (a : BitVec 8) (b : BitVec 8) : Statement (.ffma n d a b) := by
  intro wd hy
  have b_n := n.isLt
  have b_d := d.isLt
  have b_a := a.isLt
  have b_b := b.isLt
  have hw : wd.toNat = 0x63000000 + n.toNat * 2 ^ 23 + d.toNat * 2 ^ 16 + a.toNat * 2 ^ 8 + b.toNat * 2 ^ 0 := by
    unfold encode at hy
    injection hy with hy
    rw [← hy, wordOf_cons, wordOf_cons, wordOf_cons, wordOf_cons, wordOf_nil]; omega
  have ho : opcodeOf wd = 0x63 := by unfold opcodeOf; omega
  have f_n : fld wd 23 1 = n := fld_eq (by omega)
  have f_d : fld wd 16 7 = d := fld_eq (by omega)
  have f_a : fld wd 8 8 = a := fld_eq (by omega)
  have f_b : fld wd 0 8 = b := fld_eq (by omega)
  clear hy
  simp [decode, ho, decodeVecFloat, f_n, f_d, f_a, f_b]

theorem fmin (n : BitVec 1) (d : BitVec 7) (a : BitVec 8) (b : BitVec 8) : Statement (.fmin n d a b) := by
  intro wd hy
  have b_n := n.isLt
  have b_d := d.isLt
  have b_a := a.isLt
  have b_b := b.isLt
  have hw : wd.toNat = 0x64000000 + n.toNat * 2 ^ 23 + d.toNat * 2 ^ 16 + a.toNat * 2 ^ 8 + b.toNat * 2 ^ 0 := by
    unfold encode at hy
    injection hy with hy
    rw [← hy, wordOf_cons, wordOf_cons, wordOf_cons, wordOf_cons, wordOf_nil]; omega
  have ho : opcodeOf wd = 0x64 := by unfold opcodeOf; omega
  have f_n : fld wd 23 1 = n := fld_eq (by omega)
  have f_d : fld wd 16 7 = d := fld_eq (by omega)
  have f_a : fld wd 8 8 = a := fld_eq (by omega)
  have f_b : fld wd 0 8 = b := fld_eq (by omega)
  clear hy
  simp [decode, ho, decodeVecFloat, f_n, f_d, f_a, f_b]

theorem fmax (n : BitVec 1) (d : BitVec 7) (a : BitVec 8) (b : BitVec 8) : Statement (.fmax n d a b) := by
  intro wd hy
  have b_n := n.isLt
  have b_d := d.isLt
  have b_a := a.isLt
  have b_b := b.isLt
  have hw : wd.toNat = 0x65000000 + n.toNat * 2 ^ 23 + d.toNat * 2 ^ 16 + a.toNat * 2 ^ 8 + b.toNat * 2 ^ 0 := by
    unfold encode at hy
    injection hy with hy
    rw [← hy, wordOf_cons, wordOf_cons, wordOf_cons, wordOf_cons, wordOf_nil]; omega
  have ho : opcodeOf wd = 0x65 := by unfold opcodeOf; omega
  have f_n : fld wd 23 1 = n := fld_eq (by omega)
  have f_d : fld wd 16 7 = d := fld_eq (by omega)
  have f_a : fld wd 8 8 = a := fld_eq (by omega)
  have f_b : fld wd 0 8 = b := fld_eq (by omega)
  clear hy
  simp [decode, ho, decodeVecFloat, f_n, f_d, f_a, f_b]

theorem fcmp (y : BitVec 1) (r : BitVec 3) (p : BitVec 3) (a : BitVec 8) (b : BitVec 8) : Statement (.fcmp y r p a b) := by
  intro wd hy
  have b_y := y.isLt
  have b_r := r.isLt
  have b_p := p.isLt
  have b_a := a.isLt
  have b_b := b.isLt
  have hw : wd.toNat = 0x66000000 + y.toNat * 2 ^ 22 + r.toNat * 2 ^ 19 + p.toNat * 2 ^ 16 + a.toNat * 2 ^ 8 + b.toNat * 2 ^ 0 := by
    unfold encode at hy
    injection hy with hy
    rw [← hy, wordOf_cons, wordOf_cons, wordOf_cons, wordOf_cons, wordOf_cons, wordOf_nil]; omega
  have ho : opcodeOf wd = 0x66 := by unfold opcodeOf; omega
  have r0 : rsv wd 23 1 = 0 := by unfold rsv; omega
  have f_y : fld wd 22 1 = y := fld_eq (by omega)
  have f_r : fld wd 19 3 = r := fld_eq (by omega)
  have f_p : fld wd 16 3 = p := fld_eq (by omega)
  have f_a : fld wd 8 8 = a := fld_eq (by omega)
  have f_b : fld wd 0 8 = b := fld_eq (by omega)
  clear hy
  simp [decode, ho, decodeVecFloat, r0, f_y, f_r, f_p, f_a, f_b]

theorem frcp (n : BitVec 1) (d : BitVec 7) (a : BitVec 8) : Statement (.frcp n d a) := by
  intro wd hy
  have b_n := n.isLt
  have b_d := d.isLt
  have b_a := a.isLt
  have hw : wd.toNat = 0x67000000 + n.toNat * 2 ^ 23 + d.toNat * 2 ^ 16 + a.toNat * 2 ^ 8 := by
    unfold encode at hy
    injection hy with hy
    rw [← hy, wordOf_cons, wordOf_cons, wordOf_cons, wordOf_nil]; omega
  have ho : opcodeOf wd = 0x67 := by unfold opcodeOf; omega
  have r0 : rsv wd 0 8 = 0 := by unfold rsv; omega
  have f_n : fld wd 23 1 = n := fld_eq (by omega)
  have f_d : fld wd 16 7 = d := fld_eq (by omega)
  have f_a : fld wd 8 8 = a := fld_eq (by omega)
  clear hy
  simp [decode, ho, decodeVecFloat, accept, r0, f_n, f_d, f_a]

theorem frsq (n : BitVec 1) (d : BitVec 7) (a : BitVec 8) : Statement (.frsq n d a) := by
  intro wd hy
  have b_n := n.isLt
  have b_d := d.isLt
  have b_a := a.isLt
  have hw : wd.toNat = 0x68000000 + n.toNat * 2 ^ 23 + d.toNat * 2 ^ 16 + a.toNat * 2 ^ 8 := by
    unfold encode at hy
    injection hy with hy
    rw [← hy, wordOf_cons, wordOf_cons, wordOf_cons, wordOf_nil]; omega
  have ho : opcodeOf wd = 0x68 := by unfold opcodeOf; omega
  have r0 : rsv wd 0 8 = 0 := by unfold rsv; omega
  have f_n : fld wd 23 1 = n := fld_eq (by omega)
  have f_d : fld wd 16 7 = d := fld_eq (by omega)
  have f_a : fld wd 8 8 = a := fld_eq (by omega)
  clear hy
  simp [decode, ho, decodeVecFloat, accept, r0, f_n, f_d, f_a]

theorem fexp2 (n : BitVec 1) (d : BitVec 7) (a : BitVec 8) : Statement (.fexp2 n d a) := by
  intro wd hy
  have b_n := n.isLt
  have b_d := d.isLt
  have b_a := a.isLt
  have hw : wd.toNat = 0x69000000 + n.toNat * 2 ^ 23 + d.toNat * 2 ^ 16 + a.toNat * 2 ^ 8 := by
    unfold encode at hy
    injection hy with hy
    rw [← hy, wordOf_cons, wordOf_cons, wordOf_cons, wordOf_nil]; omega
  have ho : opcodeOf wd = 0x69 := by unfold opcodeOf; omega
  have r0 : rsv wd 0 8 = 0 := by unfold rsv; omega
  have f_n : fld wd 23 1 = n := fld_eq (by omega)
  have f_d : fld wd 16 7 = d := fld_eq (by omega)
  have f_a : fld wd 8 8 = a := fld_eq (by omega)
  clear hy
  simp [decode, ho, decodeVecFloat, accept, r0, f_n, f_d, f_a]

theorem flog2 (n : BitVec 1) (d : BitVec 7) (a : BitVec 8) : Statement (.flog2 n d a) := by
  intro wd hy
  have b_n := n.isLt
  have b_d := d.isLt
  have b_a := a.isLt
  have hw : wd.toNat = 0x6A000000 + n.toNat * 2 ^ 23 + d.toNat * 2 ^ 16 + a.toNat * 2 ^ 8 := by
    unfold encode at hy
    injection hy with hy
    rw [← hy, wordOf_cons, wordOf_cons, wordOf_cons, wordOf_nil]; omega
  have ho : opcodeOf wd = 0x6A := by unfold opcodeOf; omega
  have r0 : rsv wd 0 8 = 0 := by unfold rsv; omega
  have f_n : fld wd 23 1 = n := fld_eq (by omega)
  have f_d : fld wd 16 7 = d := fld_eq (by omega)
  have f_a : fld wd 8 8 = a := fld_eq (by omega)
  clear hy
  simp [decode, ho, decodeVecFloat, accept, r0, f_n, f_d, f_a]

theorem fclass (n : BitVec 1) (d : BitVec 7) (a : BitVec 8) : Statement (.fclass n d a) := by
  intro wd hy
  have b_n := n.isLt
  have b_d := d.isLt
  have b_a := a.isLt
  have hw : wd.toNat = 0x6B000000 + n.toNat * 2 ^ 23 + d.toNat * 2 ^ 16 + a.toNat * 2 ^ 8 := by
    unfold encode at hy
    injection hy with hy
    rw [← hy, wordOf_cons, wordOf_cons, wordOf_cons, wordOf_nil]; omega
  have ho : opcodeOf wd = 0x6B := by unfold opcodeOf; omega
  have r0 : rsv wd 0 8 = 0 := by unfold rsv; omega
  have f_n : fld wd 23 1 = n := fld_eq (by omega)
  have f_d : fld wd 16 7 = d := fld_eq (by omega)
  have f_a : fld wd 8 8 = a := fld_eq (by omega)
  clear hy
  simp [decode, ho, decodeVecFloat, accept, r0, f_n, f_d, f_a]

theorem fdot2 (n : BitVec 1) (d : BitVec 7) (a : BitVec 8) (b : BitVec 8) : Statement (.fdot2 n d a b) := by
  intro wd hy
  have b_n := n.isLt
  have b_d := d.isLt
  have b_a := a.isLt
  have b_b := b.isLt
  have hw : wd.toNat = 0x6C000000 + n.toNat * 2 ^ 23 + d.toNat * 2 ^ 16 + a.toNat * 2 ^ 8 + b.toNat * 2 ^ 0 := by
    unfold encode at hy
    injection hy with hy
    rw [← hy, wordOf_cons, wordOf_cons, wordOf_cons, wordOf_cons, wordOf_nil]; omega
  have ho : opcodeOf wd = 0x6C := by unfold opcodeOf; omega
  have f_n : fld wd 23 1 = n := fld_eq (by omega)
  have f_d : fld wd 16 7 = d := fld_eq (by omega)
  have f_a : fld wd 8 8 = a := fld_eq (by omega)
  have f_b : fld wd 0 8 = b := fld_eq (by omega)
  clear hy
  simp [decode, ho, decodeVecFloat, f_n, f_d, f_a, f_b]

theorem cvt (n : BitVec 1) (d : BitVec 7) (a : BitVec 8) (b : BitVec 8) : Statement (.cvt n d a b) := by
  intro wd hy
  have b_n := n.isLt
  have b_d := d.isLt
  have b_a := a.isLt
  have b_b := b.isLt
  have hw : wd.toNat = 0x70000000 + n.toNat * 2 ^ 23 + d.toNat * 2 ^ 16 + a.toNat * 2 ^ 8 + b.toNat * 2 ^ 0 := by
    unfold encode at hy
    injection hy with hy
    rw [← hy, wordOf_cons, wordOf_cons, wordOf_cons, wordOf_cons, wordOf_nil]; omega
  have ho : opcodeOf wd = 0x70 := by unfold opcodeOf; omega
  have f_n : fld wd 23 1 = n := fld_eq (by omega)
  have f_d : fld wd 16 7 = d := fld_eq (by omega)
  have f_a : fld wd 8 8 = a := fld_eq (by omega)
  have f_b : fld wd 0 8 = b := fld_eq (by omega)
  clear hy
  simp [decode, ho, decodeVecFloat, f_n, f_d, f_a, f_b]

theorem cvtl6 (n : BitVec 1) (d : BitVec 7) (a : BitVec 8) (b : BitVec 8) : Statement (.cvtl6 n d a b) := by
  intro wd hy
  have b_n := n.isLt
  have b_d := d.isLt
  have b_a := a.isLt
  have b_b := b.isLt
  have hw : wd.toNat = 0x71000000 + n.toNat * 2 ^ 23 + d.toNat * 2 ^ 16 + a.toNat * 2 ^ 8 + b.toNat * 2 ^ 0 := by
    unfold encode at hy
    injection hy with hy
    rw [← hy, wordOf_cons, wordOf_cons, wordOf_cons, wordOf_cons, wordOf_nil]; omega
  have ho : opcodeOf wd = 0x71 := by unfold opcodeOf; omega
  have f_n : fld wd 23 1 = n := fld_eq (by omega)
  have f_d : fld wd 16 7 = d := fld_eq (by omega)
  have f_a : fld wd 8 8 = a := fld_eq (by omega)
  have f_b : fld wd 0 8 = b := fld_eq (by omega)
  clear hy
  simp [decode, ho, decodeVecFloat, f_n, f_d, f_a, f_b]

theorem l6scl (n : BitVec 1) (d : BitVec 7) (a : BitVec 8) : Statement (.l6scl n d a) := by
  intro wd hy
  have b_n := n.isLt
  have b_d := d.isLt
  have b_a := a.isLt
  have hw : wd.toNat = 0x72000000 + n.toNat * 2 ^ 23 + d.toNat * 2 ^ 16 + a.toNat * 2 ^ 8 := by
    unfold encode at hy
    injection hy with hy
    rw [← hy, wordOf_cons, wordOf_cons, wordOf_cons, wordOf_nil]; omega
  have ho : opcodeOf wd = 0x72 := by unfold opcodeOf; omega
  have r0 : rsv wd 0 8 = 0 := by unfold rsv; omega
  have f_n : fld wd 23 1 = n := fld_eq (by omega)
  have f_d : fld wd 16 7 = d := fld_eq (by omega)
  have f_a : fld wd 8 8 = a := fld_eq (by omega)
  clear hy
  simp [decode, ho, decodeVecFloat, accept, r0, f_n, f_d, f_a]

theorem tagset (n : BitVec 1) (d : BitVec 7) (a : BitVec 8) (b : BitVec 8) : Statement (.tagset n d a b) := by
  intro wd hy
  have b_n := n.isLt
  have b_d := d.isLt
  have b_a := a.isLt
  have b_b := b.isLt
  have hw : wd.toNat = 0x73000000 + n.toNat * 2 ^ 23 + d.toNat * 2 ^ 16 + a.toNat * 2 ^ 8 + b.toNat * 2 ^ 0 := by
    unfold encode at hy
    injection hy with hy
    rw [← hy, wordOf_cons, wordOf_cons, wordOf_cons, wordOf_cons, wordOf_nil]; omega
  have ho : opcodeOf wd = 0x73 := by unfold opcodeOf; omega
  have f_n : fld wd 23 1 = n := fld_eq (by omega)
  have f_d : fld wd 16 7 = d := fld_eq (by omega)
  have f_a : fld wd 8 8 = a := fld_eq (by omega)
  have f_b : fld wd 0 8 = b := fld_eq (by omega)
  clear hy
  simp [decode, ho, decodeVecFloat, f_n, f_d, f_a, f_b]

theorem tagget (n : BitVec 1) (d : BitVec 7) (a : BitVec 8) : Statement (.tagget n d a) := by
  intro wd hy
  have b_n := n.isLt
  have b_d := d.isLt
  have b_a := a.isLt
  have hw : wd.toNat = 0x74000000 + n.toNat * 2 ^ 23 + d.toNat * 2 ^ 16 + a.toNat * 2 ^ 8 := by
    unfold encode at hy
    injection hy with hy
    rw [← hy, wordOf_cons, wordOf_cons, wordOf_cons, wordOf_nil]; omega
  have ho : opcodeOf wd = 0x74 := by unfold opcodeOf; omega
  have r0 : rsv wd 0 8 = 0 := by unfold rsv; omega
  have f_n : fld wd 23 1 = n := fld_eq (by omega)
  have f_d : fld wd 16 7 = d := fld_eq (by omega)
  have f_a : fld wd 8 8 = a := fld_eq (by omega)
  clear hy
  simp [decode, ho, decodeVecFloat, accept, r0, f_n, f_d, f_a]

theorem pack (n : BitVec 1) (d : BitVec 7) (a : BitVec 8) (b : BitVec 8) : Statement (.pack n d a b) := by
  intro wd hy
  have b_n := n.isLt
  have b_d := d.isLt
  have b_a := a.isLt
  have b_b := b.isLt
  have hw : wd.toNat = 0x75000000 + n.toNat * 2 ^ 23 + d.toNat * 2 ^ 16 + a.toNat * 2 ^ 8 + b.toNat * 2 ^ 0 := by
    unfold encode at hy
    injection hy with hy
    rw [← hy, wordOf_cons, wordOf_cons, wordOf_cons, wordOf_cons, wordOf_nil]; omega
  have ho : opcodeOf wd = 0x75 := by unfold opcodeOf; omega
  have f_n : fld wd 23 1 = n := fld_eq (by omega)
  have f_d : fld wd 16 7 = d := fld_eq (by omega)
  have f_a : fld wd 8 8 = a := fld_eq (by omega)
  have f_b : fld wd 0 8 = b := fld_eq (by omega)
  clear hy
  simp [decode, ho, decodeVecFloat, f_n, f_d, f_a, f_b]

theorem unpk (n : BitVec 1) (d : BitVec 7) (a : BitVec 8) (b : BitVec 8) : Statement (.unpk n d a b) := by
  intro wd hy
  have b_n := n.isLt
  have b_d := d.isLt
  have b_a := a.isLt
  have b_b := b.isLt
  have hw : wd.toNat = 0x76000000 + n.toNat * 2 ^ 23 + d.toNat * 2 ^ 16 + a.toNat * 2 ^ 8 + b.toNat * 2 ^ 0 := by
    unfold encode at hy
    injection hy with hy
    rw [← hy, wordOf_cons, wordOf_cons, wordOf_cons, wordOf_cons, wordOf_nil]; omega
  have ho : opcodeOf wd = 0x76 := by unfold opcodeOf; omega
  have f_n : fld wd 23 1 = n := fld_eq (by omega)
  have f_d : fld wd 16 7 = d := fld_eq (by omega)
  have f_a : fld wd 8 8 = a := fld_eq (by omega)
  have f_b : fld wd 0 8 = b := fld_eq (by omega)
  clear hy
  simp [decode, ho, decodeVecFloat, f_n, f_d, f_a, f_b]

theorem vshfl (d : BitVec 7) (a : BitVec 8) (b : BitVec 8) : Statement (.vshfl d a b) := by
  intro wd hy
  have b_d := d.isLt
  have b_a := a.isLt
  have b_b := b.isLt
  have hw : wd.toNat = 0x78000000 + d.toNat * 2 ^ 16 + a.toNat * 2 ^ 8 + b.toNat * 2 ^ 0 := by
    unfold encode at hy
    injection hy with hy
    rw [← hy, wordOf_cons, wordOf_cons, wordOf_cons, wordOf_nil]; omega
  have ho : opcodeOf wd = 0x78 := by unfold opcodeOf; omega
  have r0 : rsv wd 23 1 = 0 := by unfold rsv; omega
  have f_d : fld wd 16 7 = d := fld_eq (by omega)
  have f_a : fld wd 8 8 = a := fld_eq (by omega)
  have f_b : fld wd 0 8 = b := fld_eq (by omega)
  clear hy
  simp [decode, ho, decodeLane, accept, r0, f_d, f_a, f_b]

theorem vrot (d : BitVec 7) (a : BitVec 8) (b : BitVec 8) : Statement (.vrot d a b) := by
  intro wd hy
  have b_d := d.isLt
  have b_a := a.isLt
  have b_b := b.isLt
  have hw : wd.toNat = 0x79000000 + d.toNat * 2 ^ 16 + a.toNat * 2 ^ 8 + b.toNat * 2 ^ 0 := by
    unfold encode at hy
    injection hy with hy
    rw [← hy, wordOf_cons, wordOf_cons, wordOf_cons, wordOf_nil]; omega
  have ho : opcodeOf wd = 0x79 := by unfold opcodeOf; omega
  have r0 : rsv wd 23 1 = 0 := by unfold rsv; omega
  have f_d : fld wd 16 7 = d := fld_eq (by omega)
  have f_a : fld wd 8 8 = a := fld_eq (by omega)
  have f_b : fld wd 0 8 = b := fld_eq (by omega)
  clear hy
  simp [decode, ho, decodeLane, accept, r0, f_d, f_a, f_b]

theorem vbcst (d : BitVec 7) (a : BitVec 8) (b : BitVec 8) : Statement (.vbcst d a b) := by
  intro wd hy
  have b_d := d.isLt
  have b_a := a.isLt
  have b_b := b.isLt
  have hw : wd.toNat = 0x7A000000 + d.toNat * 2 ^ 16 + a.toNat * 2 ^ 8 + b.toNat * 2 ^ 0 := by
    unfold encode at hy
    injection hy with hy
    rw [← hy, wordOf_cons, wordOf_cons, wordOf_cons, wordOf_nil]; omega
  have ho : opcodeOf wd = 0x7A := by unfold opcodeOf; omega
  have r0 : rsv wd 23 1 = 0 := by unfold rsv; omega
  have f_d : fld wd 16 7 = d := fld_eq (by omega)
  have f_a : fld wd 8 8 = a := fld_eq (by omega)
  have f_b : fld wd 0 8 = b := fld_eq (by omega)
  clear hy
  simp [decode, ho, decodeLane, accept, r0, f_d, f_a, f_b]

theorem vred (d : BitVec 7) (a : BitVec 8) (o : BitVec 4) : Statement (.vred d a o) := by
  intro wd hy
  have b_d := d.isLt
  have b_a := a.isLt
  have b_o := o.isLt
  have hw : wd.toNat = 0x7B000000 + d.toNat * 2 ^ 16 + a.toNat * 2 ^ 8 + o.toNat * 2 ^ 0 := by
    unfold encode at hy
    injection hy with hy
    rw [← hy, wordOf_cons, wordOf_cons, wordOf_cons, wordOf_nil]; omega
  have ho : opcodeOf wd = 0x7B := by unfold opcodeOf; omega
  have r0 : rsv wd 4 4 = 0 := by unfold rsv; omega
  have r1 : rsv wd 23 1 = 0 := by unfold rsv; omega
  have f_d : fld wd 16 7 = d := fld_eq (by omega)
  have f_a : fld wd 8 8 = a := fld_eq (by omega)
  have f_o : fld wd 0 4 = o := fld_eq (by omega)
  clear hy
  simp [decode, ho, decodeLane, accept, r0, r1, f_d, f_a, f_o]

theorem vscan (d : BitVec 7) (a : BitVec 8) (e : BitVec 1) (o : BitVec 4) : Statement (.vscan d a e o) := by
  intro wd hy
  have b_d := d.isLt
  have b_a := a.isLt
  have b_e := e.isLt
  have b_o := o.isLt
  have hw : wd.toNat = 0x7C000000 + d.toNat * 2 ^ 16 + a.toNat * 2 ^ 8 + e.toNat * 2 ^ 4 + o.toNat * 2 ^ 0 := by
    unfold encode at hy
    injection hy with hy
    rw [← hy, wordOf_cons, wordOf_cons, wordOf_cons, wordOf_cons, wordOf_nil]; omega
  have ho : opcodeOf wd = 0x7C := by unfold opcodeOf; omega
  have r0 : rsv wd 5 3 = 0 := by unfold rsv; omega
  have r1 : rsv wd 23 1 = 0 := by unfold rsv; omega
  have f_d : fld wd 16 7 = d := fld_eq (by omega)
  have f_a : fld wd 8 8 = a := fld_eq (by omega)
  have f_e : fld wd 4 1 = e := fld_eq (by omega)
  have f_o : fld wd 0 4 = o := fld_eq (by omega)
  clear hy
  simp [decode, ho, decodeLane, accept, r0, r1, f_d, f_a, f_e, f_o]

theorem vcmpt (d : BitVec 7) (a : BitVec 8) (p : BitVec 3) : Statement (.vcmpt d a p) := by
  intro wd hy
  have b_d := d.isLt
  have b_a := a.isLt
  have b_p := p.isLt
  have hw : wd.toNat = 0x7D000000 + d.toNat * 2 ^ 16 + a.toNat * 2 ^ 8 + p.toNat * 2 ^ 0 := by
    unfold encode at hy
    injection hy with hy
    rw [← hy, wordOf_cons, wordOf_cons, wordOf_cons, wordOf_nil]; omega
  have ho : opcodeOf wd = 0x7D := by unfold opcodeOf; omega
  have r0 : rsv wd 3 5 = 0 := by unfold rsv; omega
  have r1 : rsv wd 23 1 = 0 := by unfold rsv; omega
  have f_d : fld wd 16 7 = d := fld_eq (by omega)
  have f_a : fld wd 8 8 = a := fld_eq (by omega)
  have f_p : fld wd 0 3 = p := fld_eq (by omega)
  clear hy
  simp [decode, ho, decodeLane, accept, r0, r1, f_d, f_a, f_p]

theorem vbal (d : BitVec 7) (p : BitVec 3) (m : BitVec 1) : Statement (.vbal d p m) := by
  intro wd hy
  have b_d := d.isLt
  have b_p := p.isLt
  have b_m := m.isLt
  have hw : wd.toNat = 0x7E000000 + d.toNat * 2 ^ 16 + p.toNat * 2 ^ 8 + m.toNat * 2 ^ 0 := by
    unfold encode at hy
    injection hy with hy
    rw [← hy, wordOf_cons, wordOf_cons, wordOf_cons, wordOf_nil]; omega
  have ho : opcodeOf wd = 0x7E := by unfold opcodeOf; omega
  have r0 : rsv wd 1 7 = 0 := by unfold rsv; omega
  have r1 : rsv wd 11 5 = 0 := by unfold rsv; omega
  have r2 : rsv wd 23 1 = 0 := by unfold rsv; omega
  have f_d : fld wd 16 7 = d := fld_eq (by omega)
  have f_p : fld wd 8 3 = p := fld_eq (by omega)
  have f_m : fld wd 0 1 = m := fld_eq (by omega)
  clear hy
  simp [decode, ho, decodeLane, accept, r0, r1, r2, f_d, f_p, f_m]

theorem xtab (t : BitVec 2) (r : BitVec 1) (a : BitVec 6) : Statement (.xtab t r a) := by
  intro wd hy
  have b_t := t.isLt
  have b_r := r.isLt
  have b_a := a.isLt
  have hw : wd.toNat = 0x80000000 + t.toNat * 2 ^ 22 + r.toNat * 2 ^ 21 + a.toNat * 2 ^ 12 := by
    unfold encode at hy
    injection hy with hy
    rw [← hy, wordOf_cons, wordOf_cons, wordOf_cons, wordOf_nil]; omega
  have ho : opcodeOf wd = 0x80 := by unfold opcodeOf; omega
  have r0 : rsv wd 0 12 = 0 := by unfold rsv; omega
  have r1 : rsv wd 18 3 = 0 := by unfold rsv; omega
  have f_t : fld wd 22 2 = t := fld_eq (by omega)
  have f_r : fld wd 21 1 = r := fld_eq (by omega)
  have f_a : fld wd 12 6 = a := fld_eq (by omega)
  clear hy
  simp [decode, ho, decodeLane, accept, r0, r1, f_t, f_r, f_a]

theorem xdec (f : BitVec 6) (a : BitVec 6) (b : BitVec 6) (c : BitVec 6) : Statement (.xdec f a b c) := by
  intro wd hy
  have b_f := f.isLt
  have b_a := a.isLt
  have b_b := b.isLt
  have b_c := c.isLt
  have hw : wd.toNat = 0x81000000 + f.toNat * 2 ^ 18 + a.toNat * 2 ^ 12 + b.toNat * 2 ^ 6 + c.toNat * 2 ^ 0 := by
    unfold encode at hy
    injection hy with hy
    rw [← hy, wordOf_cons, wordOf_cons, wordOf_cons, wordOf_cons, wordOf_nil]; omega
  have ho : opcodeOf wd = 0x81 := by unfold opcodeOf; omega
  have f_f : fld wd 18 6 = f := fld_eq (by omega)
  have f_a : fld wd 12 6 = a := fld_eq (by omega)
  have f_b : fld wd 6 6 = b := fld_eq (by omega)
  have f_c : fld wd 0 6 = c := fld_eq (by omega)
  clear hy
  simp [decode, ho, decodeLane, f_f, f_a, f_b, f_c]

theorem xcrc (d : BitVec 6) (b : BitVec 6) (c : BitVec 6) : Statement (.xcrc d b c) := by
  intro wd hy
  have b_d := d.isLt
  have b_b := b.isLt
  have b_c := c.isLt
  have hw : wd.toNat = 0x82000000 + d.toNat * 2 ^ 12 + b.toNat * 2 ^ 6 + c.toNat * 2 ^ 0 := by
    unfold encode at hy
    injection hy with hy
    rw [← hy, wordOf_cons, wordOf_cons, wordOf_cons, wordOf_nil]; omega
  have ho : opcodeOf wd = 0x82 := by unfold opcodeOf; omega
  have r0 : rsv wd 18 6 = 0 := by unfold rsv; omega
  have f_d : fld wd 12 6 = d := fld_eq (by omega)
  have f_b : fld wd 6 6 = b := fld_eq (by omega)
  have f_c : fld wd 0 6 = c := fld_eq (by omega)
  clear hy
  simp [decode, ho, decodeLane, accept, r0, f_d, f_b, f_c]

theorem xsrt (f : BitVec 6) (a : BitVec 6) : Statement (.xsrt f a) := by
  intro wd hy
  have b_f := f.isLt
  have b_a := a.isLt
  have hw : wd.toNat = 0x83000000 + f.toNat * 2 ^ 18 + a.toNat * 2 ^ 12 := by
    unfold encode at hy
    injection hy with hy
    rw [← hy, wordOf_cons, wordOf_cons, wordOf_nil]; omega
  have ho : opcodeOf wd = 0x83 := by unfold opcodeOf; omega
  have r0 : rsv wd 0 12 = 0 := by unfold rsv; omega
  have f_f : fld wd 18 6 = f := fld_eq (by omega)
  have f_a : fld wd 12 6 = a := fld_eq (by omega)
  clear hy
  simp [decode, ho, decodeLane, accept, r0, f_f, f_a]

theorem ldb (v : BitVec 7) (s : BitVec 6) (x : BitVec 7) (f : BitVec 4) : Statement (.ldb v s x f) := by
  intro wd hy
  have b_v := v.isLt
  have b_s := s.isLt
  have b_x := x.isLt
  have b_f := f.isLt
  have hw : wd.toNat = 0xA0000000 + v.toNat * 2 ^ 17 + s.toNat * 2 ^ 11 + x.toNat * 2 ^ 4 + f.toNat * 2 ^ 0 := by
    unfold encode at hy
    injection hy with hy
    rw [← hy, wordOf_cons, wordOf_cons, wordOf_cons, wordOf_cons, wordOf_nil]; omega
  have ho : opcodeOf wd = 0xA0 := by unfold opcodeOf; omega
  have f_v : fld wd 17 7 = v := fld_eq (by omega)
  have f_s : fld wd 11 6 = s := fld_eq (by omega)
  have f_x : fld wd 4 7 = x := fld_eq (by omega)
  have f_f : fld wd 0 4 = f := fld_eq (by omega)
  clear hy
  simp [decode, ho, decodeMem, f_v, f_s, f_x, f_f]

theorem ldh (v : BitVec 7) (s : BitVec 6) (x : BitVec 7) (f : BitVec 4) : Statement (.ldh v s x f) := by
  intro wd hy
  have b_v := v.isLt
  have b_s := s.isLt
  have b_x := x.isLt
  have b_f := f.isLt
  have hw : wd.toNat = 0xA1000000 + v.toNat * 2 ^ 17 + s.toNat * 2 ^ 11 + x.toNat * 2 ^ 4 + f.toNat * 2 ^ 0 := by
    unfold encode at hy
    injection hy with hy
    rw [← hy, wordOf_cons, wordOf_cons, wordOf_cons, wordOf_cons, wordOf_nil]; omega
  have ho : opcodeOf wd = 0xA1 := by unfold opcodeOf; omega
  have f_v : fld wd 17 7 = v := fld_eq (by omega)
  have f_s : fld wd 11 6 = s := fld_eq (by omega)
  have f_x : fld wd 4 7 = x := fld_eq (by omega)
  have f_f : fld wd 0 4 = f := fld_eq (by omega)
  clear hy
  simp [decode, ho, decodeMem, f_v, f_s, f_x, f_f]

theorem ldw (v : BitVec 7) (s : BitVec 6) (x : BitVec 7) (f : BitVec 4) : Statement (.ldw v s x f) := by
  intro wd hy
  have b_v := v.isLt
  have b_s := s.isLt
  have b_x := x.isLt
  have b_f := f.isLt
  have hw : wd.toNat = 0xA2000000 + v.toNat * 2 ^ 17 + s.toNat * 2 ^ 11 + x.toNat * 2 ^ 4 + f.toNat * 2 ^ 0 := by
    unfold encode at hy
    injection hy with hy
    rw [← hy, wordOf_cons, wordOf_cons, wordOf_cons, wordOf_cons, wordOf_nil]; omega
  have ho : opcodeOf wd = 0xA2 := by unfold opcodeOf; omega
  have f_v : fld wd 17 7 = v := fld_eq (by omega)
  have f_s : fld wd 11 6 = s := fld_eq (by omega)
  have f_x : fld wd 4 7 = x := fld_eq (by omega)
  have f_f : fld wd 0 4 = f := fld_eq (by omega)
  clear hy
  simp [decode, ho, decodeMem, f_v, f_s, f_x, f_f]

theorem ldd (v : BitVec 7) (s : BitVec 6) (x : BitVec 7) (f : BitVec 4) : Statement (.ldd v s x f) := by
  intro wd hy
  have b_v := v.isLt
  have b_s := s.isLt
  have b_x := x.isLt
  have b_f := f.isLt
  have hw : wd.toNat = 0xA3000000 + v.toNat * 2 ^ 17 + s.toNat * 2 ^ 11 + x.toNat * 2 ^ 4 + f.toNat * 2 ^ 0 := by
    unfold encode at hy
    injection hy with hy
    rw [← hy, wordOf_cons, wordOf_cons, wordOf_cons, wordOf_cons, wordOf_nil]; omega
  have ho : opcodeOf wd = 0xA3 := by unfold opcodeOf; omega
  have f_v : fld wd 17 7 = v := fld_eq (by omega)
  have f_s : fld wd 11 6 = s := fld_eq (by omega)
  have f_x : fld wd 4 7 = x := fld_eq (by omega)
  have f_f : fld wd 0 4 = f := fld_eq (by omega)
  clear hy
  simp [decode, ho, decodeMem, f_v, f_s, f_x, f_f]

theorem ldq (v : BitVec 7) (s : BitVec 6) (x : BitVec 7) (f : BitVec 4) : Statement (.ldq v s x f) := by
  intro wd hy
  have b_v := v.isLt
  have b_s := s.isLt
  have b_x := x.isLt
  have b_f := f.isLt
  have hw : wd.toNat = 0xA4000000 + v.toNat * 2 ^ 17 + s.toNat * 2 ^ 11 + x.toNat * 2 ^ 4 + f.toNat * 2 ^ 0 := by
    unfold encode at hy
    injection hy with hy
    rw [← hy, wordOf_cons, wordOf_cons, wordOf_cons, wordOf_cons, wordOf_nil]; omega
  have ho : opcodeOf wd = 0xA4 := by unfold opcodeOf; omega
  have f_v : fld wd 17 7 = v := fld_eq (by omega)
  have f_s : fld wd 11 6 = s := fld_eq (by omega)
  have f_x : fld wd 4 7 = x := fld_eq (by omega)
  have f_f : fld wd 0 4 = f := fld_eq (by omega)
  clear hy
  simp [decode, ho, decodeMem, f_v, f_s, f_x, f_f]

theorem stb (v : BitVec 7) (s : BitVec 6) (x : BitVec 7) (f : BitVec 4) : Statement (.stb v s x f) := by
  intro wd hy
  have b_v := v.isLt
  have b_s := s.isLt
  have b_x := x.isLt
  have b_f := f.isLt
  have hw : wd.toNat = 0xA5000000 + v.toNat * 2 ^ 17 + s.toNat * 2 ^ 11 + x.toNat * 2 ^ 4 + f.toNat * 2 ^ 0 := by
    unfold encode at hy
    injection hy with hy
    rw [← hy, wordOf_cons, wordOf_cons, wordOf_cons, wordOf_cons, wordOf_nil]; omega
  have ho : opcodeOf wd = 0xA5 := by unfold opcodeOf; omega
  have f_v : fld wd 17 7 = v := fld_eq (by omega)
  have f_s : fld wd 11 6 = s := fld_eq (by omega)
  have f_x : fld wd 4 7 = x := fld_eq (by omega)
  have f_f : fld wd 0 4 = f := fld_eq (by omega)
  clear hy
  simp [decode, ho, decodeMem, f_v, f_s, f_x, f_f]

theorem sth (v : BitVec 7) (s : BitVec 6) (x : BitVec 7) (f : BitVec 4) : Statement (.sth v s x f) := by
  intro wd hy
  have b_v := v.isLt
  have b_s := s.isLt
  have b_x := x.isLt
  have b_f := f.isLt
  have hw : wd.toNat = 0xA6000000 + v.toNat * 2 ^ 17 + s.toNat * 2 ^ 11 + x.toNat * 2 ^ 4 + f.toNat * 2 ^ 0 := by
    unfold encode at hy
    injection hy with hy
    rw [← hy, wordOf_cons, wordOf_cons, wordOf_cons, wordOf_cons, wordOf_nil]; omega
  have ho : opcodeOf wd = 0xA6 := by unfold opcodeOf; omega
  have f_v : fld wd 17 7 = v := fld_eq (by omega)
  have f_s : fld wd 11 6 = s := fld_eq (by omega)
  have f_x : fld wd 4 7 = x := fld_eq (by omega)
  have f_f : fld wd 0 4 = f := fld_eq (by omega)
  clear hy
  simp [decode, ho, decodeMem, f_v, f_s, f_x, f_f]

theorem stw (v : BitVec 7) (s : BitVec 6) (x : BitVec 7) (f : BitVec 4) : Statement (.stw v s x f) := by
  intro wd hy
  have b_v := v.isLt
  have b_s := s.isLt
  have b_x := x.isLt
  have b_f := f.isLt
  have hw : wd.toNat = 0xA7000000 + v.toNat * 2 ^ 17 + s.toNat * 2 ^ 11 + x.toNat * 2 ^ 4 + f.toNat * 2 ^ 0 := by
    unfold encode at hy
    injection hy with hy
    rw [← hy, wordOf_cons, wordOf_cons, wordOf_cons, wordOf_cons, wordOf_nil]; omega
  have ho : opcodeOf wd = 0xA7 := by unfold opcodeOf; omega
  have f_v : fld wd 17 7 = v := fld_eq (by omega)
  have f_s : fld wd 11 6 = s := fld_eq (by omega)
  have f_x : fld wd 4 7 = x := fld_eq (by omega)
  have f_f : fld wd 0 4 = f := fld_eq (by omega)
  clear hy
  simp [decode, ho, decodeMem, f_v, f_s, f_x, f_f]

theorem std (v : BitVec 7) (s : BitVec 6) (x : BitVec 7) (f : BitVec 4) : Statement (.std v s x f) := by
  intro wd hy
  have b_v := v.isLt
  have b_s := s.isLt
  have b_x := x.isLt
  have b_f := f.isLt
  have hw : wd.toNat = 0xA8000000 + v.toNat * 2 ^ 17 + s.toNat * 2 ^ 11 + x.toNat * 2 ^ 4 + f.toNat * 2 ^ 0 := by
    unfold encode at hy
    injection hy with hy
    rw [← hy, wordOf_cons, wordOf_cons, wordOf_cons, wordOf_cons, wordOf_nil]; omega
  have ho : opcodeOf wd = 0xA8 := by unfold opcodeOf; omega
  have f_v : fld wd 17 7 = v := fld_eq (by omega)
  have f_s : fld wd 11 6 = s := fld_eq (by omega)
  have f_x : fld wd 4 7 = x := fld_eq (by omega)
  have f_f : fld wd 0 4 = f := fld_eq (by omega)
  clear hy
  simp [decode, ho, decodeMem, f_v, f_s, f_x, f_f]

theorem stq (v : BitVec 7) (s : BitVec 6) (x : BitVec 7) (f : BitVec 4) : Statement (.stq v s x f) := by
  intro wd hy
  have b_v := v.isLt
  have b_s := s.isLt
  have b_x := x.isLt
  have b_f := f.isLt
  have hw : wd.toNat = 0xA9000000 + v.toNat * 2 ^ 17 + s.toNat * 2 ^ 11 + x.toNat * 2 ^ 4 + f.toNat * 2 ^ 0 := by
    unfold encode at hy
    injection hy with hy
    rw [← hy, wordOf_cons, wordOf_cons, wordOf_cons, wordOf_cons, wordOf_nil]; omega
  have ho : opcodeOf wd = 0xA9 := by unfold opcodeOf; omega
  have f_v : fld wd 17 7 = v := fld_eq (by omega)
  have f_s : fld wd 11 6 = s := fld_eq (by omega)
  have f_x : fld wd 4 7 = x := fld_eq (by omega)
  have f_f : fld wd 0 4 = f := fld_eq (by omega)
  clear hy
  simp [decode, ho, decodeMem, f_v, f_s, f_x, f_f]

theorem sld (d : BitVec 6) (s : BitVec 6) (f : BitVec 4) : Statement (.sld d s f) := by
  intro wd hy
  have b_d := d.isLt
  have b_s := s.isLt
  have b_f := f.isLt
  have hw : wd.toNat = 0xAA000000 + d.toNat * 2 ^ 17 + s.toNat * 2 ^ 11 + f.toNat * 2 ^ 0 := by
    unfold encode at hy
    injection hy with hy
    rw [← hy, wordOf_cons, wordOf_cons, wordOf_cons, wordOf_nil]; omega
  have ho : opcodeOf wd = 0xAA := by unfold opcodeOf; omega
  have r0 : rsv wd 4 7 = 0 := by unfold rsv; omega
  have r1 : rsv wd 23 1 = 0 := by unfold rsv; omega
  have f_d : fld wd 17 6 = d := fld_eq (by omega)
  have f_s : fld wd 11 6 = s := fld_eq (by omega)
  have f_f : fld wd 0 4 = f := fld_eq (by omega)
  clear hy
  simp [decode, ho, decodeMem, accept, r0, r1, f_d, f_s, f_f]

theorem sst (d : BitVec 6) (s : BitVec 6) (f : BitVec 4) : Statement (.sst d s f) := by
  intro wd hy
  have b_d := d.isLt
  have b_s := s.isLt
  have b_f := f.isLt
  have hw : wd.toNat = 0xAB000000 + d.toNat * 2 ^ 17 + s.toNat * 2 ^ 11 + f.toNat * 2 ^ 0 := by
    unfold encode at hy
    injection hy with hy
    rw [← hy, wordOf_cons, wordOf_cons, wordOf_cons, wordOf_nil]; omega
  have ho : opcodeOf wd = 0xAB := by unfold opcodeOf; omega
  have r0 : rsv wd 4 7 = 0 := by unfold rsv; omega
  have r1 : rsv wd 23 1 = 0 := by unfold rsv; omega
  have f_d : fld wd 17 6 = d := fld_eq (by omega)
  have f_s : fld wd 11 6 = s := fld_eq (by omega)
  have f_f : fld wd 0 4 = f := fld_eq (by omega)
  clear hy
  simp [decode, ho, decodeMem, accept, r0, r1, f_d, f_s, f_f]

theorem atom (v : BitVec 7) (s : BitVec 6) (x : BitVec 7) (f : BitVec 4) : Statement (.atom v s x f) := by
  intro wd hy
  have b_v := v.isLt
  have b_s := s.isLt
  have b_x := x.isLt
  have b_f := f.isLt
  have hw : wd.toNat = 0xAC000000 + v.toNat * 2 ^ 17 + s.toNat * 2 ^ 11 + x.toNat * 2 ^ 4 + f.toNat * 2 ^ 0 := by
    unfold encode at hy
    injection hy with hy
    rw [← hy, wordOf_cons, wordOf_cons, wordOf_cons, wordOf_cons, wordOf_nil]; omega
  have ho : opcodeOf wd = 0xAC := by unfold opcodeOf; omega
  have f_v : fld wd 17 7 = v := fld_eq (by omega)
  have f_s : fld wd 11 6 = s := fld_eq (by omega)
  have f_x : fld wd 4 7 = x := fld_eq (by omega)
  have f_f : fld wd 0 4 = f := fld_eq (by omega)
  clear hy
  simp [decode, ho, decodeMem, f_v, f_s, f_x, f_f]

theorem abnd (v : BitVec 7) (s : BitVec 6) (x : BitVec 7) : Statement (.abnd v s x) := by
  intro wd hy
  have b_v := v.isLt
  have b_s := s.isLt
  have b_x := x.isLt
  have hw : wd.toNat = 0xAD000000 + v.toNat * 2 ^ 17 + s.toNat * 2 ^ 11 + x.toNat * 2 ^ 4 := by
    unfold encode at hy
    injection hy with hy
    rw [← hy, wordOf_cons, wordOf_cons, wordOf_cons, wordOf_nil]; omega
  have ho : opcodeOf wd = 0xAD := by unfold opcodeOf; omega
  have r0 : rsv wd 0 4 = 0 := by unfold rsv; omega
  have f_v : fld wd 17 7 = v := fld_eq (by omega)
  have f_s : fld wd 11 6 = s := fld_eq (by omega)
  have f_x : fld wd 4 7 = x := fld_eq (by omega)
  clear hy
  simp [decode, ho, decodeMem, accept, r0, f_v, f_s, f_x]

theorem acas (v : BitVec 7) (s : BitVec 6) (x : BitVec 7) : Statement (.acas v s x) := by
  intro wd hy
  have b_v := v.isLt
  have b_s := s.isLt
  have b_x := x.isLt
  have hw : wd.toNat = 0xAE000000 + v.toNat * 2 ^ 17 + s.toNat * 2 ^ 11 + x.toNat * 2 ^ 4 := by
    unfold encode at hy
    injection hy with hy
    rw [← hy, wordOf_cons, wordOf_cons, wordOf_cons, wordOf_nil]; omega
  have ho : opcodeOf wd = 0xAE := by unfold opcodeOf; omega
  have r0 : rsv wd 0 4 = 0 := by unfold rsv; omega
  have f_v : fld wd 17 7 = v := fld_eq (by omega)
  have f_s : fld wd 11 6 = s := fld_eq (by omega)
  have f_x : fld wd 4 7 = x := fld_eq (by omega)
  clear hy
  simp [decode, ho, decodeMem, accept, r0, f_v, f_s, f_x]

theorem fence (s : BitVec 3) (k : BitVec 2) : Statement (.fence s k) := by
  intro wd hy
  have b_s := s.isLt
  have b_k := k.isLt
  have hw : wd.toNat = 0xAF000000 + s.toNat * 2 ^ 21 + k.toNat * 2 ^ 19 := by
    unfold encode at hy
    injection hy with hy
    rw [← hy, wordOf_cons, wordOf_cons, wordOf_nil]; omega
  have ho : opcodeOf wd = 0xAF := by unfold opcodeOf; omega
  have r0 : rsv wd 0 19 = 0 := by unfold rsv; omega
  have f_s : fld wd 21 3 = s := fld_eq (by omega)
  have f_k : fld wd 19 2 = k := fld_eq (by omega)
  clear hy
  simp [decode, ho, decodeMem, accept, r0, f_s, f_k]

theorem ifence : Statement .ifence := by
  intro wd hy
  obtain rfl := Option.some.inj hy
  rfl

theorem prf (s : BitVec 6) (x : BitVec 7) (f : BitVec 4) : Statement (.prf s x f) := by
  intro wd hy
  have b_s := s.isLt
  have b_x := x.isLt
  have b_f := f.isLt
  have hw : wd.toNat = 0xB1000000 + s.toNat * 2 ^ 11 + x.toNat * 2 ^ 4 + f.toNat * 2 ^ 0 := by
    unfold encode at hy
    injection hy with hy
    rw [← hy, wordOf_cons, wordOf_cons, wordOf_cons, wordOf_nil]; omega
  have ho : opcodeOf wd = 0xB1 := by unfold opcodeOf; omega
  have r0 : rsv wd 17 7 = 0 := by unfold rsv; omega
  have f_s : fld wd 11 6 = s := fld_eq (by omega)
  have f_x : fld wd 4 7 = x := fld_eq (by omega)
  have f_f : fld wd 0 4 = f := fld_eq (by omega)
  clear hy
  simp [decode, ho, decodeMem, accept, r0, f_s, f_x, f_f]

theorem pgenum (d : BitVec 6) (a : BitVec 6) : Statement (.pgenum d a) := by
  intro wd hy
  have b_d := d.isLt
  have b_a := a.isLt
  have hw : wd.toNat = 0xB2000000 + d.toNat * 2 ^ 12 + a.toNat * 2 ^ 6 := by
    unfold encode at hy
    injection hy with hy
    rw [← hy, wordOf_cons, wordOf_cons, wordOf_nil]; omega
  have ho : opcodeOf wd = 0xB2 := by unfold opcodeOf; omega
  have r0 : rsv wd 0 6 = 0 := by unfold rsv; omega
  have r1 : rsv wd 18 6 = 0 := by unfold rsv; omega
  have f_d : fld wd 12 6 = d := fld_eq (by omega)
  have f_a : fld wd 6 6 = a := fld_eq (by omega)
  clear hy
  simp [decode, ho, decodeMem, accept, r0, r1, f_d, f_a]

theorem pgstat (d : BitVec 6) (a : BitVec 6) : Statement (.pgstat d a) := by
  intro wd hy
  have b_d := d.isLt
  have b_a := a.isLt
  have hw : wd.toNat = 0xB3000000 + d.toNat * 2 ^ 12 + a.toNat * 2 ^ 6 := by
    unfold encode at hy
    injection hy with hy
    rw [← hy, wordOf_cons, wordOf_cons, wordOf_nil]; omega
  have ho : opcodeOf wd = 0xB3 := by unfold opcodeOf; omega
  have r0 : rsv wd 0 6 = 0 := by unfold rsv; omega
  have r1 : rsv wd 18 6 = 0 := by unfold rsv; omega
  have f_d : fld wd 12 6 = d := fld_eq (by omega)
  have f_a : fld wd 6 6 = a := fld_eq (by omega)
  clear hy
  simp [decode, ho, decodeMem, accept, r0, r1, f_d, f_a]

theorem rginfo (f : BitVec 6) (d : BitVec 6) (a : BitVec 6) : Statement (.rginfo f d a) := by
  intro wd hy
  have b_f := f.isLt
  have b_d := d.isLt
  have b_a := a.isLt
  have hw : wd.toNat = 0xB4000000 + f.toNat * 2 ^ 18 + d.toNat * 2 ^ 12 + a.toNat * 2 ^ 6 := by
    unfold encode at hy
    injection hy with hy
    rw [← hy, wordOf_cons, wordOf_cons, wordOf_cons, wordOf_nil]; omega
  have ho : opcodeOf wd = 0xB4 := by unfold opcodeOf; omega
  have r0 : rsv wd 0 6 = 0 := by unfold rsv; omega
  have f_f : fld wd 18 6 = f := fld_eq (by omega)
  have f_d : fld wd 12 6 = d := fld_eq (by omega)
  have f_a : fld wd 6 6 = a := fld_eq (by omega)
  clear hy
  simp [decode, ho, decodeMem, accept, r0, f_f, f_d, f_a]

theorem opmap (n : BitVec 3) (a : BitVec 6) : Statement (.opmap n a) := by
  intro wd hy
  have b_n := n.isLt
  have b_a := a.isLt
  have hw : wd.toNat = 0xC0000000 + n.toNat * 2 ^ 21 + a.toNat * 2 ^ 12 := by
    unfold encode at hy
    injection hy with hy
    rw [← hy, wordOf_cons, wordOf_cons, wordOf_nil]; omega
  have ho : opcodeOf wd = 0xC0 := by unfold opcodeOf; omega
  have r0 : rsv wd 0 12 = 0 := by unfold rsv; omega
  have r1 : rsv wd 18 3 = 0 := by unfold rsv; omega
  have f_n : fld wd 21 3 = n := fld_eq (by omega)
  have f_a : fld wd 12 6 = a := fld_eq (by omega)
  clear hy
  simp [decode, ho, decodeMatrix, accept, r0, r1, f_n, f_a]

theorem mma (c : BitVec 1) (a : BitVec 2) (b : BitVec 2) (z : BitVec 1) (o : BitVec 6) (k : BitVec 6) : Statement (.mma c a b z o k) := by
  intro wd hy
  have b_c := c.isLt
  have b_a := a.isLt
  have b_b := b.isLt
  have b_z := z.isLt
  have b_o := o.isLt
  have b_k := k.isLt
  have hw : wd.toNat = 0xC1000000 + c.toNat * 2 ^ 23 + a.toNat * 2 ^ 21 + b.toNat * 2 ^ 19 + z.toNat * 2 ^ 18 + o.toNat * 2 ^ 12 + k.toNat * 2 ^ 0 := by
    unfold encode at hy
    injection hy with hy
    rw [← hy, wordOf_cons, wordOf_cons, wordOf_cons, wordOf_cons, wordOf_cons, wordOf_cons, wordOf_nil]; omega
  have ho : opcodeOf wd = 0xC1 := by unfold opcodeOf; omega
  have r0 : rsv wd 6 6 = 0 := by unfold rsv; omega
  have f_c : fld wd 23 1 = c := fld_eq (by omega)
  have f_a : fld wd 21 2 = a := fld_eq (by omega)
  have f_b : fld wd 19 2 = b := fld_eq (by omega)
  have f_z : fld wd 18 1 = z := fld_eq (by omega)
  have f_o : fld wd 12 6 = o := fld_eq (by omega)
  have f_k : fld wd 0 6 = k := fld_eq (by omega)
  clear hy
  simp [decode, ho, decodeMatrix, accept, r0, f_c, f_a, f_b, f_z, f_o, f_k]

theorem mmas (c : BitVec 1) (a : BitVec 2) (b : BitVec 2) (z : BitVec 1) (o : BitVec 6) (k : BitVec 6) : Statement (.mmas c a b z o k) := by
  intro wd hy
  have b_c := c.isLt
  have b_a := a.isLt
  have b_b := b.isLt
  have b_z := z.isLt
  have b_o := o.isLt
  have b_k := k.isLt
  have hw : wd.toNat = 0xC2000000 + c.toNat * 2 ^ 23 + a.toNat * 2 ^ 21 + b.toNat * 2 ^ 19 + z.toNat * 2 ^ 18 + o.toNat * 2 ^ 12 + k.toNat * 2 ^ 0 := by
    unfold encode at hy
    injection hy with hy
    rw [← hy, wordOf_cons, wordOf_cons, wordOf_cons, wordOf_cons, wordOf_cons, wordOf_cons, wordOf_nil]; omega
  have ho : opcodeOf wd = 0xC2 := by unfold opcodeOf; omega
  have r0 : rsv wd 6 6 = 0 := by unfold rsv; omega
  have f_c : fld wd 23 1 = c := fld_eq (by omega)
  have f_a : fld wd 21 2 = a := fld_eq (by omega)
  have f_b : fld wd 19 2 = b := fld_eq (by omega)
  have f_z : fld wd 18 1 = z := fld_eq (by omega)
  have f_o : fld wd 12 6 = o := fld_eq (by omega)
  have f_k : fld wd 0 6 = k := fld_eq (by omega)
  clear hy
  simp [decode, ho, decodeMatrix, accept, r0, f_c, f_a, f_b, f_z, f_o, f_k]

theorem mmac (c : BitVec 1) (a : BitVec 2) (b : BitVec 2) (z : BitVec 1) (o : BitVec 6) (k : BitVec 6) : Statement (.mmac c a b z o k) := by
  intro wd hy
  have b_c := c.isLt
  have b_a := a.isLt
  have b_b := b.isLt
  have b_z := z.isLt
  have b_o := o.isLt
  have b_k := k.isLt
  have hw : wd.toNat = 0xC3000000 + c.toNat * 2 ^ 23 + a.toNat * 2 ^ 21 + b.toNat * 2 ^ 19 + z.toNat * 2 ^ 18 + o.toNat * 2 ^ 12 + k.toNat * 2 ^ 0 := by
    unfold encode at hy
    injection hy with hy
    rw [← hy, wordOf_cons, wordOf_cons, wordOf_cons, wordOf_cons, wordOf_cons, wordOf_cons, wordOf_nil]; omega
  have ho : opcodeOf wd = 0xC3 := by unfold opcodeOf; omega
  have r0 : rsv wd 6 6 = 0 := by unfold rsv; omega
  have f_c : fld wd 23 1 = c := fld_eq (by omega)
  have f_a : fld wd 21 2 = a := fld_eq (by omega)
  have f_b : fld wd 19 2 = b := fld_eq (by omega)
  have f_z : fld wd 18 1 = z := fld_eq (by omega)
  have f_o : fld wd 12 6 = o := fld_eq (by omega)
  have f_k : fld wd 0 6 = k := fld_eq (by omega)
  clear hy
  simp [decode, ho, decodeMatrix, accept, r0, f_c, f_a, f_b, f_z, f_o, f_k]

theorem accz (c : BitVec 1) (s : BitVec 1) : Statement (.accz c s) := by
  intro wd hy
  have b_c := c.isLt
  have b_s := s.isLt
  have hw : wd.toNat = 0xC4000000 + c.toNat * 2 ^ 23 + s.toNat * 2 ^ 22 := by
    unfold encode at hy
    injection hy with hy
    rw [← hy, wordOf_cons, wordOf_cons, wordOf_nil]; omega
  have ho : opcodeOf wd = 0xC4 := by unfold opcodeOf; omega
  have r0 : rsv wd 0 22 = 0 := by unfold rsv; omega
  have f_c : fld wd 23 1 = c := fld_eq (by omega)
  have f_s : fld wd 22 1 = s := fld_eq (by omega)
  clear hy
  simp [decode, ho, decodeMatrix, accept, r0, f_c, f_s]

theorem accld (c : BitVec 1) (n : BitVec 3) : Statement (.accld c n) := by
  intro wd hy
  have b_c := c.isLt
  have b_n := n.isLt
  have hw : wd.toNat = 0xC5000000 + c.toNat * 2 ^ 23 + n.toNat * 2 ^ 20 := by
    unfold encode at hy
    injection hy with hy
    rw [← hy, wordOf_cons, wordOf_cons, wordOf_nil]; omega
  have ho : opcodeOf wd = 0xC5 := by unfold opcodeOf; omega
  have r0 : rsv wd 0 20 = 0 := by unfold rsv; omega
  have f_c : fld wd 23 1 = c := fld_eq (by omega)
  have f_n : fld wd 20 3 = n := fld_eq (by omega)
  clear hy
  simp [decode, ho, decodeMatrix, accept, r0, f_c, f_n]

theorem accst (c : BitVec 1) (n : BitVec 3) : Statement (.accst c n) := by
  intro wd hy
  have b_c := c.isLt
  have b_n := n.isLt
  have hw : wd.toNat = 0xC6000000 + c.toNat * 2 ^ 23 + n.toNat * 2 ^ 20 := by
    unfold encode at hy
    injection hy with hy
    rw [← hy, wordOf_cons, wordOf_cons, wordOf_nil]; omega
  have ho : opcodeOf wd = 0xC6 := by unfold opcodeOf; omega
  have r0 : rsv wd 0 20 = 0 := by unfold rsv; omega
  have f_c : fld wd 23 1 = c := fld_eq (by omega)
  have f_n : fld wd 20 3 = n := fld_eq (by omega)
  clear hy
  simp [decode, ho, decodeMatrix, accept, r0, f_c, f_n]

theorem accrd (f : BitVec 6) (p : BitVec 6) : Statement (.accrd f p) := by
  intro wd hy
  have b_f := f.isLt
  have b_p := p.isLt
  have hw : wd.toNat = 0xC7000000 + f.toNat * 2 ^ 18 + p.toNat * 2 ^ 12 := by
    unfold encode at hy
    injection hy with hy
    rw [← hy, wordOf_cons, wordOf_cons, wordOf_nil]; omega
  have ho : opcodeOf wd = 0xC7 := by unfold opcodeOf; omega
  have r0 : rsv wd 0 12 = 0 := by unfold rsv; omega
  have f_f : fld wd 18 6 = f := fld_eq (by omega)
  have f_p : fld wd 12 6 = p := fld_eq (by omega)
  clear hy
  simp [decode, ho, decodeMatrix, accept, r0, f_f, f_p]

theorem accwr (f : BitVec 6) (p : BitVec 6) : Statement (.accwr f p) := by
  intro wd hy
  have b_f := f.isLt
  have b_p := p.isLt
  have hw : wd.toNat = 0xC8000000 + f.toNat * 2 ^ 18 + p.toNat * 2 ^ 12 := by
    unfold encode at hy
    injection hy with hy
    rw [← hy, wordOf_cons, wordOf_cons, wordOf_nil]; omega
  have ho : opcodeOf wd = 0xC8 := by unfold opcodeOf; omega
  have r0 : rsv wd 0 12 = 0 := by unfold rsv; omega
  have f_f : fld wd 18 6 = f := fld_eq (by omega)
  have f_p : fld wd 12 6 = p := fld_eq (by omega)
  clear hy
  simp [decode, ho, decodeMatrix, accept, r0, f_f, f_p]

theorem mstep (w : BitVec 6) (d : BitVec 6) : Statement (.mstep w d) := by
  intro wd hy
  have b_w := w.isLt
  have b_d := d.isLt
  have hw : wd.toNat = 0xC9000000 + w.toNat * 2 ^ 18 + d.toNat * 2 ^ 12 := by
    unfold encode at hy
    injection hy with hy
    rw [← hy, wordOf_cons, wordOf_cons, wordOf_nil]; omega
  have ho : opcodeOf wd = 0xC9 := by unfold opcodeOf; omega
  have r0 : rsv wd 0 12 = 0 := by unfold rsv; omega
  have f_w : fld wd 18 6 = w := fld_eq (by omega)
  have f_d : fld wd 12 6 = d := fld_eq (by omega)
  clear hy
  simp [decode, ho, decodeMatrix, accept, r0, f_w, f_d]

theorem cpy (k : BitVec 2) (i : BitVec 4) (r : BitVec 6) (l : BitVec 6) (q : BitVec 6) : Statement (.cpy k i r l q) := by
  intro wd hy
  have b_k := k.isLt
  have b_i := i.isLt
  have b_r := r.isLt
  have b_l := l.isLt
  have b_q := q.isLt
  have hw : wd.toNat = 0xD0000000 + k.toNat * 2 ^ 22 + i.toNat * 2 ^ 18 + r.toNat * 2 ^ 12 + l.toNat * 2 ^ 6 + q.toNat * 2 ^ 0 := by
    unfold encode at hy
    injection hy with hy
    rw [← hy, wordOf_cons, wordOf_cons, wordOf_cons, wordOf_cons, wordOf_cons, wordOf_nil]; omega
  have ho : opcodeOf wd = 0xD0 := by unfold opcodeOf; omega
  have f_k : fld wd 22 2 = k := fld_eq (by omega)
  have f_i : fld wd 18 4 = i := fld_eq (by omega)
  have f_r : fld wd 12 6 = r := fld_eq (by omega)
  have f_l : fld wd 6 6 = l := fld_eq (by omega)
  have f_q : fld wd 0 6 = q := fld_eq (by omega)
  clear hy
  simp [decode, ho, decodeEngine, f_k, f_i, f_r, f_l, f_q]

theorem gath (k : BitVec 2) (i : BitVec 4) (d : BitVec 6) (b : BitVec 6) : Statement (.gath k i d b) := by
  intro wd hy
  have b_k := k.isLt
  have b_i := i.isLt
  have b_d := d.isLt
  have b_b := b.isLt
  have hw : wd.toNat = 0xD1000000 + k.toNat * 2 ^ 22 + i.toNat * 2 ^ 18 + d.toNat * 2 ^ 12 + b.toNat * 2 ^ 6 := by
    unfold encode at hy
    injection hy with hy
    rw [← hy, wordOf_cons, wordOf_cons, wordOf_cons, wordOf_cons, wordOf_nil]; omega
  have ho : opcodeOf wd = 0xD1 := by unfold opcodeOf; omega
  have r0 : rsv wd 0 6 = 0 := by unfold rsv; omega
  have f_k : fld wd 22 2 = k := fld_eq (by omega)
  have f_i : fld wd 18 4 = i := fld_eq (by omega)
  have f_d : fld wd 12 6 = d := fld_eq (by omega)
  have f_b : fld wd 6 6 = b := fld_eq (by omega)
  clear hy
  simp [decode, ho, decodeEngine, accept, r0, f_k, f_i, f_d, f_b]

theorem scat (k : BitVec 2) (i : BitVec 4) (d : BitVec 6) (b : BitVec 6) : Statement (.scat k i d b) := by
  intro wd hy
  have b_k := k.isLt
  have b_i := i.isLt
  have b_d := d.isLt
  have b_b := b.isLt
  have hw : wd.toNat = 0xD2000000 + k.toNat * 2 ^ 22 + i.toNat * 2 ^ 18 + d.toNat * 2 ^ 12 + b.toNat * 2 ^ 6 := by
    unfold encode at hy
    injection hy with hy
    rw [← hy, wordOf_cons, wordOf_cons, wordOf_cons, wordOf_cons, wordOf_nil]; omega
  have ho : opcodeOf wd = 0xD2 := by unfold opcodeOf; omega
  have r0 : rsv wd 0 6 = 0 := by unfold rsv; omega
  have f_k : fld wd 22 2 = k := fld_eq (by omega)
  have f_i : fld wd 18 4 = i := fld_eq (by omega)
  have f_d : fld wd 12 6 = d := fld_eq (by omega)
  have f_b : fld wd 6 6 = b := fld_eq (by omega)
  clear hy
  simp [decode, ho, decodeEngine, accept, r0, f_k, f_i, f_d, f_b]

theorem binit (k : BitVec 2) (i : BitVec 4) (m : BitVec 6) (e : BitVec 6) : Statement (.binit k i m e) := by
  intro wd hy
  have b_k := k.isLt
  have b_i := i.isLt
  have b_m := m.isLt
  have b_e := e.isLt
  have hw : wd.toNat = 0xD3000000 + k.toNat * 2 ^ 22 + i.toNat * 2 ^ 18 + m.toNat * 2 ^ 12 + e.toNat * 2 ^ 6 := by
    unfold encode at hy
    injection hy with hy
    rw [← hy, wordOf_cons, wordOf_cons, wordOf_cons, wordOf_cons, wordOf_nil]; omega
  have ho : opcodeOf wd = 0xD3 := by unfold opcodeOf; omega
  have r0 : rsv wd 0 6 = 0 := by unfold rsv; omega
  have f_k : fld wd 22 2 = k := fld_eq (by omega)
  have f_i : fld wd 18 4 = i := fld_eq (by omega)
  have f_m : fld wd 12 6 = m := fld_eq (by omega)
  have f_e : fld wd 6 6 = e := fld_eq (by omega)
  clear hy
  simp [decode, ho, decodeEngine, accept, r0, f_k, f_i, f_m, f_e]

theorem barv (i : BitVec 4) (d : BitVec 6) : Statement (.barv i d) := by
  intro wd hy
  have b_i := i.isLt
  have b_d := d.isLt
  have hw : wd.toNat = 0xD4000000 + i.toNat * 2 ^ 18 + d.toNat * 2 ^ 12 := by
    unfold encode at hy
    injection hy with hy
    rw [← hy, wordOf_cons, wordOf_cons, wordOf_nil]; omega
  have ho : opcodeOf wd = 0xD4 := by unfold opcodeOf; omega
  have r0 : rsv wd 0 12 = 0 := by unfold rsv; omega
  have r1 : rsv wd 22 2 = 0 := by unfold rsv; omega
  have f_i : fld wd 18 4 = i := fld_eq (by omega)
  have f_d : fld wd 12 6 = d := fld_eq (by omega)
  clear hy
  simp [decode, ho, decodeEngine, accept, r0, r1, f_i, f_d]

theorem bexp (i : BitVec 4) (a : BitVec 6) : Statement (.bexp i a) := by
  intro wd hy
  have b_i := i.isLt
  have b_a := a.isLt
  have hw : wd.toNat = 0xD5000000 + i.toNat * 2 ^ 18 + a.toNat * 2 ^ 12 := by
    unfold encode at hy
    injection hy with hy
    rw [← hy, wordOf_cons, wordOf_cons, wordOf_nil]; omega
  have ho : opcodeOf wd = 0xD5 := by unfold opcodeOf; omega
  have r0 : rsv wd 0 12 = 0 := by unfold rsv; omega
  have r1 : rsv wd 22 2 = 0 := by unfold rsv; omega
  have f_i : fld wd 18 4 = i := fld_eq (by omega)
  have f_a : fld wd 12 6 = a := fld_eq (by omega)
  clear hy
  simp [decode, ho, decodeEngine, accept, r0, r1, f_i, f_a]

theorem bwait (i : BitVec 4) (a : BitVec 6) : Statement (.bwait i a) := by
  intro wd hy
  have b_i := i.isLt
  have b_a := a.isLt
  have hw : wd.toNat = 0xD6000000 + i.toNat * 2 ^ 18 + a.toNat * 2 ^ 12 := by
    unfold encode at hy
    injection hy with hy
    rw [← hy, wordOf_cons, wordOf_cons, wordOf_nil]; omega
  have ho : opcodeOf wd = 0xD6 := by unfold opcodeOf; omega
  have r0 : rsv wd 0 12 = 0 := by unfold rsv; omega
  have r1 : rsv wd 22 2 = 0 := by unfold rsv; omega
  have f_i : fld wd 18 4 = i := fld_eq (by omega)
  have f_a : fld wd 12 6 = a := fld_eq (by omega)
  clear hy
  simp [decode, ho, decodeEngine, accept, r0, r1, f_i, f_a]

theorem btest (k : BitVec 2) (i : BitVec 4) (d : BitVec 6) : Statement (.btest k i d) := by
  intro wd hy
  have b_k := k.isLt
  have b_i := i.isLt
  have b_d := d.isLt
  have hw : wd.toNat = 0xD7000000 + k.toNat * 2 ^ 22 + i.toNat * 2 ^ 18 + d.toNat * 2 ^ 12 := by
    unfold encode at hy
    injection hy with hy
    rw [← hy, wordOf_cons, wordOf_cons, wordOf_cons, wordOf_nil]; omega
  have ho : opcodeOf wd = 0xD7 := by unfold opcodeOf; omega
  have r0 : rsv wd 0 12 = 0 := by unfold rsv; omega
  have f_k : fld wd 22 2 = k := fld_eq (by omega)
  have f_i : fld wd 18 4 = i := fld_eq (by omega)
  have f_d : fld wd 12 6 = d := fld_eq (by omega)
  clear hy
  simp [decode, ho, decodeEngine, accept, r0, f_k, f_i, f_d]

theorem cwait (n : BitVec 2) (a : BitVec 6) : Statement (.cwait n a) := by
  intro wd hy
  have b_n := n.isLt
  have b_a := a.isLt
  have hw : wd.toNat = 0xD8000000 + n.toNat * 2 ^ 22 + a.toNat * 2 ^ 12 := by
    unfold encode at hy
    injection hy with hy
    rw [← hy, wordOf_cons, wordOf_cons, wordOf_nil]; omega
  have ho : opcodeOf wd = 0xD8 := by unfold opcodeOf; omega
  have r0 : rsv wd 0 12 = 0 := by unfold rsv; omega
  have r1 : rsv wd 18 4 = 0 := by unfold rsv; omega
  have f_n : fld wd 22 2 = n := fld_eq (by omega)
  have f_a : fld wd 12 6 = a := fld_eq (by omega)
  clear hy
  simp [decode, ho, decodeEngine, accept, r0, r1, f_n, f_a]

theorem stga (i : BitVec 4) (d : BitVec 6) : Statement (.stga i d) := by
  intro wd hy
  have b_i := i.isLt
  have b_d := d.isLt
  have hw : wd.toNat = 0xD9000000 + i.toNat * 2 ^ 18 + d.toNat * 2 ^ 12 := by
    unfold encode at hy
    injection hy with hy
    rw [← hy, wordOf_cons, wordOf_cons, wordOf_nil]; omega
  have ho : opcodeOf wd = 0xD9 := by unfold opcodeOf; omega
  have r0 : rsv wd 0 12 = 0 := by unfold rsv; omega
  have r1 : rsv wd 22 2 = 0 := by unfold rsv; omega
  have f_i : fld wd 18 4 = i := fld_eq (by omega)
  have f_d : fld wd 12 6 = d := fld_eq (by omega)
  clear hy
  simp [decode, ho, decodeEngine, accept, r0, r1, f_i, f_d]

theorem stgc (i : BitVec 4) : Statement (.stgc i) := by
  intro wd hy
  have b_i := i.isLt
  have hw : wd.toNat = 0xDA000000 + i.toNat * 2 ^ 18 := by
    unfold encode at hy
    injection hy with hy
    rw [← hy, wordOf_cons, wordOf_nil]; omega
  have ho : opcodeOf wd = 0xDA := by unfold opcodeOf; omega
  have r0 : rsv wd 0 18 = 0 := by unfold rsv; omega
  have r1 : rsv wd 22 2 = 0 := by unfold rsv; omega
  have f_i : fld wd 18 4 = i := fld_eq (by omega)
  clear hy
  simp [decode, ho, decodeEngine, accept, r0, r1, f_i]

theorem stgw (i : BitVec 4) (d : BitVec 6) : Statement (.stgw i d) := by
  intro wd hy
  have b_i := i.isLt
  have b_d := d.isLt
  have hw : wd.toNat = 0xDB000000 + i.toNat * 2 ^ 18 + d.toNat * 2 ^ 12 := by
    unfold encode at hy
    injection hy with hy
    rw [← hy, wordOf_cons, wordOf_cons, wordOf_nil]; omega
  have ho : opcodeOf wd = 0xDB := by unfold opcodeOf; omega
  have r0 : rsv wd 0 12 = 0 := by unfold rsv; omega
  have r1 : rsv wd 22 2 = 0 := by unfold rsv; omega
  have f_i : fld wd 18 4 = i := fld_eq (by omega)
  have f_d : fld wd 12 6 = d := fld_eq (by omega)
  clear hy
  simp [decode, ho, decodeEngine, accept, r0, r1, f_i, f_d]

theorem stgf (i : BitVec 4) : Statement (.stgf i) := by
  intro wd hy
  have b_i := i.isLt
  have hw : wd.toNat = 0xDC000000 + i.toNat * 2 ^ 18 := by
    unfold encode at hy
    injection hy with hy
    rw [← hy, wordOf_cons, wordOf_nil]; omega
  have ho : opcodeOf wd = 0xDC := by unfold opcodeOf; omega
  have r0 : rsv wd 0 18 = 0 := by unfold rsv; omega
  have r1 : rsv wd 22 2 = 0 := by unfold rsv; omega
  have f_i : fld wd 18 4 = i := fld_eq (by omega)
  clear hy
  simp [decode, ho, decodeEngine, accept, r0, r1, f_i]

theorem cbar : Statement .cbar := by
  intro wd hy
  obtain rfl := Option.some.inj hy
  rfl

theorem emit (s : BitVec 6) (r : BitVec 6) : Statement (.emit s r) := by
  intro wd hy
  have b_s := s.isLt
  have b_r := r.isLt
  have hw : wd.toNat = 0xDE000000 + s.toNat * 2 ^ 12 + r.toNat * 2 ^ 6 := by
    unfold encode at hy
    injection hy with hy
    rw [← hy, wordOf_cons, wordOf_cons, wordOf_nil]; omega
  have ho : opcodeOf wd = 0xDE := by unfold opcodeOf; omega
  have r0 : rsv wd 0 6 = 0 := by unfold rsv; omega
  have r1 : rsv wd 18 6 = 0 := by unfold rsv; omega
  have f_s : fld wd 12 6 = s := fld_eq (by omega)
  have f_r : fld wd 6 6 = r := fld_eq (by omega)
  clear hy
  simp [decode, ho, decodeEngine, accept, r0, r1, f_s, f_r]

theorem edgrd (k : BitVec 2) (d : BitVec 6) (b : BitVec 6) : Statement (.edgrd k d b) := by
  intro wd hy
  have b_k := k.isLt
  have b_d := d.isLt
  have b_b := b.isLt
  have hw : wd.toNat = 0xDF000000 + k.toNat * 2 ^ 22 + d.toNat * 2 ^ 12 + b.toNat * 2 ^ 6 := by
    unfold encode at hy
    injection hy with hy
    rw [← hy, wordOf_cons, wordOf_cons, wordOf_cons, wordOf_nil]; omega
  have ho : opcodeOf wd = 0xDF := by unfold opcodeOf; omega
  have r0 : rsv wd 0 6 = 0 := by unfold rsv; omega
  have r1 : rsv wd 18 4 = 0 := by unfold rsv; omega
  have f_k : fld wd 22 2 = k := fld_eq (by omega)
  have f_d : fld wd 12 6 = d := fld_eq (by omega)
  have f_b : fld wd 6 6 = b := fld_eq (by omega)
  clear hy
  simp [decode, ho, decodeEngine, accept, r0, r1, f_k, f_d, f_b]

theorem trap (n : BitVec 6) (a : BitVec 6) : Statement (.trap n a) := by
  intro wd hy
  have b_n := n.isLt
  have b_a := a.isLt
  have hw : wd.toNat = 0xE0000000 + n.toNat * 2 ^ 18 + a.toNat * 2 ^ 12 := by
    unfold encode at hy
    injection hy with hy
    rw [← hy, wordOf_cons, wordOf_cons, wordOf_nil]; omega
  have ho : opcodeOf wd = 0xE0 := by unfold opcodeOf; omega
  have r0 : rsv wd 0 12 = 0 := by unfold rsv; omega
  have f_n : fld wd 18 6 = n := fld_eq (by omega)
  have f_a : fld wd 12 6 = a := fld_eq (by omega)
  clear hy
  simp [decode, ho, decodeSystem, accept, r0, f_n, f_a]

theorem tret : Statement .tret := by
  intro wd hy
  obtain rfl := Option.some.inj hy
  rfl

theorem srd (n : BitVec 6) (d : BitVec 6) : Statement (.srd n d) := by
  intro wd hy
  have b_n := n.isLt
  have b_d := d.isLt
  have hw : wd.toNat = 0xE2000000 + n.toNat * 2 ^ 18 + d.toNat * 2 ^ 12 := by
    unfold encode at hy
    injection hy with hy
    rw [← hy, wordOf_cons, wordOf_cons, wordOf_nil]; omega
  have ho : opcodeOf wd = 0xE2 := by unfold opcodeOf; omega
  have r0 : rsv wd 0 12 = 0 := by unfold rsv; omega
  have f_n : fld wd 18 6 = n := fld_eq (by omega)
  have f_d : fld wd 12 6 = d := fld_eq (by omega)
  clear hy
  simp [decode, ho, decodeSystem, accept, r0, f_n, f_d]

theorem swr (n : BitVec 6) (a : BitVec 6) : Statement (.swr n a) := by
  intro wd hy
  have b_n := n.isLt
  have b_a := a.isLt
  have hw : wd.toNat = 0xE3000000 + n.toNat * 2 ^ 18 + a.toNat * 2 ^ 12 := by
    unfold encode at hy
    injection hy with hy
    rw [← hy, wordOf_cons, wordOf_cons, wordOf_nil]; omega
  have ho : opcodeOf wd = 0xE3 := by unfold opcodeOf; omega
  have r0 : rsv wd 0 12 = 0 := by unfold rsv; omega
  have f_n : fld wd 18 6 = n := fld_eq (by omega)
  have f_a : fld wd 12 6 = a := fld_eq (by omega)
  clear hy
  simp [decode, ho, decodeSystem, accept, r0, f_n, f_a]

theorem halt (a : BitVec 6) : Statement (.halt a) := by
  intro wd hy
  have b_a := a.isLt
  have hw : wd.toNat = 0xE4000000 + a.toNat * 2 ^ 12 := by
    unfold encode at hy
    injection hy with hy
    rw [← hy, wordOf_cons, wordOf_nil]; omega
  have ho : opcodeOf wd = 0xE4 := by unfold opcodeOf; omega
  have r0 : rsv wd 0 12 = 0 := by unfold rsv; omega
  have r1 : rsv wd 18 6 = 0 := by unfold rsv; omega
  have f_a : fld wd 12 6 = a := fld_eq (by omega)
  clear hy
  simp [decode, ho, decodeSystem, accept, r0, r1, f_a]

theorem bkpt (n : BitVec 6) : Statement (.bkpt n) := by
  intro wd hy
  have b_n := n.isLt
  have hw : wd.toNat = 0xE5000000 + n.toNat * 2 ^ 18 := by
    unfold encode at hy
    injection hy with hy
    rw [← hy, wordOf_cons, wordOf_nil]; omega
  have ho : opcodeOf wd = 0xE5 := by unfold opcodeOf; omega
  have r0 : rsv wd 0 18 = 0 := by unfold rsv; omega
  have f_n : fld wd 18 6 = n := fld_eq (by omega)
  clear hy
  simp [decode, ho, decodeSystem, accept, r0, f_n]

theorem trcm (d : BitVec 6) (a : BitVec 6) : Statement (.trcm d a) := by
  intro wd hy
  have b_d := d.isLt
  have b_a := a.isLt
  have hw : wd.toNat = 0xE6000000 + d.toNat * 2 ^ 12 + a.toNat * 2 ^ 6 := by
    unfold encode at hy
    injection hy with hy
    rw [← hy, wordOf_cons, wordOf_cons, wordOf_nil]; omega
  have ho : opcodeOf wd = 0xE6 := by unfold opcodeOf; omega
  have r0 : rsv wd 0 6 = 0 := by unfold rsv; omega
  have r1 : rsv wd 18 6 = 0 := by unfold rsv; omega
  have f_d : fld wd 12 6 = d := fld_eq (by omega)
  have f_a : fld wd 6 6 = a := fld_eq (by omega)
  clear hy
  simp [decode, ho, decodeSystem, accept, r0, r1, f_d, f_a]

theorem trcc (k : BitVec 2) : Statement (.trcc k) := by
  intro wd hy
  have b_k := k.isLt
  have hw : wd.toNat = 0xE7000000 + k.toNat * 2 ^ 22 := by
    unfold encode at hy
    injection hy with hy
    rw [← hy, wordOf_cons, wordOf_nil]; omega
  have ho : opcodeOf wd = 0xE7 := by unfold opcodeOf; omega
  have r0 : rsv wd 0 22 = 0 := by unfold rsv; omega
  have f_k : fld wd 22 2 = k := fld_eq (by omega)
  clear hy
  simp [decode, ho, decodeSystem, accept, r0, f_k]

theorem acct (d : BitVec 6) (a : BitVec 6) : Statement (.acct d a) := by
  intro wd hy
  have b_d := d.isLt
  have b_a := a.isLt
  have hw : wd.toNat = 0xE8000000 + d.toNat * 2 ^ 12 + a.toNat * 2 ^ 6 := by
    unfold encode at hy
    injection hy with hy
    rw [← hy, wordOf_cons, wordOf_cons, wordOf_nil]; omega
  have ho : opcodeOf wd = 0xE8 := by unfold opcodeOf; omega
  have r0 : rsv wd 0 6 = 0 := by unfold rsv; omega
  have r1 : rsv wd 18 6 = 0 := by unfold rsv; omega
  have f_d : fld wd 12 6 = d := fld_eq (by omega)
  have f_a : fld wd 6 6 = a := fld_eq (by omega)
  clear hy
  simp [decode, ho, decodeSystem, accept, r0, r1, f_d, f_a]

theorem tlbi (k : BitVec 2) (a : BitVec 6) (b : BitVec 6) : Statement (.tlbi k a b) := by
  intro wd hy
  have b_k := k.isLt
  have b_a := a.isLt
  have b_b := b.isLt
  have hw : wd.toNat = 0xE9000000 + k.toNat * 2 ^ 22 + a.toNat * 2 ^ 12 + b.toNat * 2 ^ 6 := by
    unfold encode at hy
    injection hy with hy
    rw [← hy, wordOf_cons, wordOf_cons, wordOf_cons, wordOf_nil]; omega
  have ho : opcodeOf wd = 0xE9 := by unfold opcodeOf; omega
  have r0 : rsv wd 0 6 = 0 := by unfold rsv; omega
  have r1 : rsv wd 18 4 = 0 := by unfold rsv; omega
  have f_k : fld wd 22 2 = k := fld_eq (by omega)
  have f_a : fld wd 12 6 = a := fld_eq (by omega)
  have f_b : fld wd 6 6 = b := fld_eq (by omega)
  clear hy
  simp [decode, ho, decodeSystem, accept, r0, r1, f_k, f_a, f_b]

theorem watch (w : BitVec 2) (a : BitVec 6) (b : BitVec 6) : Statement (.watch w a b) := by
  intro wd hy
  have b_w := w.isLt
  have b_a := a.isLt
  have b_b := b.isLt
  have hw : wd.toNat = 0xEA000000 + w.toNat * 2 ^ 18 + a.toNat * 2 ^ 12 + b.toNat * 2 ^ 6 := by
    unfold encode at hy
    injection hy with hy
    rw [← hy, wordOf_cons, wordOf_cons, wordOf_cons, wordOf_nil]; omega
  have ho : opcodeOf wd = 0xEA := by unfold opcodeOf; omega
  have r0 : rsv wd 0 6 = 0 := by unfold rsv; omega
  have r1 : rsv wd 20 4 = 0 := by unfold rsv; omega
  have f_w : fld wd 18 2 = w := fld_eq (by omega)
  have f_a : fld wd 12 6 = a := fld_eq (by omega)
  have f_b : fld wd 6 6 = b := fld_eq (by omega)
  clear hy
  simp [decode, ho, decodeSystem, accept, r0, r1, f_w, f_a, f_b]

theorem imm (i : BitVec 24) : Statement (.imm i) := by
  intro wd hy
  have b_i := i.isLt
  have hw : wd.toNat = 0xF0000000 + i.toNat * 2 ^ 0 := by
    unfold encode at hy
    injection hy with hy
    rw [← hy, wordOf_cons, wordOf_nil]; omega
  have ho : opcodeOf wd = 0xF0 := by unfold opcodeOf; omega
  have f_i : fld wd 0 24 = i := fld_eq (by omega)
  clear hy
  simp [decode, ho, decodePrefix, f_i]

theorem imm2 (i : BitVec 24) : Statement (.imm2 i) := by
  intro wd hy
  have b_i := i.isLt
  have hw : wd.toNat = 0xF1000000 + i.toNat * 2 ^ 0 := by
    unfold encode at hy
    injection hy with hy
    rw [← hy, wordOf_cons, wordOf_nil]; omega
  have ho : opcodeOf wd = 0xF1 := by unfold opcodeOf; omega
  have f_i : fld wd 0 24 = i := fld_eq (by omega)
  clear hy
  simp [decode, ho, decodePrefix, f_i]

theorem mod (s : BitVec 1) (c : BitVec 1) (a : BitVec 1) (b : BitVec 1) (x : BitVec 1) (y : BitVec 1) (n : BitVec 1) (e : BitVec 6) (m : BitVec 2) : Statement (.mod s c a b x y n e m) := by
  intro wd hy
  have b_s := s.isLt
  have b_c := c.isLt
  have b_a := a.isLt
  have b_b := b.isLt
  have b_x := x.isLt
  have b_y := y.isLt
  have b_n := n.isLt
  have b_e := e.isLt
  have b_m := m.isLt
  have hw : wd.toNat = 0xF2000000 + s.toNat * 2 ^ 23 + c.toNat * 2 ^ 22 + a.toNat * 2 ^ 21 + b.toNat * 2 ^ 20 + x.toNat * 2 ^ 19 + y.toNat * 2 ^ 18 + n.toNat * 2 ^ 17 + e.toNat * 2 ^ 11 + m.toNat * 2 ^ 9 := by
    unfold encode at hy
    injection hy with hy
    rw [← hy, wordOf_cons, wordOf_cons, wordOf_cons, wordOf_cons, wordOf_cons, wordOf_cons, wordOf_cons, wordOf_cons, wordOf_cons, wordOf_nil]; omega
  have ho : opcodeOf wd = 0xF2 := by unfold opcodeOf; omega
  have r0 : rsv wd 0 9 = 0 := by unfold rsv; omega
  have f_s : fld wd 23 1 = s := fld_eq (by omega)
  have f_c : fld wd 22 1 = c := fld_eq (by omega)
  have f_a : fld wd 21 1 = a := fld_eq (by omega)
  have f_b : fld wd 20 1 = b := fld_eq (by omega)
  have f_x : fld wd 19 1 = x := fld_eq (by omega)
  have f_y : fld wd 18 1 = y := fld_eq (by omega)
  have f_n : fld wd 17 1 = n := fld_eq (by omega)
  have f_e : fld wd 11 6 = e := fld_eq (by omega)
  have f_m : fld wd 9 2 = m := fld_eq (by omega)
  clear hy
  simp [decode, ho, decodePrefix, accept, r0, f_s, f_c, f_a, f_b, f_x, f_y, f_n, f_e, f_m]

theorem hintJoin (j : BitVec 20) : Statement (.hintJoin j) := by
  intro wd hy
  have b_j := j.isLt
  have hw : wd.toNat = 0xF3000000 + j.toNat * 2 ^ 0 := by
    unfold encode at hy
    injection hy with hy
    rw [← hy, wordOf_cons, wordOf_nil]; omega
  have ho : opcodeOf wd = 0xF3 := by unfold opcodeOf; omega
  have rk : rsv wd 20 4 = 0 := by unfold rsv; omega
  have f_j : fld wd 0 20 = j := fld_eq (by omega)
  clear hy
  simp [decode, ho, decodePrefix, rk, f_j]

theorem hintStall (n : BitVec 8) : Statement (.hintStall n) := by
  intro wd hy
  have b_n := n.isLt
  have hw : wd.toNat = 0xF3100000 + n.toNat * 2 ^ 12 := by
    unfold encode at hy
    injection hy with hy
    rw [← hy, wordOf_cons, wordOf_nil]; omega
  have ho : opcodeOf wd = 0xF3 := by unfold opcodeOf; omega
  have r0 : rsv wd 0 12 = 0 := by unfold rsv; omega
  have rk : rsv wd 20 4 = 1 := by unfold rsv; omega
  have f_n : fld wd 12 8 = n := fld_eq (by omega)
  clear hy
  simp [decode, ho, decodePrefix, accept, r0, rk, f_n]

theorem hintReuse (a : BitVec 1) (b : BitVec 1) : Statement (.hintReuse a b) := by
  intro wd hy
  have b_a := a.isLt
  have b_b := b.isLt
  have hw : wd.toNat = 0xF3200000 + a.toNat * 2 ^ 19 + b.toNat * 2 ^ 18 := by
    unfold encode at hy
    injection hy with hy
    rw [← hy, wordOf_cons, wordOf_cons, wordOf_nil]; omega
  have ho : opcodeOf wd = 0xF3 := by unfold opcodeOf; omega
  have r0 : rsv wd 0 18 = 0 := by unfold rsv; omega
  have rk : rsv wd 20 4 = 2 := by unfold rsv; omega
  have f_a : fld wd 19 1 = a := fld_eq (by omega)
  have f_b : fld wd 18 1 = b := fld_eq (by omega)
  clear hy
  simp [decode, ho, decodePrefix, accept, r0, rk, f_a, f_b]

theorem hintTrace (t : BitVec 16) : Statement (.hintTrace t) := by
  intro wd hy
  have b_t := t.isLt
  have hw : wd.toNat = 0xF3300000 + t.toNat * 2 ^ 0 := by
    unfold encode at hy
    injection hy with hy
    rw [← hy, wordOf_cons, wordOf_nil]; omega
  have ho : opcodeOf wd = 0xF3 := by unfold opcodeOf; omega
  have r0 : rsv wd 16 4 = 0 := by unfold rsv; omega
  have rk : rsv wd 20 4 = 3 := by unfold rsv; omega
  have f_t : fld wd 0 16 = t := fld_eq (by omega)
  clear hy
  simp [decode, ho, decodePrefix, accept, r0, rk, f_t]

theorem hintOrd (o : BitVec 3) (s : BitVec 3) : Statement (.hintOrd o s) := by
  intro wd hy
  have b_o := o.isLt
  have b_s := s.isLt
  have hw : wd.toNat = 0xF3400000 + o.toNat * 2 ^ 17 + s.toNat * 2 ^ 14 := by
    unfold encode at hy
    injection hy with hy
    rw [← hy, wordOf_cons, wordOf_cons, wordOf_nil]; omega
  have ho : opcodeOf wd = 0xF3 := by unfold opcodeOf; omega
  have r0 : rsv wd 0 14 = 0 := by unfold rsv; omega
  have rk : rsv wd 20 4 = 4 := by unfold rsv; omega
  have f_o : fld wd 17 3 = o := fld_eq (by omega)
  have f_s : fld wd 14 3 = s := fld_eq (by omega)
  clear hy
  simp [decode, ho, decodePrefix, accept, r0, rk, f_o, f_s]

theorem doorbell (m : BitVec 6) (addr : W64) (host : Bool) : Statement (.doorbell m addr host) := fun _ h => by cases h

theorem load (m : BitVec 6) (choice : Placement) : Statement (.load m choice) := fun _ h => by cases h

theorem launch (m : BitVec 6) : Statement (.launch m) := fun _ h => by cases h

theorem free (m : BitVec 6) : Statement (.free m) := fun _ h => by cases h

theorem extend (m : BitVec 6) : Statement (.extend m) := fun _ h => by cases h

theorem setage (m : BitVec 6) : Statement (.setage m) := fun _ h => by cases h

theorem pooladd (m : BitVec 6) : Statement (.pooladd m) := fun _ h => by cases h

theorem reserve (m : BitVec 6) : Statement (.reserve m) := fun _ h => by cases h

theorem bind (m : BitVec 6) : Statement (.bind m) := fun _ h => by cases h

theorem unbind (m : BitVec 6) : Statement (.unbind m) := fun _ h => by cases h

theorem buffer (m : BitVec 6) : Statement (.buffer m) := fun _ h => by cases h

theorem attach (m : BitVec 6) : Statement (.attach m) := fun _ h => by cases h

theorem stop (m : BitVec 6) : Statement (.stop m) := fun _ h => by cases h

theorem resume (m : BitVec 6) : Statement (.resume m) := fun _ h => by cases h

theorem arm (m : BitVec 6) : Statement (.arm m) := fun _ h => by cases h

theorem terminate (m : BitVec 6) : Statement (.terminate m) := fun _ h => by cases h

theorem detach (m : BitVec 6) : Statement (.detach m) := fun _ h => by cases h

theorem gangExitComplete (core : Nat) (gang : Nat) : Statement (.gangExitComplete core gang) := fun _ h => by cases h

theorem dispatch (die : Nat) : Statement (.dispatch die) := fun _ h => by cases h

theorem ageing (entry : Nat) : Statement (.ageing entry) := fun _ h => by cases h

theorem contextSave (core : Nat) : Statement (.contextSave core) := fun _ h => by cases h

theorem coalesceTimeout (launch : Nat) (node : Nat) : Statement (.coalesceTimeout launch node) := fun _ h => by cases h

theorem racqGrant (core : Nat) (quad : Nat) : Statement (.racqGrant core quad) := fun _ h => by cases h

theorem regStarvation (core : Nat) (gang : Nat) : Statement (.regStarvation core gang) := fun _ h => by cases h

theorem blockReturn (core : Nat) (gang : Nat) (split : Nat) : Statement (.blockReturn core gang split) := fun _ h => by cases h

theorem dualPathPop (core : Nat) (gang : Nat) (slice : Nat) : Statement (.dualPathPop core gang slice) := fun _ h => by cases h

theorem loadReturn (core : Nat) (gang : Nat) (index : Nat) : Statement (.loadReturn core gang index) := fun _ h => by cases h

theorem matrixCommandStart (core : Nat) : Statement (.matrixCommandStart core) := fun _ h => by cases h

theorem matrixCommandRetire (core : Nat) : Statement (.matrixCommandRetire core) := fun _ h => by cases h

theorem matrixFetchFault (core : Nat) : Statement (.matrixFetchFault core) := fun _ h => by cases h

theorem synchronousReply (core : Nat) (gang : Nat) : Statement (.synchronousReply core gang) := fun _ h => by cases h

theorem copyCommandStart (core : Nat) : Statement (.copyCommandStart core) := fun _ h => by cases h

theorem unitLand (core : Nat) (unit : Nat) : Statement (.unitLand core unit) := fun _ h => by cases h

theorem copyFault (core : Nat) (unit : Nat) : Statement (.copyFault core unit) := fun _ h => by cases h

theorem transformStart (core : Nat) : Statement (.transformStart core) := fun _ h => by cases h

theorem transformReply (core : Nat) : Statement (.transformReply core) := fun _ h => by cases h

theorem faultService (core : Nat) (gang : Nat) (act : FaultAct) : Statement (.faultService core gang act) := fun _ h => by cases h

theorem commandFaultService (core : Nat) (engine : Engine) (act : CmdAct) : Statement (.commandFaultService core engine act) := fun _ h => by cases h

theorem backingService (core : Nat) (gang : Nat) (act : BackAct) : Statement (.backingService core gang act) := fun _ h => by cases h

theorem engineBackingWait (core : Nat) (engine : Engine) (act : EngBackAct) : Statement (.engineBackingWait core engine act) := fun _ h => by cases h

theorem integrityService (core : Nat) (gang : Option Nat) : Statement (.integrityService core gang) := fun _ h => by cases h

theorem errorCorrection (e : SoftErr) : Statement (.errorCorrection e) := fun _ h => by cases h

theorem blockedWaitRelease (core : Nat) (gang : Nat) (split : Nat) : Statement (.blockedWaitRelease core gang split) := fun _ h => by cases h

theorem edgeLossWrite (die : Nat) : Statement (.edgeLossWrite die) := fun _ h => by cases h

theorem stopDelivery (core : Nat) (gang : Nat) : Statement (.stopDelivery core gang) := fun _ h => by cases h

theorem ifenceDiscard (core : Nat) (gang : Nat) (split : Nat) : Statement (.ifenceDiscard core gang split) := fun _ h => by cases h

theorem tlbiRemove (core : Nat) (gang : Nat) (split : Nat) : Statement (.tlbiRemove core gang split) := fun _ h => by cases h

theorem pageSecondsTick : Statement (.pageSecondsTick) := fun _ h => by cases h

theorem traceSample (core : Nat) : Statement (.traceSample core) := fun _ h => by cases h

theorem collectorWrite (die : Nat) : Statement (.collectorWrite die) := fun _ h => by cases h

theorem freqUpdate (power : Nat) (allowed : Nat) (hot : Bool) : Statement (.freqUpdate power allowed hot) := fun _ h => by cases h

theorem timeSync (slew : Int) : Statement (.timeSync slew) := fun _ h => by cases h

theorem fabricPacket (port : BitVec 4) (p : FabPacket) : Statement (.fabricPacket port p) := fun _ h => by cases h

theorem portFailure (port : BitVec 4) (routes : List (Nat × Nat)) : Statement (.portFailure port routes) := fun _ h => by cases h

theorem preqIdle : Statement (.preqIdle) := fun _ h => by cases h

theorem preqDeep : Statement (.preqDeep) := fun _ h => by cases h

theorem preqActive : Statement (.preqActive) := fun _ h => by cases h

theorem preqOff : Statement (.preqOff) := fun _ h => by cases h

theorem pstateChange : Statement (.pstateChange) := fun _ h => by cases h

theorem registerWrite (w : W64) : Statement (.registerWrite w) := fun _ h => by cases h

theorem bar2Access (b : Bar2) : Statement (.bar2Access b) := fun _ h => by cases h

theorem reset (strap : Bool) (stages : List Stage) : Statement (.reset strap stages) := fun _ h => by cases h

theorem tenantDebugToken (m : BitVec 6) (tenant : Nat) (nonce : Nat) (expiry : W64) (sig : Nat) : Statement (.tenantDebugToken m tenant nonce expiry sig) := fun _ h => by cases h

theorem vendorDebugToken (sig : Nat) : Statement (.vendorDebugToken sig) := fun _ h => by cases h

theorem tokenExpiry (m : BitVec 6) : Statement (.tokenExpiry m) := fun _ h => by cases h

theorem tokenWithdrawal (m : BitVec 6) : Statement (.tokenWithdrawal m) := fun _ h => by cases h

theorem getVersion (t : Transport) : Statement (.getVersion t) := fun _ h => by cases h

theorem getCapabilities (t : Transport) : Statement (.getCapabilities t) := fun _ h => by cases h

theorem negotiateAlgorithms (t : Transport) : Statement (.negotiateAlgorithms t) := fun _ h => by cases h

theorem getDigests (t : Transport) : Statement (.getDigests t) := fun _ h => by cases h

theorem getCertificate (t : Transport) (offset : Nat) (length : Nat) : Statement (.getCertificate t offset length) := fun _ h => by cases h

theorem challenge (t : Transport) (nonce : Nat) : Statement (.challenge t nonce) := fun _ h => by cases h

theorem getMeasurements (t : Transport) (nonce : Nat) : Statement (.getMeasurements t nonce) := fun _ h => by cases h

theorem accountingSnapshot (domain : BitVec 8) (nonce : W64) : Statement (.accountingSnapshot domain nonce) := fun _ h => by cases h

theorem unassignedOpcode (w : Option W32) : Statement (.unassignedOpcode w) := fun _ h => by cases h

theorem rocev2Packet (port : BitVec 1) (r : RoceOp) : Statement (.rocev2Packet port r) := fun _ h => by cases h

end Sys2Proof.Laws.RoundTrip
end

