-- ==== Sys2Proof/WellFormed.lean ====
section
/-! DEFINITION. Which instructions are well formed: their fields hold only values that the spec assigns, whatever the state (05 R87 to R96 and the reference entries). An ill-formed one still decodes and is performed: it takes the trap that its entry names. Rows without a word are always well formed. -/

namespace Sys2Proof.WellFormed

/-- A source of a format-A instruction (05 R95); latches are sources of latch-class instructions only (01 R37). -/
def source (latches : Bool) (a : BitVec 8) : Bool :=
  a.toNat < 0x80 || (latches && 0x80 ≤ a.toNat && a.toNat < 0x84) || (0x84 ≤ a.toNat && a.toNat < 0x87) || 0x90 ≤ a.toNat

/-- A source that must be a vector register (09 R168, R172). -/
def vector (a : BitVec 8) : Bool := a.toNat < 0x80

/-- A source that must carry a tag: a register or a latch (09 R167, R171). -/
def tagged (a : BitVec 8) : Bool := a.toNat < 0x84

/-- A source that is the same in every lane: an inline integer or a scalar (09 R166, R172). -/
def uniform (a : BitVec 8) : Bool := 0x90 ≤ a.toNat

/-- A scalar source (05 R89). -/
def scalar (a : BitVec 8) : Bool := a.toNat < 0x80

/-- N = 1 leaves D zero (05 R88). -/
def suppress (n : BitVec 1) (d : BitVec 7) : Bool := n == 0 || d == 0

/-- A field that names a predicate (07 R144). -/
def pred {w : Nat} (x : BitVec w) : Bool := x.toNat < 8

/-- A field that names a scalar (07 R144). -/
def sreg {w : Nat} (x : BitVec w) : Bool := x.toNat < 64

/-- Latch-class: two sources. -/
def two (n : BitVec 1) (d : BitVec 7) (a b : BitVec 8) : Bool := suppress n d && source true a && source true b

/-- Latch-class: one source. -/
def one (n : BitVec 1) (d : BitVec 7) (a : BitVec 8) : Bool := suppress n d && source true a

/-- Latch-class with D as third source: N = 0 (05 R96). -/
def three (n : BitVec 1) (a b : BitVec 8) : Bool := n == 0 && source true a && source true b

/-- Data registers: `n` of them from v on, even for the wide widths (13 R218). -/
def data (v : BitVec 7) (n : Nat) (even : Bool) : Bool := v.toNat + n ≤ 128 && !(even && v.toNat % 2 == 1)

/-- Tags that a load of `w` bytes gives (05 R93, 13 R222). -/
def loadTag (w : Nat) (f : BitVec 4) : Bool :=
  if w ≤ 2 then f.toNat ≤ 2 else if w = 4 then f.toNat ≤ 10 else f.toNat ≤ 9 || f == 11 || f == 12

/-- Load of `w` bytes. -/
def load (w : Nat) (v : BitVec 7) (f : BitVec 4) : Bool := loadTag w f && data v ((w + 3) / 4) (8 ≤ w)

/-- Store of `w` bytes. -/
def store (w : Nat) (v : BitVec 7) (f : BitVec 4) : Bool :=
  (f == 0 || (f == 10 && w == 4)) && data v ((w + 3) / 4) (8 ≤ w)

/-- Target of a copy command: kinds 0 none, 1 barrier, 2 ring 0 to 3 (19 R281). -/
def copyTarget (k : BitVec 2) (i : BitVec 4) : Bool :=
  match k.toNat with
  | 0 => i == 0
  | 1 => true
  | 2 => i.toNat < 4
  | _ => false

/-- Scalar instruction of two sources. -/
def scalar2 (a b : BitVec 8) : Bool := scalar a && scalar b

/-- Every field holds an assigned value. -/
def check (i : Instr) : Bool :=
  match i with
  | .nop | .bra _ _ _ | .brc _ _ _ | .call _ _ _ | .ret _ _ _ | .jmpi _ _ _ _ | .exit _ _ | .yield | .regang _ => true
  | .skip _ _ n => n != 0
  | .loop _ _ c _ => c != 0
  | .plsw _ a => source false a
  | .plset a | .plmsk _ a => uniform a
  | .plocc _ | .racq | .rrel | .rlev _ => true
  | .rent i => i != 0
  | .pand d a b | .por d a b | .pxor d a b => pred d && pred a && pred b
  | .pnot d a | .pany d a | .pall d a => pred d && pred a
  | .ptos d a => sreg d && pred a
  | .pset d b => pred d && (vector b || uniform b)
  | .sadd _ a b | .ssub _ a b | .smul _ a b | .smulh _ _ a b | .sdiv _ _ a b | .srem _ _ a b | .sand _ a b | .sor _ a b
  | .sxor _ a b | .sshl _ a b | .sshr _ a b | .ssra _ a b | .smin _ _ a b | .smax _ _ a b | .scmp _ _ a b | .ssel _ a b
  | .slea _ _ a b | .sbfe _ _ a b => scalar2 a b
  | .smov _ b => scalar b
  | .smovi _ _ _ => true
  | .sclz _ a | .spop _ a => scalar a
  | .vadd n d a b | .vsub n d a b | .vmul n d a b | .vmulh n d a b | .vand n d a b | .vor n d a b | .vxor n d a b
  | .vshl n d a b | .vshr n d a b | .vsra n d a b | .vmin n d a b | .vmax n d a b | .vabsd n d a b | .vbfe n d a b
  | .fadd n d a b | .fsub n d a b | .fmul n d a b | .fmin n d a b | .fmax n d a b => two n d a b
  | .vmad n _ a b | .vbfi n _ a b | .vsel n _ a b | .ffma n _ a b | .fdot2 n _ a b => three n a b
  | .vclz n d a | .vpop n d a | .vmov n d a | .frcp n d a | .frsq n d a | .fexp2 n d a | .flog2 n d a | .fclass n d a => one n d a
  | .vcmp _ r _ a b => r.toNat < 6 && source true a && source true b
  | .fcmp _ _ _ a b => source true a && source true b
  | .cvt n d a b => suppress n d && tagged a && uniform b
  | .cvtl6 n d a b => suppress n d && a.toNat + 4 ≤ 128 && source true b
  | .l6scl n d a => suppress n d && a.toNat + 4 ≤ 128
  | .tagset n d a b => suppress n d && source true a && uniform b
  | .tagget n d a => suppress n d && tagged a
  | .pack n d a b => suppress n d && a.toNat + 2 ≤ 128 && uniform b
  | .unpk n d a b => n == 0 && d.toNat + 2 ≤ 128 && vector a && source true b
  | .vshfl _ a b => vector a && source false b
  | .vrot _ a b | .vbcst _ a b => vector a && uniform b
  | .vred _ a o | .vscan _ a _ o => vector a && o.toNat < 9
  | .vcmpt _ a _ => vector a
  | .vbal _ _ _ => true
  | .xtab _ _ _ | .xcrc _ _ _ => true
  | .xdec f _ _ _ => f.toNat < 60
  | .xsrt _ _ => true
  | .ldb v _ _ f => load 1 v f
  | .ldh v _ _ f => load 2 v f
  | .ldw v _ _ f => load 4 v f
  | .ldd v _ _ f => load 8 v f
  | .ldq v _ _ f => load 16 v f
  | .stb v _ _ f => store 1 v f
  | .sth v _ _ f => store 2 v f
  | .stw v _ _ f => store 4 v f
  | .std v _ _ f => store 8 v f
  | .stq v _ _ f => store 16 v f
  | .sld _ _ f => f.toNat < 7
  | .sst _ _ f => f.toNat < 4
  | .atom _ _ _ f => f.toNat < 11
  | .abnd _ _ _ => true
  | .acas v _ _ => v.toNat + 2 ≤ 128
  | .fence s _ => s.toNat < 6
  | .ifence | .pgenum _ _ | .pgstat _ _ => true
  | .prf _ _ f => f.toNat < 3
  | .rginfo f _ _ => f.toNat < 4
  | .opmap _ _ | .mma _ _ _ _ _ _ | .mmas _ _ _ _ _ _ | .mmac _ _ _ _ _ _ | .accz _ _ | .accld _ _ | .accst _ _ => true
  | .accrd _ _ | .accwr _ _ => true
  | .mstep w _ => w.toNat < 3
  | .cpy k i _ _ _ | .gath k i _ _ | .scat k i _ _ => copyTarget k i
  | .binit k i _ e => k.toNat < 3 && !(k == 2 && (e != 0 || 4 ≤ i.toNat))
  | .barv _ _ | .bexp _ _ | .bwait _ _ => true
  | .btest k i _ => k == 0 || (k == 2 && i.toNat < 4)
  | .cwait _ _ => true
  | .stga i _ | .stgc i | .stgw i _ | .stgf i => i.toNat < 4
  | .cbar | .emit _ _ => true
  | .edgrd k _ b => !(k == 0 && b != 0)
  | .trap _ _ | .tret | .halt _ | .bkpt _ | .trcm _ _ | .acct _ _ | .watch _ _ _ => true
  | .srd n _ => n.toNat < 20
  | .swr n _ => n == 9 || n == 10 || n == 16 || n == 18 || n == 19
  | .trcc k => k.toNat < 2
  | .tlbi k a b => k.toNat < 3 && !(k != 0 && a != 0) && !(k == 2 && b != 0)
  | .imm _ | .imm2 _ | .mod _ _ _ _ _ _ _ _ _ | .hintJoin _ | .hintStall _ | .hintReuse _ _ | .hintTrace _ => true
  | .hintOrd o s => 1 ≤ o.toNat && o.toNat ≤ 4 && s.toNat ≤ 5
  | .doorbell _ _ _ | .load _ _ | .launch _ | .free _ | .extend _ | .setage _ | .pooladd _ | .reserve _ | .bind _ | .unbind _
  | .buffer _ | .attach _ | .stop _ | .resume _ | .arm _ | .terminate _ | .detach _ | .gangExitComplete _ _ | .dispatch _
  | .ageing _ | .contextSave _ | .coalesceTimeout _ _ | .racqGrant _ _ | .regStarvation _ _ | .blockReturn _ _ _
  | .dualPathPop _ _ _ | .loadReturn _ _ _ | .matrixCommandStart _ | .matrixCommandRetire _ | .matrixFetchFault _
  | .synchronousReply _ _ | .copyCommandStart _ | .unitLand _ _ | .copyFault _ _ | .transformStart _ | .transformReply _
  | .faultService _ _ _ | .commandFaultService _ _ _ | .backingService _ _ _ | .engineBackingWait _ _ _ | .integrityService _ _
  | .errorCorrection _ | .blockedWaitRelease _ _ _ | .edgeLossWrite _ | .stopDelivery _ _ | .ifenceDiscard _ _ _
  | .tlbiRemove _ _ _ | .pageSecondsTick | .traceSample _ | .collectorWrite _ | .freqUpdate _ _ _ | .timeSync _
  | .fabricPacket _ _ | .portFailure _ _ | .preqIdle | .preqDeep | .preqActive | .preqOff | .pstateChange | .registerWrite _
  | .bar2Access _ | .reset _ _ | .tenantDebugToken _ _ _ _ _ | .vendorDebugToken _ | .tokenExpiry _ | .tokenWithdrawal _
  | .getVersion _ | .getCapabilities _ | .negotiateAlgorithms _ | .getDigests _ | .getCertificate _ _ _ | .challenge _ _
  | .getMeasurements _ _ | .accountingSnapshot _ _ | .unassignedOpcode _ | .rocev2Packet _ _ => true

end Sys2Proof.WellFormed

namespace Sys2Proof

/-- The instruction is well formed. -/
abbrev Instr.WellFormed (i : Instr) : Prop := WellFormed.check i = true

end Sys2Proof
end

