-- ==== Sys2Proof/Tests/Slice0.lean ====
section
/-! SUPPORT. Small tests: an ill-formed term for each check, words written out from the spec's encodings and examples, one step of a placed word, and a state that meets the hypotheses of each statement. -/

set_option exponentiation.threshold 4096

namespace Sys2Proof.Tests

open Sys2Proof.Machine
open Sys2Proof.WellFormed (check)

/-! ### Well-formedness: each check refuses an ill-formed term -/

theorem test_refuses_control :
    check (.skip 1 0 0) = false ∧ check (.loop 0 0 0 1) = false ∧ check (.plsw 0 0x80) = false ∧ check (.plset 5) = false ∧
    check (.plmsk 1 0x84) = false ∧ check (.rent 0) = false := by decide

theorem test_refuses_predicates_scalars :
    check (.pand 8 1 1) = false ∧ check (.por 1 8 1) = false ∧ check (.pxor 1 1 8) = false ∧ check (.pnot 1 8) = false ∧
    check (.pany 9 1) = false ∧ check (.pall 1 9) = false ∧ check (.ptos 64 1) = false ∧ check (.pset 1 0x80) = false ∧
    check (.sadd 1 0x80 0) = false ∧ check (.sbfe 0 1 0 0xC0) = false ∧ check (.smov 1 0x80) = false ∧ check (.sclz 1 0x80) = false := by
  decide

theorem test_refuses_vector :
    check (.vadd 1 1 1 1) = false ∧ check (.vadd 0 1 0x87 1) = false ∧ check (.fadd 0 1 1 0x88) = false ∧ check (.vmad 1 0 1 1) = false ∧
    check (.fdot2 1 0 1 1) = false ∧ check (.vclz 0 1 0x87) = false ∧ check (.vcmp 0 6 1 1 1) = false ∧ check (.fcmp 0 0 1 0x87 1) = false ∧
    check (.cvt 0 1 0x84 0x91) = false ∧ check (.cvtl6 0 1 125 1) = false ∧ check (.l6scl 0 1 125) = false ∧ check (.tagset 0 1 1 1) = false ∧
    check (.tagget 0 1 0x90) = false ∧ check (.pack 0 1 127 0x95) = false ∧ check (.unpk 0 127 1 1) = false := by decide

theorem test_refuses_lanes :
    check (.vshfl 1 0x80 1) = false ∧ check (.vshfl 1 1 0x80) = false ∧ check (.vrot 1 1 1) = false ∧ check (.vbcst 1 0x90 0x90) = false ∧
    check (.vred 1 1 9) = false ∧ check (.vscan 1 1 0 9) = false ∧ check (.vcmpt 1 0x90 1) = false ∧ check (.xdec 60 1 1 1) = false := by
  decide

theorem test_refuses_memory :
    check (.ldb 1 1 1 3) = false ∧ check (.ldh 1 1 1 3) = false ∧ check (.ldw 1 1 1 11) = false ∧ check (.ldd 1 1 1 0) = false ∧
    check (.ldq 126 1 1 0) = false ∧ check (.ldd 2 1 1 10) = false ∧ check (.stb 1 1 1 10) = false ∧ check (.sth 1 1 1 1) = false ∧
    check (.stw 1 1 1 9) = false ∧ check (.std 1 1 1 0) = false ∧ check (.stq 126 1 1 0) = false ∧ check (.sld 1 1 7) = false ∧
    check (.sst 1 1 4) = false ∧ check (.atom 1 1 1 11) = false ∧ check (.acas 127 1 1) = false ∧ check (.fence 6 0) = false ∧
    check (.prf 1 1 3) = false ∧ check (.rginfo 4 1 1) = false := by decide

theorem test_refuses_engines_system :
    check (.mstep 3 1) = false ∧ check (.cpy 3 0 1 1 1) = false ∧ check (.cpy 0 1 1 1 1) = false ∧ check (.gath 2 4 1 1) = false ∧
    check (.scat 3 0 1 1) = false ∧ check (.binit 3 0 1 0) = false ∧ check (.binit 2 4 1 0) = false ∧ check (.btest 1 0 1) = false ∧
    check (.btest 2 4 1) = false ∧ check (.stga 4 1) = false ∧ check (.stgc 4) = false ∧ check (.stgw 4 1) = false ∧
    check (.stgf 4) = false ∧ check (.edgrd 0 1 1) = false ∧ check (.srd 20 1) = false ∧ check (.swr 11 1) = false ∧
    check (.trcc 2) = false ∧ check (.tlbi 3 0 0) = false ∧ check (.tlbi 1 1 0) = false ∧ check (.tlbi 2 0 1) = false ∧
    check (.hintOrd 0 0) = false ∧ check (.hintOrd 1 6) = false := by decide

theorem test_accepts :
    check (.skip 1 0 7) = true ∧ check (.sadd 63 0x7F 0) = true ∧ check (.vadd 1 0 0x83 0xFF) = true ∧ check (.ldq 124 1 127 12) = true ∧
    check (.cpy 2 3 1 1 1) = true ∧ check (.tlbi 0 1 1) = true ∧ check (.hintOrd 4 5) = true := by decide

/-! ### Decoding: words of the spec's encoding tables and examples -/

/-- 07, examples of the reference entries, and BRA, CALL, JMPI, LOOP, PLSW, PLSET, PLMSK, PLOCC and the predicate rows laid out bit by bit. -/
theorem test_decode_control :
    decode 0x00000000 = .ok .nop ∧ decode 0xF3000009 = .ok (.hintJoin 9) ∧ decode 0x02400005 = .ok (.brc 2 0 5) ∧
    decode 0x03300003 = .ok (.skip 1 1 3) ∧ decode 0x0500003F = .ok (.ret 0 0 63) ∧ decode 0x07600000 = .ok (.exit 3 0) ∧
    decode 0x08000000 = .ok .yield ∧ decode 0x09000007 = .ok (.regang 7) ∧ decode 0x14000000 = .ok .racq ∧
    decode 0x15000000 = .ok .rrel ∧ decode 0x16000042 = .ok (.rent 0x42) ∧ decode 0x17000042 = .ok (.rlev 0x42) ∧
    decode 0b00000001_010_1_11111111111111111110 = .ok (.bra 2 1 (-2)) ∧ decode 0b00000100_000_0_00000000000000000111 = .ok (.call 0 0 7) ∧
    decode 0b00000110_000_1_00000000000011_000101 = .ok (.jmpi 0 1 3 5) ∧ decode 0b00001010_001_0_000100_11111111111100 = .ok (.loop 1 0 4 (-4)) ∧
    decode 0b00010000_00000_011_10010001_00000000 = .ok (.plsw 3 0x91) ∧ decode 0b00010001_00000000_10010000_00000000 = .ok (.plset 0x90) ∧
    decode 0b00010010_00000_010_11000001_00000000 = .ok (.plmsk 2 0xC1) ∧ decode 0b00010011_00_000101_0000000000000000 = .ok (.plocc 5) := by
  decide

/-- 07: predicates and scalars. -/
theorem test_decode_scalar :
    decode 0x311A1234 = .ok (.smovi 6 2 0x1234) ∧ decode 0b00011000_0_0000001_00000010_00000011 = .ok (.pand 1 2 3) ∧
    decode 0b00011101_0_0000001_00000000_10010001 = .ok (.pset 1 0x91) ∧ decode 0b00100000_00_000011_00000001_01000010 = .ok (.sadd 3 1 0x42) ∧
    decode 0b00100011_01_000011_00000001_00000010 = .ok (.smulh 1 3 1 2) ∧ decode 0b00110010_11_000011_00000001_00000010 = .ok (.slea 3 3 1 2) ∧
    decode 0b00110011_00_000011_00000001_00000000 = .ok (.sclz 3 1) := by decide

/-- 09: vectors, lanes, conversions and the transform pipe. -/
theorem test_decode_vector :
    decode 0x40030102 = .ok (.vadd 0 3 1 2) ∧ decode 0x66290190 = .ok (.fcmp 0 5 1 1 0x90) ∧ decode 0x67040100 = .ok (.frcp 0 4 1) ∧
    decode 0x6C080203 = .ok (.fdot2 0 8 2 3) ∧ decode 0x70050191 = .ok (.cvt 0 5 1 0x91) ∧ decode 0x711408C5 = .ok (.cvtl6 0 20 8 0xC5) ∧
    decode 0x72150800 = .ok (.l6scl 0 21 8) ∧ decode 0x75060495 = .ok (.pack 0 6 4 0x95) ∧ decode 0x76080693 = .ok (.unpk 0 8 6 0x93) ∧
    decode 0x73020294 = .ok (.tagset 0 2 2 0x94) ∧ decode 0x74030200 = .ok (.tagget 0 3 2) ∧ decode 0x7A030190 = .ok (.vbcst 3 1 0x90) ∧
    decode 0x80A07000 = .ok (.xtab 2 1 7) ∧ decode 0x81204146 = .ok (.xdec 8 4 5 6) ∧ decode 0x82009105 = .ok (.xcrc 9 4 5) ∧
    decode 0x83143000 = .ok (.xsrt 5 3) := by decide

/-- 13, 15: memory, fences and region queries. -/
theorem test_decode_memory :
    decode 0xAD141030 = .ok (.abnd 10 2 3) ∧ decode 0xAF480000 = .ok (.fence 2 1) ∧ decode 0xAF800000 = .ok (.fence 4 0) ∧
    decode 0xAFB80000 = .ok (.fence 5 3) ∧ decode 0xB0000000 = .ok .ifence ∧ decode 0xB1001030 = .ok (.prf 2 3 0) ∧
    decode 0xB2008080 = .ok (.pgenum 8 2) ∧ decode 0xB30090C0 = .ok (.pgstat 9 3) ∧ decode 0xB408A080 = .ok (.rginfo 2 10 2) ∧
    decode 0b10100010_0000101_000010_1111111_0001 = .ok (.ldw 5 2 127 1) ∧ decode 0b10101001_0000100_000010_0000011_0000 = .ok (.stq 4 2 3 0) := by
  decide

/-- 17: the matrix engine. -/
theorem test_decode_matrix :
    decode 0xC0809000 = .ok (.opmap 4 9) ∧ decode 0xC1846005 = .ok (.mma 1 0 0 1 6 5) ∧ decode 0xC1280005 = .ok (.mma 0 1 1 0 0 5) ∧
    decode 0xC2000005 = .ok (.mmas 0 0 0 0 0 5) ∧ decode 0xC3507005 = .ok (.mmac 0 2 2 0 7 5) ∧ decode 0xC4800000 = .ok (.accz 1 0) ∧
    decode 0xC4400000 = .ok (.accz 0 1) ∧ decode 0xC5300000 = .ok (.accld 0 3) ∧ decode 0xC6F00000 = .ok (.accst 1 7) ∧
    decode 0xC750B000 = .ok (.accrd 20 11) ∧ decode 0xC850B000 = .ok (.accwr 20 11) ∧ decode 0xC908C000 = .ok (.mstep 2 12) := by decide

/-- 19: copies, barriers, rings, waits, blame. -/
theorem test_decode_engines :
    decode 0xD04C4146 = .ok (.cpy 1 3 4 5 6) ∧ decode 0xD0884146 = .ok (.cpy 2 2 4 5 6) ∧ decode 0xD1447200 = .ok (.gath 1 1 7 8) ∧
    decode 0xD2487200 = .ok (.scat 1 2 7 8) ∧ decode 0xD3449280 = .ok (.binit 1 1 9 10) ∧ decode 0xD380B000 = .ok (.binit 2 0 11 0) ∧
    decode 0xD404C000 = .ok (.barv 1 12) ∧ decode 0xD504D000 = .ok (.bexp 1 13) ∧ decode 0xD604C000 = .ok (.bwait 1 12) ∧
    decode 0xD704E000 = .ok (.btest 0 1 14) ∧ decode 0xD8400000 = .ok (.cwait 1 0) ∧ decode 0xDD000000 = .ok .cbar ∧
    decode 0xDE010440 = .ok (.emit 16 17) ∧ decode 0xDF012000 = .ok (.edgrd 0 18 0) ∧ decode 0xDF413500 = .ok (.edgrd 1 19 20) := by decide

/-- 21, 23: system and observation; 05: prefixes. -/
theorem test_decode_system :
    decode 0xE0149000 = .ok (.trap 5 9) ∧ decode 0xE1000000 = .ok .tret ∧ decode 0xE209E000 = .ok (.srd 2 30) ∧
    decode 0xE2005000 = .ok (.srd 0 5) ∧ decode 0xE22C7000 = .ok (.srd 11 7) ∧ decode 0xE3244000 = .ok (.swr 9 4) ∧
    decode 0xE3406000 = .ok (.swr 16 6) ∧ decode 0xE4003000 = .ok (.halt 3) ∧ decode 0xE50C0000 = .ok (.bkpt 3) ∧
    decode 0xE6005180 = .ok (.trcm 5 6) ∧ decode 0xE7000000 = .ok (.trcc 0) ∧ decode 0xE7400000 = .ok (.trcc 1) ∧
    decode 0xE8007200 = .ok (.acct 7 8) ∧ decode 0xE90020C0 = .ok (.tlbi 0 2 3) ∧ decode 0xE94000C0 = .ok (.tlbi 1 0 3) ∧
    decode 0xE9800000 = .ok (.tlbi 2 0 0) ∧ decode 0xEA0420C0 = .ok (.watch 1 2 3) ∧
    decode 0b11110000_000000000000000000000101 = .ok (.imm 5) := by decide

/-- 05 R87, R104, 09 R160: reserved fields, unassigned opcodes, HINT kinds 5 to 15, a comparison with N = 1. -/
theorem test_decode_refuses :
    decode 0x00000001 = .error .reservedField ∧ decode 0x0B000000 = .error .unassignedOpcode ∧ decode 0xFF000000 = .error .unassignedOpcode ∧
    decode 0xF3500000 = .error .hintKind ∧ decode 0x54800000 = .error .compareN ∧ decodeTableWord 32 0x20030102 = some (.sadd 3 1 2) ∧
    decodeTableWord 16 0 = none := by decide

/-! ### Small states -/

/-- The workgroup that a placed word runs in, with its gang changed by `f` and itself by `h`. -/
def grp (w : W32) (f : Gang → Gang) (h : Workgroup → Workgroup) : Workgroup :=
  let g := h (placeGroup (opcodeOf w) 0)
  { g with gangs := SMap.set Gang.empty g.gangs 0 (f (launchGang g.kernel 0 [] 0 0 0)) }

/-- The state in which that gang issues the word in plane `pl`. -/
def on (w : W32) (pl : Option Nat) (f : Gang → Gang) (h : Workgroup → Workgroup := id) : State :=
  { State.reset.setWg 0 (grp w f h) with cur := some ⟨0, 0, 0, pl, w⟩ }

/-- The state that an outcome leads to; the reset state where it is none. -/
def got (r : Res) : State :=
  match r with
  | .next t => t
  | _ => State.reset

def gang (r : Res) : Gang := (got r).gangAt 0 0

/-- Two slices, so eight lanes. -/
def two (g : Workgroup) : Workgroup := { g with kernel := { g.kernel with slices := 2, planes := 2 } }

/-- The kernel has a handler at word 40. -/
def handled (h : Workgroup) : Workgroup := { h with kernel := { h.kernel with trapOff := some 40 } }

/-- s1 = 7, s2 = -3. -/
def scal (g : Gang) : Gang := (g.setS 1 7).setS 2 (-3)

/-- p1 holds in lanes 0 and 5. -/
def predd (g : Gang) : Gang := (scal g).setP 1 (BitVec.allOnes 32) 0x21

/-! ### Placed words: the next step fetches, decodes and runs them -/

theorem test_step_smovi : ((got (step (State.reset.withFetchWord 32 0x311A1234))).gangAt 0 0).sreg 6 = 0x123400000000 := by decide

theorem test_step_nop : ((got (step (State.reset.withFetchWord 32 0))).gangAt 0 0).splits.map (fun sp => sp.pc) = [1] := by decide

theorem test_step_clock : SMap.get 0 (got (step (State.reset.withFetchWord 32 0))).clock 3 = 1 := by decide

/-! ### Scalars and predicates (07) -/

theorem meets_scalars : ∃ (s : State) (cx : Ctx) (a b : BitVec 8) (x y : W64), s.ctx? = some cx ∧ ScalarIn cx a x ∧ ScalarInB cx b y :=
  ⟨on 0x20030102 (some 0) scal, _, 1, 2, 7, -3, rfl, by unfold ScalarIn; decide, by unfold ScalarInB ScalarIn; decide⟩

theorem meets_scalars_imm : ∃ (s : State) (cx : Ctx) (y : W64), s.ctx? = some cx ∧ ScalarIn cx 0x7F 63 ∧ ScalarInB cx 0 y ∧ cx.imm = some y :=
  ⟨on 0x20030102 (some 0) (fun g => { g with splits := g.splits.map (fun sp =>
    { sp with pfx := [(0, some ⟨0, 2, false, false, none, none, none, some 5, none, none, [.imm]⟩)] }) }),
    _, 5, rfl, by unfold ScalarIn; decide, by unfold ScalarInB ScalarIn; decide, by decide⟩

theorem test_sadd : (gang (exec (.sadd 3 1 2) (on 0x20030102 (some 0) scal))).sreg 3 = 4 := by decide
theorem test_ssub : (gang (exec (.ssub 3 1 2) (on 0x21030102 (some 0) scal))).sreg 3 = 10 := by decide
theorem test_smul : (gang (exec (.smul 3 1 2) (on 0x22030102 (some 0) scal))).sreg 3 = -21 := by decide
theorem test_smulh : (gang (exec (.smulh 1 3 1 2) (on 0x23430102 (some 0) scal))).sreg 3 = 6 := by decide
theorem test_sdiv : (gang (exec (.sdiv 0 3 1 2) (on 0x24030102 (some 0) scal))).sreg 3 = -2 := by decide
theorem test_srem : (gang (exec (.srem 0 3 1 2) (on 0x25030102 (some 0) scal))).sreg 3 = 1 := by decide
theorem test_sdiv_by_zero : (gang (exec (.sdiv 0 3 1 0x40) (on 0x24030140 (some 0) scal))).sreg 3 = -1 := by decide
theorem test_sand : (gang (exec (.sand 3 1 2) (on 0x26030102 (some 0) scal))).sreg 3 = 5 := by decide
theorem test_ssra : (gang (exec (.ssra 3 2 0x41) (on 0x2B030241 (some 0) scal))).sreg 3 = -2 := by decide
theorem test_sshl : (gang (exec (.sshl 3 1 0x7F) (on 0x2903017F (some 0) scal))).sreg 3 = 0x8000000000000000 := by decide
theorem test_smax : (gang (exec (.smax 1 3 1 2) (on 0x2D430102 (some 0) scal))).sreg 3 = -3 := by decide
theorem test_scmp : (gang (exec (.scmp 0 3 2 1) (on 0x2E030201 (some 0) scal))).sreg 3 = -1 := by decide
theorem test_slea : (gang (exec (.slea 3 3 1 0x41) (on 0x32C30141 (some 0) scal))).sreg 3 = 15 := by decide
theorem test_sclz : (gang (exec (.sclz 3 1) (on 0x33030100 (some 0) scal))).sreg 3 = 61 := by decide
theorem test_spop : (gang (exec (.spop 3 2) (on 0x34030200 (some 0) scal))).sreg 3 = 63 := by decide
/-- 07 R149: 8 bits from bit 4, sign-extended. -/
theorem test_sbfe : (gang (exec (.sbfe 1 3 1 2) (on 0x35430102 (some 0) (fun g => (g.setS 1 0xF80).setS 2 0x804)))).sreg 3 = -8 := by decide
theorem test_s0_discards : (gang (exec (.smov 0 1) (on 0x30000001 (some 0) scal))).sreg 0 = 0 := by decide

theorem meets_fields : ∃ (s : State) (cx : Ctx), s.ctx? = some cx ∧ ScalarIn cx 1 0xF80 ∧ ScalarInB cx 2 0x804 :=
  ⟨on 0x35430102 (some 0) (fun g => (g.setS 1 0xF80).setS 2 0x804), _, rfl, by unfold ScalarIn; decide, by unfold ScalarInB ScalarIn; decide⟩

theorem meets_predicates : ∃ (s : State) (cx : Ctx) (d : BitVec 7) (a b : BitVec 8), s.ctx? = some cx ∧ d.toNat < 8 ∧ a.toNat < 8 ∧ b.toNat < 8 :=
  ⟨on 0x18070107 (some 0) predd two, _, 7, 1, 7, rfl, by decide⟩

theorem meets_ptos : ∃ (s : State) (cx : Ctx) (d : BitVec 7) (b : BitVec 8), s.ctx? = some cx ∧ d.toNat < 64 ∧ b.toNat < 8 :=
  ⟨on 0x1C3F0100 (some 0) predd two, _, 63, 1, rfl, by decide⟩

theorem meets_pset : ∃ (s : State) (cx : Ctx), s.ctx? = some cx ∧ cx.imm = none ∧ cx.g.ext = none ∧ (63 : Nat) < 64 ∧
    (∀ l ∈ cx.ls, (cx.g.cell 63 l).bad = false) ∧ 128 ≤ (0x80 : BitVec 8).toNat ∧ (0x8F : BitVec 8).toNat < 144 ∧ 144 ≤ (0x90 : BitVec 8).toNat ∧ 192 ≤ (0xFF : BitVec 8).toNat :=
  ⟨on 0x1D010005 (some 0) predd two, _, rfl, by decide⟩

theorem meets_pset_imm : ∃ (s : State) (cx : Ctx) (i : W64), s.ctx? = some cx ∧ cx.imm = some i :=
  ⟨on 0x1D010000 (some 0) (fun g => { g with splits := g.splits.map (fun sp =>
    { sp with pfx := [(0, some ⟨0, 2, false, false, none, none, none, some 5, none, none, [.imm]⟩)] }) }), _, 5, rfl, by decide⟩

theorem test_pnot : (gang (exec (.pnot 2 1) (on 0x1B020100 (some 0) predd two))).preg 2 = 0xDE := by decide
theorem test_pany : (gang (exec (.pany 2 1) (on 0x1E020100 (some 0) predd two))).preg 2 = 0xFF := by decide
theorem test_pall : (gang (exec (.pall 2 1) (on 0x1F020100 (some 0) predd two))).preg 2 = 0 := by decide
theorem test_ptos : (gang (exec (.ptos 1 1) (on 0x1C010100 (some 0) (fun g => (predd g).setS 1 0xF00) two))).sreg 1 = 0xF21 := by decide
theorem test_p0_discards : (gang (exec (.pnot 0 0) (on 0x1B000000 (some 0) predd two))).preg 0 = 0xFFFFFFFF := by decide

/-! ### Planes, control transfers, the gang (07, 01) -/

theorem meets_planes : ∃ (s : State) (cx : Ctx), s.ctx? = some cx ∧ PlaneIn cx false 0x91 (fun _ => 1) ∧ PlaneIn cx true 0x91 (fun _ => 1) ∧
    (∀ l ∈ cx.ls, (1 : Nat) < cx.wg.kernel.planes ∧ (1 : Nat) < 4) :=
  ⟨on 0x11009100 (some 0) predd two, _, rfl, Or.inr (Or.inr (Or.inr (Or.inr (Or.inl ⟨by decide, by decide, rfl⟩)))),
    Or.inr (Or.inr (Or.inr (Or.inr (Or.inl ⟨by decide, by decide, rfl⟩)))), by decide⟩

theorem test_plsw : ((List.range 8).map (gang (exec (.plsw 1 0x91) (on 0x10019100 (some 0) predd two))).planeOf) = [1, 0, 0, 0, 0, 1, 0, 0] := by decide

theorem test_plocc : (gang (exec (.plocc 5) (on 0x13050000 none (fun g => { g with plane := [(2, 1)] }) two))).sreg 5 = 3 := by decide

/-- 07 R138: PLMSK gives 1 where the lane's plane is the value; lane 2 alone is in plane 1. -/
theorem test_plmsk : (gang (exec (.plmsk 2 0x91) (on 0x12029100 none (fun g => { g with plane := [(2, 1)] }) two))).preg 2 = 4 := by decide

theorem meets_branch : ∃ (s : State) (cx : Ctx) (f : BitVec 20) (t : Nat), s.ctx? = some cx ∧ (cx.sp.pc : Int) + f.toInt = t ∧
    t < cx.wg.kernel.length ∧ SomeTakes cx 1 0 :=
  ⟨on 0x0120003F none predd two, _, 63, 63, rfl, by decide, by decide, 0, 0, by decide, rfl, by decide⟩

theorem declined {cx : Ctx} {p : BitVec 3} {q : BitVec 1} (h : ∀ l ∈ cx.ls, ((cx.g.preg p.toNat).getLsbD l != (q == 1)) = false) :
    ¬SomeTakes cx p q := fun ⟨_, l, hl, _, e⟩ => by rw [h l hl] at e; cases e

theorem meets_call_declined : ∃ (s : State) (cx : Ctx), s.ctx? = some cx ∧ ¬SomeTakes cx 2 0 :=
  ⟨on 0x04400002 none predd two, _, rfl, declined (by decide)⟩

theorem meets_ret : ∃ (s : State) (cx : Ctx), s.ctx? = some cx ∧ (SomeTakes cx 0 0 → (cx.g.sreg 1).toNat < cx.wg.kernel.length) :=
  ⟨on 0x05000001 none scal two, _, rfl, fun _ => by decide⟩
theorem meets_branch_out : ∃ (s : State) (cx : Ctx), s.ctx? = some cx ∧ ((cx.sp.pc : Int) + (-1 : BitVec 20).toInt < 0 ∧
    (cx.wg.kernel.length : Int) ≤ (cx.sp.pc : Int) + (0x7FFFF : BitVec 20).toInt) := ⟨on 0x010FFFFF none predd two, _, rfl, by decide⟩
theorem meets_ret_out : ∃ (s : State) (cx : Ctx), s.ctx? = some cx ∧ SomeTakes cx 1 0 ∧ cx.wg.kernel.length ≤ (cx.g.sreg 2).toNat :=
  ⟨on 0x05200002 none predd two, _, rfl, ⟨0, 0, by decide, rfl, by decide⟩, by decide⟩
theorem meets_jmpi_out : ∃ (s : State) (cx : Ctx), s.ctx? = some cx ∧ SomeTakes cx 1 0 ∧
    (BitVec.ofInt 64 ((cx.sp.pc : Int) + (2 : BitVec 14).toInt) + cx.g.sreg 2).toInt < 0 :=
  ⟨on 0x06200082 none predd two, _, rfl, ⟨0, 0, by decide, rfl, by decide⟩, by decide⟩

theorem meets_jmpi : ∃ (s : State) (cx : Ctx) (t : Int), s.ctx? = some cx ∧
    t = (BitVec.ofInt 64 ((cx.sp.pc : Int) + (3 : BitVec 14).toInt) + cx.g.sreg 1).toInt ∧ (SomeTakes cx 0 0 → 0 ≤ t ∧ t < cx.wg.kernel.length) :=
  ⟨on 0x060000C1 none scal two, _, 10, rfl, by decide, fun _ => by decide⟩

/-- 07 R128: slices go their own ways; p1 holds in a lane of each slice, p2 in none. -/
theorem test_bra : (gang (exec (.bra 1 0 9) (on 0x01200009 none (fun g => g.setP 1 0xFF 0x20) two))).splits.map (fun sp => (sp.pc, sp.lanes)) =
    [(1, 0x0F), (9, 0xF0)] := by decide
theorem test_call : (gang (exec (.call 0 0 9) (on 0x04000009 none predd two))).sreg 63 = 1 := by decide
theorem test_jmpi : (gang (exec (.jmpi 0 0 3 1) (on 0x060000C1 none scal two))).splits.map (fun sp => sp.pc) = [10] := by decide

theorem meets_loop : ∃ (s : State) (cx : Ctx) (c : BitVec 6) (f : BitVec 14) (t : Int), s.ctx? = some cx ∧ c ≠ 0 ∧
    (cx.sp.pc : Int) + f.toInt = t ∧ 0 ≤ t ∧ t < cx.wg.kernel.length :=
  ⟨on 0x0A00403F none scal two, _, 1, 63, 63, rfl, by decide, by decide, by decide, by decide⟩
theorem meets_loop_out : ∃ (s : State) (cx : Ctx) (t : Int), s.ctx? = some cx ∧ (cx.sp.pc : Int) + (-1 : BitVec 14).toInt = t ∧ t < 0 :=
  ⟨on 0x0A007FFF none scal two, _, -1, rfl, by decide, by decide⟩
theorem test_loop_ends : (gang (exec (.loop 0 0 1 9) (on 0x0A004009 none (fun g => g.setS 1 1) two))).splits.map (fun sp => sp.pc) = [1] := by decide

/-- A split with the prefixes `x` issued. -/
def prefixed (key : Nat) (x : Pfx) (g : Gang) : Gang := { g with splits := g.splits.map (fun sp => { sp with pfx := [(key, some x)] }) }

def joinPfx : Pfx := ⟨0, 1, false, false, some 20, none, none, none, none, none, [.join]⟩

theorem meets_brc : ∃ (s : State) (cx : Ctx) (f jo : BitVec 20) (t jn : Nat), s.ctx? = some cx ∧ cx.pfx.bind (fun x => x.join) = some jo ∧
    (cx.sp.pc : Int) + f.toInt = t ∧ t < cx.wg.kernel.length ∧ 1 ≤ jo.toInt ∧ (cx.sp.pc : Int) + jo.toInt = jn ∧ jn < cx.wg.kernel.length ∧
    BrcLanes cx 1 0 0 true 1 ∧ BrcLanes cx 1 0 0 false 0xE ∧ ∀ j ∈ slicesOf cx.sp.slices, (SMap.get [] cx.g.dp j).length < 16 :=
  ⟨on 0x02200007 none (fun g => prefixed 4 joinPfx (predd g)) two, _, 7, 20, 7, 20, rfl, by decide, by decide, by decide, by decide, by decide,
    by decide, by unfold BrcLanes; decide, by unfold BrcLanes; decide, by decide⟩

theorem meets_brc_no_join : ∃ (s : State) (cx : Ctx), s.ctx? = some cx ∧ cx.pfx.bind (fun x => x.join) = none := ⟨on 0x02200007 none predd two, _, rfl, by decide⟩
theorem meets_brc_out : ∃ (s : State) (cx : Ctx) (jo : BitVec 20), s.ctx? = some cx ∧ cx.pfx.bind (fun x => x.join) = some jo ∧ jo.toInt < 1 :=
  ⟨on 0x02200007 none (fun g => prefixed 4 { joinPfx with join := some 0 } (predd g)) two, _, 0, rfl, by decide, by decide⟩
theorem meets_brc_full : ∃ (s : State) (cx : Ctx), s.ctx? = some cx ∧ cx.pfx.bind (fun x => x.join) = some 20 ∧
    BrcLanes cx 1 0 0 true 1 ∧ BrcLanes cx 1 0 0 false 0xE ∧ 0 ∈ slicesOf cx.sp.slices ∧ 16 ≤ (SMap.get [] cx.g.dp 0).length :=
  ⟨on 0x02200007 none (fun g => prefixed 4 joinPfx { predd g with dp := [(0, List.replicate 16 ⟨9, 1, 2, none, none⟩)] }) two, _, rfl, by decide,
    by unfold BrcLanes; decide, by unfold BrcLanes; decide, by decide, by decide⟩

theorem test_brc : (gang (exec (.brc 1 0 7) (on 0x02200007 none (fun g => prefixed 4 joinPfx (predd g)) two))).splits.map
    (fun sp => (sp.pc, sp.path, sp.lanes)) = [(7, some 0, 0x01), (1, some 1, 0x0E), (7, some 0, 0x20), (1, some 1, 0xD0)] := by decide

theorem meets_skip : ∃ (s : State) (cx : Ctx), s.ctx? = some cx ∧ cx.sp.pc + (3 : BitVec 3).toNat < cx.wg.kernel.length ∧
    ∀ pl ∈ cx.g.occupied cx.sp.lanes, ∀ i < (3 : BitVec 3).toNat, badBodyWord s cx.core pl (cx.sp.pc + (3 : BitVec 3).toNat) (cx.sp.pc + 1 + i) = false :=
  ⟨on 0x03200003 (some 0) predd two, _, rfl, by decide⟩

theorem test_skip : (gang (exec (.skip 1 0 3) (on 0x03200003 (some 0) predd two))).splits.map (fun sp => (sp.pc, sp.skip)) =
    [(1, [⟨1, 3, 0x21⟩])] := by decide

theorem meets_nop : ∃ (s : State) (cx : Ctx), s.ctx? = some cx ∧ cx.plane = none ∧ armedId s cx 5 = false ∧ cx.g.regions.length = 15 ∧
    cx.g.regions.head? ≠ some 5 := ⟨on 0 none (fun g => { g with regions := List.replicate 15 9 }) two, _, rfl, by decide⟩
theorem meets_nop_plane : ∃ (s : State) (cx : Ctx), s.ctx? = some cx ∧ cx.plane = some 0 ∧ cx.lanes = cx.sp.lanes ∧ cx.sp.skip = [] :=
  ⟨on 0 (some 0) scal two, _, rfl, by decide⟩
theorem meets_rent_full : ∃ (s : State) (cx : Ctx), s.ctx? = some cx ∧ armedId s cx 5 = false ∧ 16 ≤ cx.g.regions.length :=
  ⟨on 0x16000005 none (fun g => { g with regions := List.replicate 16 9 }) two, _, rfl, by decide⟩
theorem meets_rlev : ∃ (s : State) (cx : Ctx) (rest : List (BitVec 16)), s.ctx? = some cx ∧ armedId s cx 5 = false ∧ cx.g.regions = 5 :: rest :=
  ⟨on 0x17000005 none (fun g => { g with regions := [5, 6] }) two, _, [6], rfl, by decide⟩
theorem test_rent : (gang (exec (.rent 5) (on 0x16000005 none (fun g => { g with regions := [6] }) two))).regions = [5, 6] := by decide
theorem test_rlev_trap : ((got (exec (.rlev 5) (on 0x17000005 none (fun g => { g with regions := [6] }) two))).wgAt 0).ending = true := by decide
theorem test_yield : (gang (exec .yield (on 0x08000000 none scal two))).yieldAt = some 0 := by decide

theorem meets_exit : ∃ (s : State) (cx : Ctx), s.ctx? = some cx ∧ clusterExit cx (condLanes cx 1 0) = false :=
  ⟨on 0x07200000 (some 0) predd two, _, rfl, by decide⟩
theorem meets_exit_cluster : ∃ (s : State) (cx : Ctx), s.ctx? = some cx ∧ clusterExit cx (condLanes cx 0 0) = true :=
  ⟨on 0x07000000 (some 0) predd (fun g => { two g with cluster := true }), _, rfl, by decide⟩
theorem test_exit : (gang (exec (.exit 1 0) (on 0x07200000 (some 0) predd two))).exited = 0x21 := by decide

/-- Slices 0 and 1 apart; slice 1 waits as told. -/
def apart (w : Wait) (g : Gang) : Gang :=
  { g with splits := [{ launchSplit Kernel.empty 0 with slices := 1, lanes := 0x0F }, { launchSplit Kernel.empty 0 with slices := 2, lanes := 0xF0, wait := w }] }

theorem meets_regang_waits : ∃ (s : State) (cx : Ctx), s.ctx? = some cx ∧ (3 : BitVec 8).toNat < 2 ^ cx.wg.kernel.slices ∧ cx.sp.stopped = false ∧
    (∀ j ∈ slicesOf cx.sp.slices, (3 : BitVec 8).getLsbD j = true ∧ SMap.get [] cx.g.dp j = []) ∧
    (∃ j ∈ liveSlices cx.wg cx.g 3, cx.sp.slices.getLsbD j = false ∧ ∀ sp ∈ cx.g.splits, sp.slices.getLsbD j = true → sp.wait ≠ .regang 3) :=
  ⟨on 0x09000003 none (apart .none) two, _, rfl, by decide⟩

theorem meets_regang_joins : ∃ (s : State) (cx : Ctx), s.ctx? = some cx ∧ (3 : BitVec 8).toNat < 2 ^ cx.wg.kernel.slices ∧ cx.sp.stopped = false ∧
    (∀ j ∈ slicesOf cx.sp.slices, (3 : BitVec 8).getLsbD j = true ∧ SMap.get [] cx.g.dp j = []) ∧
    (∀ i < 2, ∀ sp ∈ cx.g.splits[i]?, i ≠ cx.split → sp.wait = .regang 3 ∧ sp.stopped = false ∧ sp.pc = cx.sp.pc) ∧
    (∃ j ∈ liveSlices cx.wg cx.g 3, cx.sp.slices.getLsbD j = true) ∧
    (∀ j ∈ liveSlices cx.wg cx.g 3, cx.sp.slices.getLsbD j = true ∨
      ∃ sp ∈ cx.g.splits, sp.slices.getLsbD j = true ∧ sp.wait = .regang 3 ∧ sp.stopped = false) :=
  ⟨on 0x09000003 none (apart (.regang 3)) two, _, rfl, by decide⟩

theorem test_regang : (gang (exec (.regang 3) (on 0x09000003 none (apart (.regang 3)) two))).splits.map (fun sp => (sp.pc, sp.slices, sp.lanes)) =
    [(1, 3, 0xFF)] := by decide

set_option maxRecDepth 20000 in
/-- 07 R139: plane 2 of a kernel of two planes, in the lanes of p1. -/
theorem meets_planes_trap : ∃ (s : State) (cx : Ctx), s.ctx? = some cx ∧ PlaneIn cx false 0x92 (fun _ => 2) ∧ PlaneIn cx true 0x92 (fun _ => 2) ∧
    ∃ l ∈ cx.ls, (cx.g.preg 1).getLsbD l = true ∧ cx.wg.kernel.planes ≤ 2 :=
  ⟨on 0x11009200 (some 0) predd two, _, rfl, Or.inr (Or.inr (Or.inr (Or.inr (Or.inl ⟨by decide, by decide, rfl⟩)))),
    Or.inr (Or.inr (Or.inr (Or.inr (Or.inl ⟨by decide, by decide, rfl⟩)))), by decide⟩

/-- A word fetched afresh at offset 1. -/
def withBody (w b : W32) (f : Gang → Gang) : State :=
  let m : SMap Byte := ((List.range 4).map (fun i => (0x10004 + i, b.extractLsb' (8 * i) 8))).filter (fun e => e.2 != 0)
  let s := { on w (some 0) f two with mem := m }
  s.setCore 0 { s.coreAt 0 with ibuf := m }

/-- A SKIP over nothing, over the end of the plane, and over an EXIT. -/
theorem meets_skip_traps : ∃ (s : State) (cx : Ctx), s.ctx? = some cx ∧ cx.wg.kernel.length ≤ cx.sp.pc + 3 ∧ ∃ (t : State) (cy : Ctx), t.ctx? = some cy ∧
    cy.sp.pc + 3 < cy.wg.kernel.length ∧ 0 ∈ cy.g.occupied cy.sp.lanes ∧ t.peek 0 1 0 = some 0x07000000 ∧ badBodyWord t cy.core 0 (cy.sp.pc + 3) 1 = true :=
  ⟨on 0x03200003 (some 0) (fun g => { predd g with splits := g.splits.map (fun sp => { sp with pc := 62 }) }) two, _, rfl, by decide,
    withBody 0x03200003 0x07000000 predd, _, rfl, by decide⟩

theorem meets_nop_next_plane : ∃ (s : State) (cx : Ctx), s.ctx? = some cx ∧ cx.plane = some 0 ∧ cx.sp.lanes.getLsbD 2 = true ∧ cx.g.planeOf 2 = 1 ∧
    cx.sp.skip = [] ∧ cx.sp.replay = none := ⟨on 0 (some 0) (fun g => { g with plane := [(2, 1)] }) two, _, rfl, by decide⟩

/-- p1 holds in the lanes `p`. -/
def exits (p : W32) : State := on 0x07200000 (some 0) (fun g => g.setP 1 (BitVec.allOnes 32) p) two

theorem nothing {s : State} {cx : Ctx} {g : Gang} (hc : (s.wgAt cx.core).gangs = [(0, g)]) (h0 : ∀ sp ∈ cx.g.splits, sp.wait = .none)
    (hg : ∀ sp ∈ g.splits, sp.wait = .none) : NothingToComplete cx s := by
  refine ⟨fun sp hs m e => (by cases (h0 sp hs).symm.trans e), fun n sp hs r l q k ix e => ?_⟩
  unfold State.gangAt at hs
  rw [hc] at hs
  rcases n with _ | n
  · cases (hg sp hs).symm.trans e
  · cases hs

/-- An exit of lanes 0 and 5, after which both slices are live, of slice 0 alone, and of every lane. -/
theorem meets_exit_live : ∀ p ∈ [(0x21 : W32), 0xF, 0xFF], ∃ (s : State) (cx : Ctx), s.ctx? = some cx ∧ clusterExit cx (condLanes cx 1 0) = false ∧
    NothingToComplete cx s ∧ (∀ c ∈ s.members cx.core, (s.wgAt c).cbArr = 0) ∧ condLanes cx 1 0 = p := by
  intro p hp
  simp only [List.mem_cons, List.not_mem_nil, or_false] at hp
  rcases hp with rfl | rfl | rfl
  · exact ⟨exits 0x21, _, rfl, by decide, nothing rfl (by decide) (by decide), by decide, by decide⟩
  · exact ⟨exits 0xF, _, rfl, by decide, nothing rfl (by decide) (by decide), by decide, by decide⟩
  · exact ⟨exits 0xFF, _, rfl, by decide, nothing rfl (by decide) (by decide), by decide, by decide⟩

/-- Slices 0 and 1 stand at REGANGs of other offsets; the lower slice is the issuing split's. -/
theorem meets_regang_traps : ∃ (s : State) (cx : Ctx) (x : Split), s.ctx? = some cx ∧ cx.split = 0 ∧ cx.g.splits[1]? = some x ∧
    cx.sp.stopped = false ∧ cx.g.splits.length = 2 ∧ x.wait = .regang 3 ∧ x.stopped = false ∧ x.pc ≠ cx.sp.pc ∧
    (3 : BitVec 8).toNat < 2 ^ cx.wg.kernel.slices ∧ (∀ j ∈ slicesOf cx.sp.slices, (3 : BitVec 8).getLsbD j = true ∧ SMap.get [] cx.g.dp j = []) ∧
    (∀ j ∈ liveSlices cx.wg cx.g 3, cx.sp.slices.getLsbD j = true ∨ x.slices.getLsbD j = true) ∧
    (∀ y ∈ [cx.sp, x], ∃ j ∈ liveSlices cx.wg cx.g 3, y.slices.getLsbD j = true) ∧
    cx.wg.kernel.trapOff = some 40 ∧ cx.g.handler = none ∧ (slicesOf cx.sp.slices).headD 0 < (slicesOf x.slices).headD 0 :=
  ⟨on 0x09000003 none (fun g => let g := apart (.regang 3) g; { g with splits := g.splits.modify 1 (fun sp => { sp with pc := 5 }) })
      (fun h => handled (two h)), _, _, rfl, rfl, rfl, by decide⟩

/-- The lower slice is the waiting split's. -/
theorem meets_regang_traps_other : ∃ (s : State) (cx : Ctx) (x : Split), s.ctx? = some cx ∧ cx.split = 1 ∧ cx.g.splits[0]? = some x ∧
    cx.sp.stopped = false ∧ cx.g.splits.length = 2 ∧ x.wait = .regang 3 ∧ x.stopped = false ∧ x.pc ≠ cx.sp.pc ∧
    (3 : BitVec 8).toNat < 2 ^ cx.wg.kernel.slices ∧ (∀ j ∈ slicesOf cx.sp.slices, (3 : BitVec 8).getLsbD j = true ∧ SMap.get [] cx.g.dp j = []) ∧
    (∀ j ∈ liveSlices cx.wg cx.g 3, cx.sp.slices.getLsbD j = true ∨ x.slices.getLsbD j = true) ∧
    (∀ y ∈ [cx.sp, x], ∃ j ∈ liveSlices cx.wg cx.g 3, y.slices.getLsbD j = true) ∧
    cx.wg.kernel.trapOff = some 40 ∧ cx.g.handler = none ∧ ¬(slicesOf cx.sp.slices).headD 0 < (slicesOf x.slices).headD 0 :=
  ⟨{ on 0x09000003 none (fun g => let g := apart .none g; { g with splits := g.splits.modify 0 (fun sp => { sp with pc := 5, wait := .regang 3 }) })
      (fun h => handled (two h)) with cur := some ⟨0, 0, 1, none, 0x09000003⟩ }, _, _, rfl, rfl, rfl, by decide⟩

theorem meets_regang_operand : ∃ (s : State) (cx : Ctx), s.ctx? = some cx ∧ 2 ^ cx.wg.kernel.slices ≤ (4 : BitVec 8).toNat ∧
    ∃ j ∈ slicesOf cx.sp.slices, (2 : BitVec 8).getLsbD j = false := ⟨on 0x09000004 none (apart .none) two, _, rfl, by decide⟩

/-- Gangs 4 and 8 hold both blocks of quadrant 0. -/
def blocksHeld (g : Workgroup) : Workgroup :=
  { two g with gangs := SMap.set Gang.empty (SMap.set Gang.empty g.gangs 4 { Gang.empty with ext := some 0 }) 8 { Gang.empty with ext := some 1 } }

theorem meets_racq_free : ∃ (s : State) (cx : Ctx), s.ctx? = some cx ∧ cx.g.ext = none ∧ (s.coreAt cx.core).requests (cx.gang % 4) = [] ∧
    cx.wg.freeBlock (cx.gang % 4) = some 0 := ⟨on 0x14000000 none id two, _, rfl, by decide⟩
theorem meets_racq_held : ∃ (s : State) (cx : Ctx), s.ctx? = some cx ∧ cx.g.ext = none ∧ cx.wg.freeBlock (cx.gang % 4) = none ∧
    ∀ r ∈ (s.coreAt cx.core).requests (cx.gang % 4), r.gang ≠ cx.gang := ⟨on 0x14000000 none id blocksHeld, _, rfl, by decide⟩
theorem meets_racq_queued : ∃ (s : State) (cx : Ctx), s.ctx? = some cx ∧ cx.g.ext = none ∧
    ∃ r ∈ (s.coreAt cx.core).requests (cx.gang % 4), r.gang = cx.gang :=
  ⟨let s := on 0x14000000 none id blocksHeld; s.setCore 0 { s.coreAt 0 with racq := [(0, [⟨0, 0⟩])] }, _, rfl, by decide⟩
theorem meets_rrel : ∃ (s : State) (cx : Ctx), s.ctx? = some cx ∧ cx.g.ext ≠ none ∧ writesOut s cx.core cx.gang = false :=
  ⟨on 0x15000000 none (fun g => { g with ext := some 1 }) two, _, rfl, by decide⟩
theorem meets_rrel_waits : ∃ (s : State) (cx : Ctx), s.ctx? = some cx ∧ cx.g.ext ≠ none ∧ writesOut s cx.core cx.gang = true :=
  ⟨on 0x15000000 none (fun g => { g with ext := some 1, loads := [⟨64, 1, 1, false, false, false⟩] }) two, _, rfl, by decide⟩
theorem test_racq : (gang (exec .racq (on 0x14000000 none id two))).ext = some 0 := by decide
theorem test_rrel : (gang (exec .rrel (on 0x15000000 none (fun g => { g with ext := some 1 }) two))).ext = none := by decide

/-! ### Vectors (09) -/

/-- Register `r` holds `x l` tagged `t` in lanes 0 to 7. -/
def fill (r : Nat) (t : Tag) (x : Nat → W32) (g : Gang) : Gang := g.setVs r t ((List.range 8).map (fun l => (l, x l)))

/-- What a source field supplies. -/
def vals (cx : Ctx) (a : BitVec 8) (l : Nat) : Val :=
  match srcOfField cx true a with
  | .ok x => (match x.read cx l with
    | .ok v => v
    | .error _ => .int 0)
  | .error _ => .int 0

theorem ops2 {cx : Ctx} {n : BitVec 1} {d : BitVec 7} {a b : BitVec 8} {third : Bool} {mods : Nat} {va vb : Nat → Val} {reads : Bool} (x y : Src)
    (h : (n = 0 ∨ (d = 0 ∧ third = false)) ∧ cx.modw.toNat &&& (mdAll - mods) = 0 ∧ (d.toNat < 64 ∨ cx.g.ext ≠ none))
    (hs : srcOfField cx true a = .ok x ∧ srcB cx true b = .ok y ∧ x.block cx = .ok () ∧ y.block cx = .ok () ∧ reads = (x.isLatch || y.isLatch) ∧
      ∀ l ∈ cx.ls, x.read cx l = .ok (va l) ∧ y.read cx l = .ok (vb l))
    (hc : SMap.get 0 cx.sp.chain (cx.plane.getD 0) ≤ 16) : Operands2 cx n d a b third mods va vb reads :=
  ⟨h.1, h.2.1, h.2.2, ⟨x, y, hs⟩, fun _ => hc⟩

theorem ops1 {cx : Ctx} {n : BitVec 1} {d : BitVec 7} {a : BitVec 8} {mods : Nat} {va : Nat → Val} {reads : Bool} (x : Src)
    (h : (n = 0 ∨ d = 0) ∧ cx.modw.toNat &&& (mdAll - mods) = 0 ∧ (d.toNat < 64 ∨ cx.g.ext ≠ none))
    (hs : srcOfField cx true a = .ok x ∧ x.block cx = .ok () ∧ reads = x.isLatch ∧ ∀ l ∈ cx.ls, x.read cx l = .ok (va l))
    (hc : SMap.get 0 cx.sp.chain (cx.plane.getD 0) ≤ 16) : Operands1 cx n d a mods va reads :=
  ⟨h.1, h.2.1, h.2.2, ⟨x, hs⟩, fun _ => hc⟩

theorem ints {cx : Ctx} {n : BitVec 1} {d : BitVec 7} {l : Nat} {vs : List Val} {old : List Tag} {t : Tag} {xs : List Nat}
    (h : t.integer = true ∧ (∀ u ∈ vs.filterMap Val.tag? ++ old, u = t) ∧ (vs.filterMap Val.tag? ++ old = [] → t = .s32) ∧
      (t.natural = true → cx.md.nega = false ∧ cx.md.negb = false ∧ cx.md.absa = false ∧ cx.md.absb = false ∧ cx.md.negr = false) ∧
      (t.wide = true → n = 0 ∧ d.toNat % 2 = 0))
    (hb : List.Forall₂ (fun v x => v.get cx true t l = .ok x) vs xs) : IntSources cx n d l vs old t xs :=
  ⟨h.1, h.2.1, h.2.2.1, h.2.2.2.1, h.2.2.2.2, hb⟩

def vec (g : Gang) : Gang := fill 4 .s32 (fun _ => 1) (fill 2 .s32 (fun l => BitVec.ofNat 32 (l + 5)) (fill 1 .s32 (fun _ => -1) g))

def vstate (w : W32) : State := on w (some 0) vec two
def vctx (w : W32) : Ctx := mkCtx (vstate w) ⟨0, 0, 0, some 0, w⟩ (launchSplit (two (placeGroup (opcodeOf w) 0)).kernel 0)

theorem meets_vector_integers : ∃ (s : State) (cx : Ctx) (va vb : Nat → Val) (x y : Nat → Nat), s.ctx? = some cx ∧
    (∀ l ∈ cx.ls, IntSources cx 0 3 l [va l, vb l] [] .s32 [x l, y l]) ∧
    Operands2 cx 0 3 1 2 false 0 va vb false ∧ Operands2 cx 0 3 1 2 false (mdSigns + mdNEGR + mdCLAMP + mdSAT) va vb false ∧
    Operands2 cx 0 3 1 2 false mdSigns va vb false ∧ cx.ls ≠ [] := by
  refine ⟨vstate 0x40030102, vctx 0x40030102, vals (vctx 0x40030102) 1, vals (vctx 0x40030102) 2, fun _ => 0xFFFFFFFF, fun l => l + 5, rfl, ?_,
    ops2 (.reg 1) (.reg 2) (by decide) (by decide) (by decide), ops2 (.reg 1) (.reg 2) (by decide) (by decide) (by decide),
    ops2 (.reg 1) (.reg 2) (by decide) (by decide) (by decide), by decide⟩
  have h : ∀ l ∈ (vctx 0x40030102).ls, (vals (vctx 0x40030102) 1 l).get (vctx 0x40030102) true .s32 l = .ok 0xFFFFFFFF ∧
      (vals (vctx 0x40030102) 2 l).get (vctx 0x40030102) true .s32 l = .ok (l + 5) := by decide
  have k : ∀ l ∈ (vctx 0x40030102).ls, ∀ u ∈ [vals (vctx 0x40030102) 1 l, vals (vctx 0x40030102) 2 l].filterMap Val.tag? ++ ([] : List Tag), u = .s32 := by
    decide
  intro l hl
  exact ints ⟨rfl, k l hl, fun _ => rfl, by decide, by decide⟩ (.cons (h l hl).1 (.cons (h l hl).2 .nil))

/-- A latch as source of an issue that the chain's head and sixteen more precede. -/
theorem meets_vector_traps :
    (∃ (s : State) (cx : Ctx), s.ctx? = some cx ∧ cx.modw = 0 ∧ srcOfField cx true 1 = .ok (.reg 1) ∧ srcB cx true 64 = .ok (.reg 64) ∧ cx.g.ext = none) ∧
    (∃ (s : State) (cx : Ctx), s.ctx? = some cx ∧ cx.modw = 0 ∧ srcOfField cx true 0x80 = .ok (.latch 0) ∧ srcB cx true 1 = .ok (.reg 1) ∧
      (Src.latch 0).isLatch = true ∧ 16 < SMap.get 0 cx.sp.chain (cx.plane.getD 0)) ∧
    (∃ (s : State) (cx : Ctx), s.ctx? = some cx ∧ cx.modw = 0 ∧ srcOfField cx true 0x80 = .ok (.latch 0) ∧ srcB cx true 1 = .ok (.reg 1) ∧
      cx.ls = [] ++ 0 :: [1, 2, 3, 4, 5, 6, 7] ∧ ¬16 < SMap.get 0 cx.sp.chain (cx.plane.getD 0) ∧ cx.g.latch (cx.plane.getD 0) 0 0 = none) ∧
    (∃ (s : State) (cx : Ctx), s.ctx? = some cx ∧ cx.modw = 0 ∧ srcOfField cx true 1 = .ok (.reg 1) ∧ srcB cx true 2 = .ok (.reg 2) ∧
      cx.ls = [] ++ 0 :: [1, 2, 3, 4, 5, 6, 7] ∧ (Src.reg 1).read cx 0 = .ok (.tagged 0xFFFFFFFF .s32 (some 1)) ∧
      (Src.reg 2).read cx 0 = .ok (.tagged 1 .n32 (some 2))) := by
  refine ⟨?register, ?chain, ?latch, ?tag⟩
  case register => exact ⟨vstate 0x40030140, _, rfl, by decide, rfl, rfl, by decide⟩
  case chain =>
    let late (sp : Split) : Split := { sp with chain := [(0, 17)] }
    exact ⟨on 0x40038001 (some 0) (fun g => { vec g with splits := g.splits.map late }) two, _, rfl, by decide, rfl, rfl, rfl, by decide⟩
  case latch =>
    refine ⟨vstate 0x40038001, _, rfl, ?_, rfl, rfl, ?_, ?_, ?_⟩ <;> decide
  case tag =>
    refine ⟨on 0x40030102 (some 0) (fun g => fill 2 .n32 (fun _ => 1) (vec g)) two, _, rfl, ?_, rfl, rfl, ?_, rfl, rfl⟩ <;> decide

theorem meets_vector_mad : ∃ (s : State) (cx : Ctx) (va vb : Nat → Val), s.ctx? = some cx ∧
    Operands2 cx 0 4 1 2 true (mdSigns + mdNEGR + mdCLAMP + mdSAT) va vb false ∧ RegsReadable cx 4 1 ∧
    (∀ l ∈ cx.ls, IntSources cx 0 4 l [va l, vb l, .tagged (cx.g.cell 4 l).bits (cx.g.cell 4 l).tag (some 4)] [] .s32 [0xFFFFFFFF, l + 5, 1]) := by
  refine ⟨vstate 0x44040102, vctx 0x44040102, vals (vctx 0x44040102) 1, vals (vctx 0x44040102) 2, rfl,
    ops2 (.reg 1) (.reg 2) (by decide) (by decide) (by decide), by unfold RegsReadable; decide, ?_⟩
  have h : ∀ l ∈ (vctx 0x44040102).ls, (vals (vctx 0x44040102) 1 l).get (vctx 0x44040102) true .s32 l = .ok 0xFFFFFFFF ∧
      (vals (vctx 0x44040102) 2 l).get (vctx 0x44040102) true .s32 l = .ok (l + 5) ∧
      (Val.tagged ((vctx 0x44040102).g.cell 4 l).bits ((vctx 0x44040102).g.cell 4 l).tag (some 4)).get (vctx 0x44040102) true .s32 l = .ok 1 := by decide
  have k : ∀ l ∈ (vctx 0x44040102).ls, ∀ u ∈ [vals (vctx 0x44040102) 1 l, vals (vctx 0x44040102) 2 l,
      Val.tagged ((vctx 0x44040102).g.cell 4 l).bits ((vctx 0x44040102).g.cell 4 l).tag (some 4)].filterMap Val.tag? ++ ([] : List Tag), u = .s32 := by
    decide
  intro l hl
  exact ints ⟨rfl, k l hl, fun _ => rfl, by decide, by decide⟩ (.cons (h l hl).1 (.cons (h l hl).2.1 (.cons (h l hl).2.2 .nil)))

theorem meets_vector_counts : ∃ (s : State) (cx : Ctx) (va : Nat → Val), s.ctx? = some cx ∧ Operands1 cx 0 3 1 0 va false ∧
    (∀ l ∈ cx.ls, IntSources cx 0 3 l [va l] [] .s32 [0xFFFFFFFF]) := by
  refine ⟨vstate 0x4E030100, vctx 0x4E030100, vals (vctx 0x4E030100) 1, rfl, ops1 (.reg 1) (by decide) (by decide) (by decide), ?_⟩
  have h : ∀ l ∈ (vctx 0x4E030100).ls, (vals (vctx 0x4E030100) 1 l).get (vctx 0x4E030100) true .s32 l = .ok 0xFFFFFFFF := by decide
  have k : ∀ l ∈ (vctx 0x4E030100).ls, ∀ u ∈ [vals (vctx 0x4E030100) 1 l].filterMap Val.tag? ++ ([] : List Tag), u = .s32 := by decide
  intro l hl
  exact ints ⟨rfl, k l hl, fun _ => rfl, by decide, by decide⟩ (.cons (h l hl) .nil)

/-- VADD wraps; its result stands in x0 too. -/
theorem test_vadd : (List.range 8).map (fun l => ((gang (exec (.vadd 0 3 1 2) (vstate 0x40030102))).cell 3 l).bits) =
    [4, 5, 6, 7, 8, 9, 10, 11] := by decide
theorem test_vadd_latch : (gang (exec (.vadd 1 0 1 2) (vstate 0x40800102))).latch 0 0 7 = some ⟨11, .s32, false⟩ := by decide
theorem test_vsub : ((gang (exec (.vsub 0 3 1 2) (vstate 0x41030102))).cell 3 0).bits = -6 := by decide
theorem test_vmul : ((gang (exec (.vmul 0 3 1 2) (vstate 0x42030102))).cell 3 1).bits = -6 := by decide
theorem test_vmulh : ((gang (exec (.vmulh 0 3 1 2) (vstate 0x43030102))).cell 3 1).bits = -1 := by decide
theorem test_vmad : ((gang (exec (.vmad 0 4 1 2) (vstate 0x44040102))).cell 4 2).bits = -6 := by decide
theorem test_vshl : ((gang (exec (.vshl 0 3 1 2) (vstate 0x48030102))).cell 3 0).bits = 0xFFFFFFE0 := by decide
theorem test_vsra : ((gang (exec (.vsra 0 3 1 2) (vstate 0x4A030102))).cell 3 0).bits = 0xFFFFFFFF := by decide
theorem test_vshr : ((gang (exec (.vshr 0 3 1 2) (vstate 0x49030102))).cell 3 0).bits = 0x07FFFFFF := by decide
theorem test_vmin : ((gang (exec (.vmin 0 3 1 2) (vstate 0x4B030102))).cell 3 0).bits = -1 := by decide
theorem test_vabsd : (gang (exec (.vabsd 0 3 1 2) (vstate 0x4D030102))).cell 3 0 = ⟨6, .n32, false⟩ := by decide
theorem test_vpop : (gang (exec (.vpop 0 3 1) (vstate 0x4F030100))).cell 3 0 = ⟨32, .n32, false⟩ := by decide
theorem test_vclz : (gang (exec (.vclz 0 3 2) (vstate 0x4E030200))).cell 3 0 = ⟨29, .n32, false⟩ := by decide
theorem test_vadd_tags_differ : (got (exec (.vadd 0 3 1 2) (on 0x40030102 (some 0) (fun g => fill 2 .n32 (fun _ => 1) (vec g)) two))).wgAt 0 |>.ending := by decide

theorem meets_vector_fields : ∃ (s : State) (cx : Ctx) (va vb : Nat → Val) (x y : Nat → W32), s.ctx? = some cx ∧
    (∀ l ∈ cx.ls, IntSources cx 0 4 l [va l, vb l] [] .s32 [(x l).toNat, (y l).toNat]) ∧
    Operands2 cx 0 4 1 2 false 0 va vb false ∧ Operands2 cx 0 4 1 2 true 0 va vb false ∧ RegsReadable cx 4 1 := by
  refine ⟨vstate 0x50040102, vctx 0x50040102, vals (vctx 0x50040102) 1, vals (vctx 0x50040102) 2, fun _ => 0xFFFFFFFF, fun l => BitVec.ofNat 32 (l + 5),
    rfl, ?_, ops2 (.reg 1) (.reg 2) (by decide) (by decide) (by decide), ops2 (.reg 1) (.reg 2) (by decide) (by decide) (by decide),
    by unfold RegsReadable; decide⟩
  have h : ∀ l ∈ (vctx 0x50040102).ls, (vals (vctx 0x50040102) 1 l).get (vctx 0x50040102) true .s32 l = .ok (0xFFFFFFFF : W32).toNat ∧
      (vals (vctx 0x50040102) 2 l).get (vctx 0x50040102) true .s32 l = .ok (BitVec.ofNat 32 (l + 5)).toNat := by decide
  have k : ∀ l ∈ (vctx 0x50040102).ls, ∀ u ∈ [vals (vctx 0x50040102) 1 l, vals (vctx 0x50040102) 2 l].filterMap Val.tag? ++ ([] : List Tag), u = .s32 := by
    decide
  intro l hl
  exact ints ⟨rfl, k l hl, fun _ => rfl, by decide, by decide⟩ (.cons (h l hl).1 (.cons (h l hl).2 .nil))

def bitf (g : Gang) : Gang := fill 4 .n32 (fun _ => 0xFFFF0000) (fill 2 .n32 (fun _ => 0x804) (fill 1 .n32 (fun _ => 0xF85) g))

theorem test_vbfe : ((gang (exec (.vbfe 0 3 1 2) (on 0x50030102 (some 0) bitf two))).cell 3 0).bits = 0xF8 := by decide
theorem test_vbfi : ((gang (exec (.vbfi 0 4 1 2) (on 0x51040102 (some 0) bitf two))).cell 4 0).bits = 0xFFFF0850 := by decide

theorem meets_vector_bits : ∃ (s : State) (cx : Ctx) (va vb : Nat → Val) (x y : Nat → Nat), s.ctx? = some cx ∧
    (∀ l ∈ cx.ls, (Tag.s32 = (match (va l).tag?, (vb l).tag? with
      | some u, _ => u
      | none, some u => u
      | none, none => .b32)) ∧ (va l).get cx false .s32 l = .ok (x l) ∧ (vb l).get cx false .s32 l = .ok (y l)) ∧
    Operands2 cx 0 4 1 2 false 0 va vb false ∧ Operands2 cx 0 4 1 2 true 0 va vb false ∧ RegsReadable cx 4 1 ∧ Operands1 cx 0 4 1 0 va false :=
  ⟨vstate 0x45040102, vctx 0x45040102, vals (vctx 0x45040102) 1, vals (vctx 0x45040102) 2, fun _ => 0xFFFFFFFF, fun l => l + 5, rfl, by decide,
    ops2 (.reg 1) (.reg 2) (by decide) (by decide) (by decide), ops2 (.reg 1) (.reg 2) (by decide) (by decide) (by decide),
    by unfold RegsReadable; decide, ops1 (.reg 1) (by decide) (by decide) (by decide)⟩

theorem test_vand : (gang (exec (.vand 0 3 1 2) (vstate 0x45030102))).cell 3 2 = ⟨7, .s32, false⟩ := by decide
theorem test_vsel : ((gang (exec (.vsel 0 4 1 2) (vstate 0x52040102))).cell 4 2).bits = 0xFFFFFFFF := by decide
theorem test_vmov : (gang (exec (.vmov 0 3 0x85) (vstate 0x53038500))).cell 3 7 = ⟨1, .n32, false⟩ := by decide

/-- 1.5 and -2 in F32; 1.5 in the low and -2 in the high half of F16X2. -/
def flt (g : Gang) : Gang :=
  fill 6 .f16x2 (fun _ => 0xC0003E00) (fill 5 .f32 (fun _ => 0x3F800000) (fill 2 .f32 (fun _ => 0xC0000000) (fill 1 .f32 (fun _ => 0x3FC00000) g)))

def fstate (w : W32) : State := on w (some 0) flt two
def fctx (w : W32) : Ctx := mkCtx (fstate w) ⟨0, 0, 0, some 0, w⟩ (launchSplit (two (placeGroup (opcodeOf w) 0)).kernel 0)

theorem floats {vs : List Val} {old : List Tag} {t : Tag} {f : FFmt} (h : t.float = some f) (k : ∀ u ∈ vs.filterMap Val.tag? ++ old, u = t)
    (e : vs.filterMap Val.tag? ++ old = [] → t = .f32) : FloatSources vs old t f := ⟨h, k, e⟩

theorem meets_vector_floats : ∃ (s : State) (cx : Ctx) (va vb : Nat → Val), s.ctx? = some cx ∧
    Operands2 cx 0 5 1 2 false mdAll va vb false ∧ Operands2 cx 0 5 1 2 true mdAll va vb false ∧
    Operands2 cx 0 5 1 2 false (mdSigns + mdNEGR + mdCLAMP) va vb false ∧ RegsReadable cx 5 1 ∧
    (∀ l ∈ cx.ls, FloatSources [va l, vb l] [] .f32 fF32 ∧ FloatSources [va l, vb l] [(cx.g.cell 5 l).tag] .f32 fF32) := by
  refine ⟨fstate 0x60050102, fctx 0x60050102, vals (fctx 0x60050102) 1, vals (fctx 0x60050102) 2, rfl,
    ops2 (.reg 1) (.reg 2) (by decide) (by decide) (by decide), ops2 (.reg 1) (.reg 2) (by decide) (by decide) (by decide),
    ops2 (.reg 1) (.reg 2) (by decide) (by decide) (by decide), by unfold RegsReadable; decide, ?_⟩
  have k : ∀ l ∈ (fctx 0x60050102).ls, ∀ u ∈ [vals (fctx 0x60050102) 1 l, vals (fctx 0x60050102) 2 l].filterMap Val.tag? ++
      [((fctx 0x60050102).g.cell 5 l).tag], u = .f32 := by decide
  intro l hl
  exact ⟨floats rfl (fun u hu => k l hl u (List.mem_append_left _ (by simpa using hu))) (fun _ => rfl), floats rfl (k l hl) (fun _ => rfl)⟩

theorem test_fadd : (gang (exec (.fadd 0 3 1 2) (fstate 0x60030102))).cell 3 0 = ⟨0xBF000000, .f32, false⟩ := by decide
theorem test_fsub : ((gang (exec (.fsub 0 3 1 2) (fstate 0x61030102))).cell 3 0).bits = 0x40600000 := by decide
theorem test_fmul : ((gang (exec (.fmul 0 3 1 2) (fstate 0x62030102))).cell 3 0).bits = 0xC0400000 := by decide
theorem test_ffma : ((gang (exec (.ffma 0 5 1 2) (fstate 0x63050102))).cell 5 0).bits = 0xC0000000 := by decide
theorem test_fmin : ((gang (exec (.fmin 0 3 1 2) (fstate 0x64030102))).cell 3 0).bits = 0xC0000000 := by decide
theorem test_fmax : ((gang (exec (.fmax 0 3 1 2) (fstate 0x65030102))).cell 3 0).bits = 0x3FC00000 := by decide
/-- 2^24 + 1 is inexact. -/
theorem test_fadd_inexact : (gang (exec (.fadd 0 3 1 2) (on 0x60030102 (some 0)
    (fun g => fill 2 .f32 (fun _ => 0x3F800000) (fill 1 .f32 (fun _ => 0x4B800000) g)) two))).flags ≠ 0 := by decide

theorem meets_vector_compares : ∃ (s : State) (cx : Ctx) (va vb : Nat → Val), s.ctx? = some cx ∧ Operands2 cx 0 0 1 2 false mdSigns va vb false ∧
    (∀ l ∈ cx.ls, IntSources cx 0 0 l [va l, vb l] [] .s32 [0xFFFFFFFF, l + 5]) := by
  refine ⟨vstate 0x54110102, vctx 0x54110102, vals (vctx 0x54110102) 1, vals (vctx 0x54110102) 2, rfl,
    ops2 (.reg 1) (.reg 2) (by decide) (by decide) (by decide), ?_⟩
  have h : ∀ l ∈ (vctx 0x54110102).ls, (vals (vctx 0x54110102) 1 l).get (vctx 0x54110102) true .s32 l = .ok 0xFFFFFFFF ∧
      (vals (vctx 0x54110102) 2 l).get (vctx 0x54110102) true .s32 l = .ok (l + 5) := by decide
  have k : ∀ l ∈ (vctx 0x54110102).ls, ∀ u ∈ [vals (vctx 0x54110102) 1 l, vals (vctx 0x54110102) 2 l].filterMap Val.tag? ++ ([] : List Tag), u = .s32 := by
    decide
  intro l hl
  exact ints ⟨rfl, k l hl, fun _ => rfl, by decide, by decide⟩ (.cons (h l hl).1 (.cons (h l hl).2 .nil))

theorem meets_float_compares : ∃ (s : State) (cx : Ctx) (va vb : Nat → Val), s.ctx? = some cx ∧ Operands2 cx 0 0 1 2 false mdSigns va vb false ∧
    (∀ l ∈ cx.ls, FloatSources [va l, vb l] [] .f32 fF32) := by
  refine ⟨fstate 0x66290102, fctx 0x66290102, vals (fctx 0x66290102) 1, vals (fctx 0x66290102) 2, rfl,
    ops2 (.reg 1) (.reg 2) (by decide) (by decide) (by decide), ?_⟩
  have k : ∀ l ∈ (fctx 0x66290102).ls, ∀ u ∈ [vals (fctx 0x66290102) 1 l, vals (fctx 0x66290102) 2 l].filterMap Val.tag? ++ ([] : List Tag), u = .f32 := by
    decide
  intro l hl
  exact floats rfl (k l hl) (fun _ => rfl)

theorem test_vcmp : (gang (exec (.vcmp 0 2 1 2 0x98) (vstate 0x54110298))).preg 1 = 0x07 := by decide
theorem test_fcmp : (gang (exec (.fcmp 0 5 1 1 0x90) (fstate 0x66290190))).preg 1 = 0xFF := by decide

theorem meets_approx_class_dot : ∃ (s : State) (cx : Ctx) (va vb : Nat → Val), s.ctx? = some cx ∧
    Operands1 cx 0 3 1 (mdNEGA + mdABSA + mdNEGR + mdEXP2 + mdCLAMP + mdSAT) va false ∧ Operands1 cx 0 3 1 0 va false ∧
    (∀ l ∈ cx.ls, FloatSources [va l] [] .f32 fF32) ∧ Operands2 cx 0 5 6 6 true mdAll vb vb false ∧ RegsReadable cx 5 1 ∧
    (∀ l ∈ cx.ls, FloatSources [vb l, vb l] [] .f16x2 fF16) ∧ (∀ l ∈ cx.ls, (cx.g.cell 5 l).tag = .f32) := by
  refine ⟨fstate 0x6C050606, fctx 0x6C050606, vals (fctx 0x6C050606) 1, vals (fctx 0x6C050606) 6, rfl,
    ops1 (.reg 1) (by decide) (by decide) (by decide), ops1 (.reg 1) (by decide) (by decide) (by decide), ?_,
    ops2 (.reg 6) (.reg 6) (by decide) (by decide) (by decide), by unfold RegsReadable; decide, ?_, by decide⟩
  · have k : ∀ l ∈ (fctx 0x6C050606).ls, ∀ u ∈ [vals (fctx 0x6C050606) 1 l].filterMap Val.tag? ++ ([] : List Tag), u = .f32 := by decide
    exact fun l hl => floats rfl (k l hl) (fun _ => rfl)
  · have k : ∀ l ∈ (fctx 0x6C050606).ls, ∀ u ∈ [vals (fctx 0x6C050606) 6 l, vals (fctx 0x6C050606) 6 l].filterMap Val.tag? ++ ([] : List Tag), u = .f16x2 := by
      decide
    have e : ∀ l ∈ (fctx 0x6C050606).ls, [vals (fctx 0x6C050606) 6 l, vals (fctx 0x6C050606) 6 l].filterMap Val.tag? ++ ([] : List Tag) ≠ [] := by decide
    exact fun l hl => floats rfl (k l hl) (fun z => absurd z (e l hl))

/-- 09 R164: 1.5 is a positive normal number, bit 6 of the class; 09 R165: 1 + 1.5² + 2² = 7.25. -/
theorem test_fclass : ((gang (exec (.fclass 0 3 1) (fstate 0x6B030100))).cell 3 0).tag = .n32 := by decide
theorem test_fdot2 : (gang (exec (.fdot2 0 5 6 6) (fstate 0x6C050606))).cell 5 0 = ⟨0x40E80000, .f32, false⟩ := by decide

theorem meets_conversions : ∃ (s : State) (cx : Ctx) (va : Nat → Val), s.ctx? = some cx ∧ Operands1 cx 0 3 1 (mdSAT + mdRND) va false ∧
    SelectorIn cx 0x91 .s32 ∧ Operands1 cx 0 3 1 0 va false ∧ (∀ l ∈ cx.ls, (va l).tag? = some .f32 ∧ (va l).get cx true .f32 l = .ok 0x3FC00000) ∧
    (∃ se, Tag.f32.elem = some se ∧ Tag.f32.width = Tag.s32.width ∧ cx.md.rnd = 0) :=
  ⟨fstate 0x70030191, fctx 0x70030191, vals (fctx 0x70030191) 1, rfl, ops1 (.reg 1) (by decide) (by decide) (by decide),
    ⟨1, by decide, rfl, Or.inl (by decide)⟩, ops1 (.reg 1) (by decide) (by decide) (by decide), by decide, _, rfl, by decide⟩

theorem meets_tagset_wide : ∃ (s : State) (cx : Ctx) (va : Nat → Val), s.ctx? = some cx ∧ Operands1 cx 0 4 2 0 va false ∧
    SelectorIn cx 0x9B .s64 ∧ Tag.s64.wide = true ∧ RegsReadable cx 2 2 :=
  ⟨vstate 0x7304029B, vctx 0x7304029B, vals (vctx 0x7304029B) 2, rfl, ops1 (.reg 2) (by decide) (by decide) (by decide),
    ⟨11, by decide, rfl, Or.inl (by decide)⟩, by decide, by unfold RegsReadable; decide⟩

/-- 1.5 to S32, round to nearest even. -/
theorem test_cvt : (gang (exec (.cvt 0 3 1 0x91) (fstate 0x70030191))).cell 3 0 = ⟨2, .s32, false⟩ := by decide
theorem test_tagset : (gang (exec (.tagset 0 3 1 0x91) (fstate 0x73030191))).cell 3 0 = ⟨0x3FC00000, .s32, false⟩ := by decide
theorem test_tagget : (gang (exec (.tagget 0 3 1) (fstate 0x74030100))).cell 3 0 = ⟨3, .n32, false⟩ := by decide

def packf (g : Gang) : Gang :=
  fill 8 .f32 (fun _ => 0x3F800000) (fill 9 .f32 (fun _ => 0x3F800000) (fill 10 .f32 (fun _ => 0xC0000000) (fill 11 .f32 (fun _ => 0) (fill 12 .l6x4 (fun _ => 0) (flt g)))))

def pstate (w : W32) : State := on w (some 0) packf two

set_option maxRecDepth 4000 in
theorem meets_packs : ∃ (s : State) (cx : Ctx), s.ctx? = some cx ∧ cx.modw.toNat &&& mdAll = 0 ∧ RegsReadable cx 8 4 ∧
    (∀ i < 4, ∀ l ∈ cx.ls, (cx.g.cell (8 + i) l).tag = .f32) ∧ SelectorIn cx 0x94 .f16x2 ∧ SelectorIn cx 0x93 .f32 ∧ OneTag cx 8 2 .f32 ∧
    packs .f32 .f16x2 = true ∧ unpacks .f16x2 .f32 = true ∧ OneTag cx 6 1 .f16x2 ∧ OneTag cx 12 1 .l6x4 ∧
    srcOfField cx true 0x90 = .ok (.inl 0) ∧ srcB cx true 0x90 = .ok (.inl 0) ∧ (∀ l ∈ cx.ls, (Src.inl 0).read cx l = .ok (.int 0)) :=
  ⟨pstate 0x75060894, _, rfl, by decide, by unfold RegsReadable; decide, by decide, ⟨4, by decide, rfl, Or.inl (by decide)⟩,
    ⟨3, by decide, rfl, Or.inl (by decide)⟩, by unfold OneTag; decide, by decide, by decide, by unfold OneTag; decide, by unfold OneTag; decide,
    rfl, rfl, fun _ _ => rfl⟩

theorem test_pack : (gang (exec (.pack 0 6 1 0x94) (on 0x75060194 (some 0) flt two))).cell 6 0 = ⟨0xC0003E00, .f16x2, false⟩ := by decide
theorem test_unpk : ((gang (exec (.unpk 0 8 6 0x93) (fstate 0x76080693))).cell 8 0).bits = 0x3FC00000 ∧
    ((gang (exec (.unpk 0 8 6 0x93) (fstate 0x76080693))).cell 9 0).bits = 0xC0000000 := by decide

/-- VRED and VSCAN of 1 in every lane; VSHFL, VBCST, VROT, VCMPT, VBAL of lane numbers. -/
def lanef (g : Gang) : Gang := predd (fill 1 .n32 (fun l => BitVec.ofNat 32 l) (fill 2 .s32 (fun _ => 1) g))

def lstate (w : W32) : State := on w (some 0) lanef two

theorem meets_lane_moves : ∃ (s : State) (cx : Ctx) (k : W64), s.ctx? = some cx ∧ (∀ l < 32, (cx.g.cell 1 l).bad = false) ∧
    4 * cx.wg.kernel.slices ≤ 32 ∧ UniformIn cx 0x97 k ∧ k.toNat < 4 * cx.wg.kernel.slices ∧
    (∃ sb : Src, srcB cx false 0x97 = .ok sb ∧ sb.block cx = .ok () ∧ ∀ l ∈ cx.ls, sb.read cx l = .ok (.int 7)) :=
  ⟨lstate 0x78030197, _, 7, rfl, by decide, by decide, Or.inr ⟨rfl, Or.inl (by decide)⟩, by decide, .inl 7, rfl, rfl, fun _ _ => rfl⟩

theorem meets_reductions : ∃ (s : State) (cx : Ctx) (x : Nat → Nat), s.ctx? = some cx ∧ RegsReadable cx 2 1 ∧ OneTag cx 2 1 .s32 ∧
    redAccepts 0 .s32 = true ∧ (∀ l ∈ cx.ls, x l = (cx.g.cell 2 l).bits.toNat) ∧ Tag.s32.wide = false :=
  ⟨lstate 0x7B030200, _, fun _ => 1, rfl, by unfold RegsReadable; decide, by unfold OneTag; decide, by decide, by decide, rfl⟩

theorem test_vshfl : ((gang (exec (.vshfl 3 1 0x84) (lstate 0x78030184))).cell 3 5).bits = 5 := by decide
theorem test_vrot : ((gang (exec (.vrot 3 1 0x91) (lstate 0x79030191))).cell 3 7).bits = 0 := by decide
theorem test_vbcst : ((gang (exec (.vbcst 3 1 0x97) (lstate 0x7A030197))).cell 3 0).bits = 7 := by decide
theorem test_vred : ((gang (exec (.vred 3 2 0) (lstate 0x7B030200))).cell 3 0).bits = 8 := by decide
theorem test_vscan : ((gang (exec (.vscan 3 2 1 0) (lstate 0x7C030210))).cell 3 7).bits = 7 := by decide
theorem test_vcmpt : ((gang (exec (.vcmpt 3 1 1) (lstate 0x7D030101))).cell 3 1).bits = 5 := by decide
theorem test_vbal : ((gang (exec (.vbal 3 1 1) (lstate 0x7E030101))).cell 3 0).bits = 2 := by decide

/-- VROT by the immediate -1: lane 0 takes lane 7. -/
def rotated : State := on 0x79030100 (some 0) (fun g => prefixed 0 ⟨0, 2, false, false, none, none, none, some 0xFFFFFF, none, none, [.imm]⟩ (lanef g)) two

theorem meets_rotate_back : ∃ cx : Ctx, rotated.ctx? = some cx ∧ UniformIn cx 0 (-1) ∧ cx.imm.isSome = true ∧
    ((-1 : W64).toInt % (4 * cx.wg.kernel.slices : Nat)).toNat = 7 ∧ ∀ l < 32, (cx.g.cell 1 l).bad = false :=
  ⟨_, rfl, Or.inl ⟨by decide, rfl⟩, by decide⟩
theorem test_vrot_back : ((gang (exec (.vrot 3 1 0) rotated)).cell 3 0).bits = 7 := by decide

/-! ### Memory (13) -/

set_option maxRecDepth 20000

/-- The checks of `Reachable`, as one Boolean. -/
def reachOk (s : State) (core : Nat) (acc : Acc) (w al : Nat → Nat) (xs : Accesses) : Bool :=
  xs.all (fun x => x.2.toNat % al x.1 == 0) && xs.all (fun x => (bytesOf x.2 (w x.1)).all (spaceOk s core)) &&
  xs.all (fun x => match spaceOf x.2 with | .phys _ _ _ => false | _ => true) &&
  xs.all (fun x => (pageEnds x.2 (w x.1)).all (fun b => (walkFault s core acc b).isNone)) &&
  xs.all (fun x => (placesOf s core x.2 (w x.1)).all (fun p => match p with | .beyond _ => false | _ => true))

theorem reaches {s : State} {core : Nat} {acc : Acc} {w al : Nat → Nat} {xs : Accesses} (h : reachOk s core acc w al xs = true) :
    Reachable s core acc w al xs := by
  simp only [reachOk, Bool.and_eq_true, List.all_eq_true] at h
  obtain ⟨⟨⟨⟨h1, h2⟩, h3⟩, h4⟩, h5⟩ := h
  refine ⟨fun x hx => by simpa using h1 x hx, h2, fun _ x hx c win off e => ?_, fun x hx b hb => by simpa using h4 x hx b hb, fun x hx p hp pa e => ?_⟩
  · have := h3 x hx
    rw [e] at this
    cases this
  · have := h5 x hx p hp
    rw [e] at this
    cases this

theorem accessible {s : State} {core gang : Nat} {acc : Acc} {w al : Nat → Nat} {xs : Accesses}
    (h : (reachOk s core acc w al xs && xs.all (fun x => (bytesOf x.2 (w x.1)).all (fun b => !races s core gang acc b))) = true) :
    Accessible s core gang acc w al xs := by
  simp only [Bool.and_eq_true, List.all_eq_true] at h
  exact ⟨reaches h.1, fun x hx b hb => by simpa using h.2 x hx b hb⟩

theorem intact {s : State} {core : Nat} {w : Nat → Nat} {xs : Accesses}
    (h : xs.all (fun x => (bytesOf x.2 (w x.1)).all (fun b => !s.poisonAt (placeOf s core b))) = true) : Intact s core w xs := by
  simp only [List.all_eq_true] at h
  exact fun x hx b hb => by simpa using h x hx b hb

/-- s2 is the scratchpad's start; bytes 4 to 7 of it hold 0x80FF0102; v3 is four times the lane. -/
def memg (g : Gang) : Gang := (fill 3 .s32 (fun l => BitVec.ofNat 32 (4 * l)) g).setS 2 0xFE00000000000000

def memAt (w : W32) (f : Gang → Gang) : State :=
  let s := on w (some 0) (fun g => f (memg g))
  s.setCore 0 { s.coreAt 0 with store := { Store.empty with scr := [(4, 0x02), (5, 0x01), (6, 0xFF), (7, 0x80)] } }

def mcx (s : State) (w : W32) : Ctx := mkCtx s ⟨0, 0, 0, some 0, w⟩ (launchSplit (placeGroup (opcodeOf w) 0).kernel 0)

theorem meets_loads : ∃ (s : State) (cx : Ctx), s.ctx? = some cx ∧
    LoadReady cx s 4 3 1 4 4 (accesses cx (laneAddr cx 2 3 4)) ∧ LoadReady cx s 4 3 1 1 1 (accesses cx (laneAddr cx 2 3 1)) ∧
    LoadReady cx s 4 3 1 2 2 (accesses cx (laneAddr cx 2 3 2)) ∧ LoadReady cx s 4 3 1 3 1 (accesses cx (laneAddr cx 2 3 3)) := by
  refine ⟨memAt 0xA2080030 id, mcx (memAt 0xA2080030 id) 0xA2080030, rfl, ?_, ?_, ?_, ?_⟩ <;>
    exact ⟨by decide, by decide, by unfold OffsetReadable; decide, accessible (by decide), intact (by decide)⟩

theorem meets_loads_wide : ∃ (s : State) (cx : Ctx), s.ctx? = some cx ∧
    LoadReady cx s 4 127 2 8 8 (accesses cx (laneAddr cx 2 127 8)) ∧ LoadReady cx s 4 127 4 16 8 (accesses cx (laneAddr cx 2 127 16)) := by
  refine ⟨memAt 0xA30817F0 id, mcx (memAt 0xA30817F0 id) 0xA30817F0, rfl, ?_, ?_⟩ <;>
    exact ⟨by decide, by decide, by unfold OffsetReadable; decide, accessible (by decide), intact (by decide)⟩

theorem meets_stores : ∃ (s : State) (cx : Ctx), s.ctx? = some cx ∧
    StoreReady cx s 4 3 1 4 4 (accesses cx (laneAddr cx 2 3 4)) ∧ StoreReady cx s 4 3 1 1 1 (accesses cx (laneAddr cx 2 3 1)) ∧
    StoreReady cx s 4 3 1 2 2 (accesses cx (laneAddr cx 2 3 2)) ∧ StoreReady cx s 4 3 1 3 1 (accesses cx (laneAddr cx 2 3 3)) := by
  refine ⟨memAt 0xA7080030 id, mcx (memAt 0xA7080030 id) 0xA7080030, rfl, ?_, ?_, ?_, ?_⟩ <;>
    exact ⟨by unfold RegsReadable; decide, by unfold OffsetReadable; decide, accessible (by decide), by decide⟩

theorem meets_stores_wide : ∃ (s : State) (cx : Ctx), s.ctx? = some cx ∧
    StoreReady cx s 4 127 2 8 8 (accesses cx (laneAddr cx 2 127 8)) ∧ StoreReady cx s 4 127 4 16 8 (accesses cx (laneAddr cx 2 127 16)) := by
  refine ⟨memAt 0xA80817F0 id, mcx (memAt 0xA80817F0 id) 0xA80817F0, rfl, ?_, ?_⟩ <;>
    exact ⟨by unfold RegsReadable; decide, by unfold OffsetReadable; decide, accessible (by decide), by decide⟩

theorem test_ldw : (gang (exec (.ldw 4 2 3 1) (memAt 0xA2081031 id))).cell 4 1 = ⟨0x80FF0102, .s32, false⟩ := by decide
theorem test_ldh_signed : ((gang (exec (.ldh 4 2 3 1) (memAt 0xA1081031 (fun g => fill 3 .s32 (fun _ => 6) g)))).cell 4 1).bits = 0xFFFF80FF := by decide
theorem test_ldb : ((gang (exec (.ldb 4 2 3 2) (memAt 0xA0081032 (fun g => fill 3 .s32 (fun _ => 6) g)))).cell 4 1).bits = 0xFF := by decide
theorem test_stw : (got (exec (.stw 3 2 3 0) (memAt 0xA7061030 id))).byteAt (.pad 0 12) = 12 := by decide
theorem test_stb_last_lane : (got (exec (.stb 1 2 4 0) (memAt 0xA5021040 (fill 1 .n32 (fun l => BitVec.ofNat 32 (l + 7)))))).byteAt (.pad 0 0) = 10 := by
  decide
theorem test_ldw_misaligned : ((got (exec (.ldw 4 2 3 1) (memAt 0xA2081031 (fun g => fill 3 .s32 (fun _ => 6) g)))).wgAt 0).ending = true := by decide

/-- Lane 0 alone is active. -/
def one (g : Gang) : Gang := { g with splits := g.splits.map (fun sp => { sp with lanes := 1 }) }

/-- Gang 1 wrote the scratchpad's first byte after gang 0's last acquire of it. -/
def raced (w : W32) : State :=
  let s := on w (some 0) (fun g => one (memg g)) (fun h => { h with kernel := { h.kernel with schk := true } })
  s.setCore 0 { s.coreAt 0 with store := { Store.empty with tags := [(0, some ⟨1, 0, false, 1⟩)] } }

/-- Lane 0 of an access of 4, 8 or 16 bytes is not aligned to the address's 2 bytes. -/
theorem meets_alignment : ∃ (s : State) (cx : Ctx), s.ctx? = some cx ∧ ∀ u ∈ [4, 8, 16], ∃ post, accesses cx (laneAddr cx 2 127 u) = [] ++ (0, 0xFE00000000000002) :: post ∧
    (0xFE00000000000002 : W64).toNat % min u 8 ≠ 0 := by
  refine ⟨on 0xA20817F0 (some 0) (fun g => g.setS 2 0xFE00000000000002), _, rfl, fun u hu => ?_⟩
  simp only [List.mem_cons, List.not_mem_nil, or_false] at hu
  rcases hu with rfl | rfl | rfl <;> exact ⟨_, rfl, by decide⟩

/-- Lane 0 races, with the lowest byte. -/
def Races (acc : Acc) (u : Nat) : Prop := ∃ (s : State) (cx : Ctx), s.ctx? = some cx ∧ accesses cx (laneAddr cx 2 127 u) = [] ++ (0, 0xFE00000000000000) :: [] ∧
  Reachable s cx.core acc (fun _ => u) (fun _ => min u 8) (accesses cx (laneAddr cx 2 127 u)) ∧
  (∀ y ∈ accesses cx (laneAddr cx 2 127 u), ∀ p ∈ placesOf s cx.core y.2 u, p.plain = true) ∧
  ∃ b ∈ bytesOf 0xFE00000000000000 u, races s cx.core cx.gang acc b = true

def lane0 (w : W32) : Ctx := mkCtx (raced w) ⟨0, 0, 0, some 0, w⟩ { launchSplit (placeGroup (opcodeOf w) 0).kernel 0 with lanes := 1 }

theorem meets_race_byte : Races .load 1 ∧ Races .store 1 :=
  ⟨⟨raced 0xA00817F0, lane0 0xA00817F0, rfl, rfl, reaches (by decide), by decide, 0xFE00000000000000, by decide, by decide⟩,
    raced 0xA50817F0, lane0 0xA50817F0, rfl, rfl, reaches (by decide), by decide, 0xFE00000000000000, by decide, by decide⟩
theorem meets_race_half_word : Races .load 2 ∧ Races .store 2 ∧ Races .load 4 ∧ Races .store 4 :=
  ⟨⟨raced 0xA00817F0, lane0 0xA00817F0, rfl, rfl, reaches (by decide), by decide, 0xFE00000000000000, by decide, by decide⟩,
    ⟨raced 0xA00817F0, lane0 0xA00817F0, rfl, rfl, reaches (by decide), by decide, 0xFE00000000000000, by decide, by decide⟩,
    ⟨raced 0xA00817F0, lane0 0xA00817F0, rfl, rfl, reaches (by decide), by decide, 0xFE00000000000000, by decide, by decide⟩,
    raced 0xA50817F0, lane0 0xA50817F0, rfl, rfl, reaches (by decide), by decide, 0xFE00000000000000, by decide, by decide⟩
theorem meets_race_wide : Races .load 8 ∧ Races .store 8 ∧ Races .load 16 ∧ Races .store 16 :=
  ⟨⟨raced 0xA00817F0, lane0 0xA00817F0, rfl, rfl, reaches (by decide), by decide, 0xFE00000000000000, by decide, by decide⟩,
    ⟨raced 0xA00817F0, lane0 0xA00817F0, rfl, rfl, reaches (by decide), by decide, 0xFE00000000000000, by decide, by decide⟩,
    ⟨raced 0xA00817F0, lane0 0xA00817F0, rfl, rfl, reaches (by decide), by decide, 0xFE00000000000000, by decide, by decide⟩,
    raced 0xA50817F0, lane0 0xA50817F0, rfl, rfl, reaches (by decide), by decide, 0xFE00000000000000, by decide, by decide⟩

theorem meets_scalar_accesses : ∃ (s : State) (cx : Ctx), s.ctx? = some cx ∧
    Accessible s cx.core cx.gang .load (fun _ => 4) (fun _ => 4) [(0, cx.g.sreg 2 + (cx.imm).getD 0)] ∧
    Intact s cx.core (fun _ => 4) [(0, cx.g.sreg 2 + (cx.imm).getD 0)] ∧
    Accessible s cx.core cx.gang .store (fun _ => 4) (fun _ => 4) [(0, cx.g.sreg 2 + (cx.imm).getD 0)] ∧
    ∀ p ∈ placesOf s cx.core (cx.g.sreg 2 + (cx.imm).getD 0) 4, p.plain = true :=
  ⟨memAt 0xAA061002 id, mcx (memAt 0xAA061002 id) 0xAA061002, rfl, accessible (by decide), intact (by decide), accessible (by decide), by decide⟩

theorem test_sld : (gang (exec (.sld 3 2 6) (memAt 0xAA061006 (fun g => g.setS 2 0xFE00000000000004)))).sreg 3 = 0xFFFFFFFF80FF0102 := by decide
theorem test_sst : (got (exec (.sst 2 2 3) (memAt 0xAB041003 id))).byteAt (.pad 0 7) = 0xFE := by decide

/-- A load of global memory, through the identity map of the system space (21 R312). -/
theorem test_sld_global : (gang (exec (.sld 3 2 1) ({ memAt 0xAA061001 (fun g => g.setS 2 0x20000) with mem := [(0x20001, 7)] }))).sreg 3 = 0x700 := by
  decide

def atomg (g : Gang) : Gang := fill 5 .s32 (fun _ => 5) (fill 4 .s32 (fun l => BitVec.ofNat 32 (l + 1)) g)

theorem meets_atomics : ∃ (s : State) (cx : Ctx), s.ctx? = some cx ∧
    AtomicReady cx s 4 3 false true (fun t => t == .b32 || t == .s32 || t == .n32 || t == .s64 || t == .n64)
      (fun l => laneAddr cx 2 3 (atomicLaneOf cx 4 false l).bytes l) ∧
    AtomicReady cx s 4 3 false false (fun t => t == .b32 || t == .s32 || t == .n32 || t == .s64 || t == .n64)
      (fun l => laneAddr cx 2 3 (atomicLaneOf cx 4 false l).bytes l) ∧
    AtomicReady cx s 4 3 true true (fun t => decide (t.code ≤ 12)) (fun l => laneAddr cx 2 3 (atomicLaneOf cx 4 true l).bytes l) := by
  refine ⟨memAt 0xAC081030 atomg, mcx (memAt 0xAC081030 atomg) 0xAC081030, rfl, ?_, ?_, ?_⟩ <;>
    exact ⟨⟨by decide, by unfold OffsetReadable; decide, accessible (by decide), intact (by decide)⟩, by decide⟩

/-- Lanes 0 to 3 add 1, 2, 3 and 4 to one word, one after the other (13 R228). -/
theorem test_atom_add : (List.range 4).map (fun l => ((gang (exec (.atom 4 2 6 0) (memAt 0xAC081060 atomg))).cell 4 l).bits) = [0, 1, 3, 6] := by decide
theorem test_atom_sum : (got (exec (.atom 4 2 6 0) (memAt 0xAC081060 atomg))).byteAt (.pad 0 0) = 10 := by decide
theorem test_abnd : (got (exec (.abnd 5 2 6) (memAt 0xAD0A1060 atomg))).byteAt (.pad 0 0) = 4 := by decide
theorem test_acas : (got (exec (.acas 4 2 3) (memAt 0xAE081030 (fun g => fill 4 .s32 (fun _ => 0) (atomg g))))).byteAt (.pad 0 0) = 5 := by decide

theorem meets_fences : ∃ (s : State) (cx : Ctx), s.ctx? = some cx ∧ cx.g.atomicsOut = false ∧ (3 : BitVec 7).toNat < 64 :=
  ⟨memAt 0xB0000000 id, _, rfl, by decide⟩
theorem meets_ifence_waits : ∃ (s : State) (cx : Ctx), s.ctx? = some cx ∧ cx.g.atomicsOut = true :=
  ⟨memAt 0xB0000000 (fun g => { g with loads := [⟨4, 1, 1, true, false, false⟩] }), _, rfl, by decide⟩
theorem test_fence_release : (gang (exec (.fence 2 1) (memAt 0xAF480000 id))).relFence ≠ [] ∧
    (gang (exec (.fence 2 0) (memAt 0xAF400000 id))).relFence = [] := by decide
theorem test_ifence : ((got (exec .ifence { memAt 0xB0000000 id with mem := [(0x20001, 7)] })).coreAt 0).ibuf = [(0x20001, 7)] := by decide

/-- Region 3: four pages at 0x100000 in space 0, default 0x55, nothing backed. -/
def region : Region := ⟨0, 0x100000, 4, 0x55, 0, false, false, 0, 0, []⟩

def defs (s : State) : State := { s with regions := [(3, some region)], pool := [(0, [0x50000]), (1, [0x60000]), (2, [0x70000]), (3, [0x80000])] }

def region_at (w : W32) (a : W64) : State := defs (memAt w (fun g => g.setS 2 a))

theorem meets_region_queries : ∃ (s : State) (cx : Ctx), s.ctx? = some cx ∧ spaceOf (cx.g.sreg 2) = .global 0x110000 ∧
    walkFault s cx.core .load (cx.g.sreg 2) = none ∧ placeOf s cx.core (cx.g.sreg 2) = .page 3 1 0 ∧ SMap.get none s.regions 3 = some region ∧
    ∀ k < 64, s.badPage (.page 3 (1 + k) 0) = false :=
  ⟨region_at 0xB2008080 0x110000, _, rfl, by decide⟩
/-- Region 3 with width 2 (LOGW 1), a reserve of 2 frames of which one is free on each die; its page 3 is backed, and its state cannot be corrected. -/
def region_res (w : W32) : State :=
  let r := { region with logw := 1, reserve := 2, free := [(0, [0x90000]), (1, [0xA0000]), (2, [0xB0000]), (3, [0xC0000])] }
  { region_at w 0x110000 with regions := [(3, some r)], backed := [(backKey 3 3, some ⟨0x50000, 0, true⟩)] }
theorem free_length {r : Region} {n k : Nat} (h : ∀ d < 4, (r.freeOn d).length = k) : (r.freeOn (r.dieOf n)).length = k := h _ (Nat.mod_lt _ (by decide))
/-- Each word of the descriptor, the reserve on the page's die among them. -/
theorem meets_region_words : ∀ w < 4, ∃ (s : State) (cx : Ctx) (r : Region), s.ctx? = some cx ∧ spaceOf (cx.g.sreg 2) = .global 0x110000 ∧
    walkFault s cx.core .load (cx.g.sreg 2) = none ∧ placeOf s cx.core (cx.g.sreg 2) = .page 3 1 0 ∧ SMap.get none s.regions 3 = some r ∧
    r.logw = 1 ∧ r.reserve = 2 ∧ (w = 3 → (r.freeOn (r.dieOf 1)).length = 1) :=
  fun _ _ => ⟨region_res 0xB408A080, _, _, rfl, by decide, by decide, by decide, rfl, rfl, rfl, fun _ => free_length (by decide)⟩
/-- The state of page 3, two pages on, cannot be corrected; so is that of the page asked for. -/
theorem meets_region_integrity : ∃ (s t : State) (cx cy : Ctx), s.ctx? = some cx ∧ placeOf s cx.core (cx.g.sreg 2) = .page 3 1 0 ∧
    s.badPage (.page 3 (1 + 2) 0) = true ∧ (∀ j < 2, s.badPage (.page 3 (1 + j) 0) = false) ∧
    t.ctx? = some cy ∧ placeOf t cy.core (cy.g.sreg 2) = .page 3 3 0 ∧ t.badPage (.page 3 (3 + 0) 0) = true :=
  ⟨region_res 0xB2008080, let s := region_res 0xB3008080; s.updGang 0 0 (fun g => g.setS 2 0x130000), _, _, rfl, by decide, by decide, by decide, rfl, by decide⟩
theorem meets_rginfo_word : ∃ (s : State) (cx : Ctx), s.ctx? = some cx ∧ 4 ≤ (4 : BitVec 6).toNat := ⟨region_at 0xB4108080 0x110000, _, rfl, by decide⟩
theorem meets_region_queries_outside : ∃ (s : State) (cx : Ctx), s.ctx? = some cx ∧ spaceOf (cx.g.sreg 2) = .global 0x200000 ∧
    walkFault s cx.core .load (cx.g.sreg 2) = none ∧ placeOf s cx.core (cx.g.sreg 2) = .dev 0x200000 :=
  ⟨region_at 0xB2008080 0x200000, _, rfl, by decide⟩
theorem meets_region_queries_scratchpad : ∃ (s : State) (cx : Ctx), s.ctx? = some cx ∧ spaceOf (cx.g.sreg 2) = .localPad 0 :=
  ⟨region_at 0xB2008080 0xFE00000000000000, _, rfl, by decide⟩
theorem test_pgstat : (gang (exec (.pgstat 8 2) (region_at 0xB3008080 0x110000))).sreg 8 = 0x8000000300000000 := by decide
theorem test_rginfo : (gang (exec (.rginfo 1 8 2) (region_at 0xB4048080 0x110000))).sreg 8 = 0x55 := by decide
/-- 15 R255: RGINFO.ATTR s10, s2 at that region. -/
theorem test_rginfo_attr : (gang (exec (.rginfo 2 10 2) (region_res 0xB408A080))).sreg 10 = 0x0000000400380004 := by decide
theorem test_pgenum_integrity : ((gang (exec (.pgenum 8 2) (region_res 0xB2008080))).service).map (fun v => (v.cause, v.addr)) =
    some (.integrity, 0x130000) := by decide

theorem meets_default_writes : ∃ (s : State) (r : Region), SMap.get none s.regions 3 = some r ∧ s.backedAt 3 1 = none ∧ r.pattern 0 = 0x55 ∧
    ((7 : Byte) ≠ r.pattern 65535) := ⟨defs State.reset, region, by decide⟩

/-- Page 1 of the region, with s2 its first byte and s3 = `x`; lane 0 alone is active, its v4 holds `x`. -/
def onPage (w : W32) (x : W64) (pool : Bool) : State :=
  let s := defs (on w (some 0) (fun g => fill 4 .n32 (fun _ => x.truncate 32) ((one g).setS 2 0x110000 |>.setS 3 x)))
  if pool then s else { s with pool := [] }

def pageCx (w : W32) (x : W64) (pool : Bool) : Ctx := mkCtx (onPage w x pool) ⟨0, 0, 0, some 0, w⟩ { launchSplit (placeGroup (opcodeOf w) 0).kernel 0 with lanes := 1 }

/-- A frame comes from whichever die the page's home is. -/
theorem some_frame {s : State} {i : Nat} {r : Region} {n : Nat} (h : ∀ d < 4, (takeFrame i d s).isSome = true) : ∃ f s', takeFrame i (r.dieOf n) s = some (f, s') := by
  obtain ⟨x, hx⟩ := Option.isSome_iff_exists.mp (h (r.dieOf n) (Nat.mod_lt _ (by decide)))
  exact ⟨x.1, x.2, hx⟩
theorem no_frame {s : State} {i : Nat} {r : Region} {n : Nat} (h : ∀ d < 4, (takeFrame i d s).isNone = true) : takeFrame i (r.dieOf n) s = none :=
  Option.isNone_iff_eq_none.mp (h (r.dieOf n) (Nat.mod_lt _ (by decide)))

/-- What a store (SST) of one byte to page 1 needs. -/
def StoresToPage (s : State) (cx : Ctx) : Prop := s.ctx? = some cx ∧ SMap.get none s.regions 3 = some region ∧ s.backedAt 3 1 = none ∧
  cx.g.sreg 2 + (cx.imm).getD 0 = 0x110000 ∧ placesOf s cx.core 0x110000 1 = [.page 3 1 0] ∧
  Accessible s cx.core cx.gang .store (fun _ => 1) (fun _ => 1) [(0, 0x110000)]

theorem meets_page_store_pattern : ∃ (s : State) (cx : Ctx), StoresToPage s cx ∧ byteOf (cx.g.sreg 3).toNat 0 = region.pattern 0 :=
  ⟨onPage 0xAB0C8000 0x55 true, pageCx 0xAB0C8000 0x55 true, ⟨rfl, rfl, by decide, by decide, by decide, accessible (by decide)⟩, by decide⟩
theorem meets_page_store_backs : ∃ (s : State) (cx : Ctx), StoresToPage s cx ∧ byteOf (cx.g.sreg 3).toNat 0 ≠ region.pattern 0 ∧
    ∃ f s', takeFrame 3 (region.dieOf 1) s = some (f, s') :=
  ⟨onPage 0xAB0C8000 7 true, pageCx 0xAB0C8000 7 true, ⟨rfl, rfl, by decide, by decide, by decide, accessible (by decide)⟩, by decide, some_frame (by decide)⟩
theorem meets_page_store_exhausted : ∃ (s : State) (cx : Ctx), StoresToPage s cx ∧ byteOf (cx.g.sreg 3).toNat 0 ≠ region.pattern 0 ∧
    takeFrame 3 (region.dieOf 1) s = none :=
  ⟨onPage 0xAB0C8000 7 false, pageCx 0xAB0C8000 7 false, ⟨rfl, rfl, by decide, by decide, by decide, accessible (by decide)⟩, by decide, no_frame (by decide)⟩

/-- What an atomic of lane 0 to page 1 needs; its old value is 0x55555555. -/
def AtomicToPage (s : State) (cx : Ctx) : Prop := s.ctx? = some cx ∧ SMap.get none s.regions 3 = some region ∧ s.backedAt 3 1 = none ∧ cx.ls = [0] ∧
  laneAddr cx 2 127 4 0 = 0x110000 ∧ (atomicLaneOf cx 4 false 0).bytes = 4 ∧ placesOf s cx.core 0x110000 4 = (List.range 4).map (fun k => .page 3 1 k) ∧
  s.readNum cx.core 0x110000 4 = 0x55555555 ∧
  AtomicChecked cx s 4 127 false true (fun t => t == .b32 || t == .s32 || t == .n32 || t == .s64 || t == .n64)
    (fun l => laneAddr cx 2 127 (atomicLaneOf cx 4 false l).bytes l)

/-- The sum is 7 more, or the same. -/
theorem meets_page_atomic : ∀ x ∈ [(7 : W64), 0], ∃ (s : State) (cx : Ctx), AtomicToPage s cx ∧ (cx.g.cell 4 0).bits = x.truncate 32 ∧
    ∃ f s', takeFrame 3 (region.dieOf 1) s = some (f, s') := by
  intro x hx
  simp only [List.mem_cons, List.not_mem_nil, or_false] at hx
  rcases hx with rfl | rfl
  · exact ⟨onPage 0xAC0817F0 7 true, pageCx 0xAC0817F0 7 true, ⟨rfl, rfl, by decide, by decide, by decide, by decide, by decide, by decide,
      by decide, by unfold OffsetReadable; decide, accessible (by decide), intact (by decide)⟩, by decide, some_frame (by decide)⟩
  · exact ⟨onPage 0xAC0817F0 0 true, pageCx 0xAC0817F0 0 true, ⟨rfl, rfl, by decide, by decide, by decide, by decide, by decide, by decide,
      by decide, by unfold OffsetReadable; decide, accessible (by decide), intact (by decide)⟩, by decide, some_frame (by decide)⟩
theorem meets_page_atomic_exhausted : ∃ (s : State) (cx : Ctx), AtomicToPage s cx ∧ takeFrame 3 (region.dieOf 1) s = none :=
  ⟨onPage 0xAC0817F0 7 false, pageCx 0xAC0817F0 7 false, ⟨rfl, rfl, by decide, by decide, by decide, by decide, by decide, by decide,
    by decide, by unfold OffsetReadable; decide, accessible (by decide), intact (by decide)⟩, no_frame (by decide)⟩

/-- Without a frame on any die a store of 7 to the page traps, so the workgroup ends or waits for the driver (15 R248). -/
theorem test_page_store : ((gang (exec (.sst 3 2 0) (onPage 0xAB0C8000 7 false))).service).map (fun v => (v.cause, v.addr)) = some (.backingExhausted, 0x110000) := by
  decide

/-! ### Prefixes (05) -/

/-- IMM 5 and SADD s0, s0, 0 at the workgroup's first offsets, fetched afresh. -/
def immCode (w : W32) (f : Gang → Gang) : State :=
  let m : SMap Byte := [(0x10000, 5), (0x10003, 0xF0), (0x10007, 0x20)]
  let s := { on w (some 0) f with mem := m }
  s.setCore 0 { s.coreAt 0 with ibuf := m }

theorem meets_prefixes : ∃ (s : State) (cx : Ctx), s.ctx? = some cx ∧ inOrder cx.pfx .imm = true ∧ admitted s cx .imm = true :=
  ⟨immCode 0xF0000005 id, _, rfl, by decide⟩

theorem test_imm : ((gang (exec (.imm (-5)) (immCode 0xF0FFFFFB id))).splits.map (fun sp => (SMap.get none sp.pfx 0).bind Pfx.immediate)) =
    [some (-5)] := by decide

/-- 05 R100: 24 bits, or 48, sign-extended. -/
theorem meets_immediates : ∃ p q : Pfx, p.imm = some 0x800000 ∧ p.imm2 = none ∧ q.imm = some 1 ∧ q.imm2 = some 0xFFFFFF ∧
    p.immediate = some (-0x800000) ∧ q.immediate = some (-0xFFFFFF) :=
  ⟨⟨0, 2, false, false, none, none, none, some 0x800000, none, none, [.imm]⟩, ⟨0, 3, false, false, none, none, none, some 1, some 0xFFFFFF, none, [.imm2, .imm]⟩, by decide⟩

/-- A prefix that its instruction does not admit: ILLEGAL_INSTRUCTION, so the workgroup ends (05 R98). -/
theorem test_join_not_admitted : ((got (exec (.hintJoin 9) (immCode 0xF3000009 id))).wgAt 0).ending = true := by decide

/-! ### Approximate functions (09 R163) -/

/-- Operands of F16: a NaN that is quiet and one that is not, infinities, zeros, a negative number, powers of 2 with a subnormal one, integers, and 16, above which FEXP2 overflows. -/
theorem meets_approx : fF16.decode 0x7E00 = .nan false ∧ fF16.decode 0x7D00 = .nan true ∧ fF16.decode 0x7C00 = .inf false ∧
    fF16.decode 0xFC00 = .inf true ∧ fF16.decode 0x8000 = .fin true 0 (-24) ∧ fF16.decode 0xBC00 = .fin true 1024 (-10) ∧
    fF16.isPower 1 0x4000 ∧ fF16.isPower (-1) 0x3800 ∧ fF16.isPower (-15) 0x0200 ∧ fF16.isPower 15 0x7800 ∧ fF16.isPower (2 * 1) 0x4400 ∧
    (fF16.decode 0x4C00 = .fin false 1024 (-6) ∧ (fF16.bias + 1) * 2 ^ (6 : Nat) ≤ 1024 * 2 ^ (0 : Nat)) := by
  unfold FFmt.isPower; decide
theorem meets_approx_int : fF16.isInt (-2) 0xC000 ∧ fF16.neg 0xC000 = true ∧ fF16.isPower (-2) 0x3400 :=
  ⟨⟨true, 1024, -9, by decide⟩, by decide, by unfold FFmt.isPower; decide⟩

/-- 09 R163: 1 / 2^15 is subnormal; 2^-2; the logarithm of 1/4. -/
theorem test_approx_exact : approxElem 0x67 .f16x2 ⟨fF16, ModF.of 0, .rne, false⟩ 0 0x7800 = (0x0200, flUF) ∧
    approxElem 0x69 .f16x2 ⟨fF16, ModF.of 0, .rne, false⟩ 0 0xC000 = (0x3400, 0) ∧
    approxElem 0x6A .f16x2 ⟨fF16, ModF.of 0, .rne, false⟩ 0 0x3400 = (0xC000, 0) := by decide

/-! ### The matrix engine (17) -/

/-- An operand map at the scratchpad's start with a stride of 64 bytes. -/
def omap (fmt rows cols : Nat) : BitVec 256 := BitVec.ofNat 256 (rows + cols * 2 ^ 13 + fmt * 2 ^ 29 + 64 * 2 ^ 32 + 0xFE00000000000000 * 2 ^ 64)

def matg (g : Gang) : Gang :=
  { g.setS 5 2 with om := [(0, omap 3 1 2), (1, omap 5 2 2), (2, omap 6 2 2), (4, omap 4 2 1)] }

def matAt (w : W32) (h : Workgroup → Workgroup) : State := on w (some 0) (fun g => matg (memg g)) h

theorem collective {cx : Ctx} (h : cx.g.splits.length = 1 ∧ cx.sp.path = none ∧ cx.en = cx.wg.kernel.lanes ∧ (cx.g.occupied cx.en).length = 1) :
    Collective cx := ⟨h.1, h.2.1, h.2.2.1, h.2.2.2⟩

theorem meets_matrix_products : ∃ (s : State) (cx : Ctx) (ma mb : BitVec 256), s.ctx? = some cx ∧ cx.g.role = .matrix ∧ Collective cx ∧
    cx.wg.mq.length < 8 ∧ SMap.get 0 cx.g.om 0 = ma ∧ SMap.get 0 cx.g.om 4 = mb ∧ (cx.g.sreg 5).toNat = 2 ∧ SMap.get .b32 cx.wg.pendTag 0 = .b32 ∧
    cx.wg.cluster = true ∧ (mpRows ma ≠ 0 ∧ mpRows mb ≠ 0 ∧ mpMaj ma = 0 ∧ mpFmt ma ≠ 0 ∧ mpFmt mb ≠ 0) ∧ pairTag (mpFmt ma) (mpFmt mb) = some .s32 ∧
    [ma, mb].all (fun m => (mpBase m).toNat % fmtSize (mpFmt m) == 0 && mpStride m % fmtSize (mpFmt m) == 0) = true ∧
    (mpBitmap ma).toNat % 8 = 0 ∧ (mpBitmap mb).toNat % 8 = 0 :=
  ⟨matAt 0xC1000005 (fun w => { w with cluster := true }), _, omap 3 1 2, omap 4 2 1, rfl, by decide, collective (by decide), by decide, rfl, rfl, rfl, rfl,
    rfl, by decide, rfl, by decide, by decide, by decide⟩

theorem meets_matrix_tiles : ∃ (s : State) (cx : Ctx), s.ctx? = some cx ∧ cx.g.role = .matrix ∧ Collective cx ∧ cx.wg.mq.length < 8 ∧
    SMap.get .b32 cx.wg.pendTag 0 = .b32 ∧ mpRows (SMap.get 0 cx.g.om 1) ≠ 0 ∧ mpFmt (SMap.get 0 cx.g.om 1) = 5 ∧ mpFmt (SMap.get 0 cx.g.om 2) = 6 ∧
    (mpBase (SMap.get 0 cx.g.om 1)).toNat % 4 = 0 ∧ mpStride (SMap.get 0 cx.g.om 1) % 4 = 0 ∧ fmtSize 5 = 4 :=
  ⟨matAt 0xC5100000 id, _, rfl, by decide, collective (by decide), by decide⟩

def cmd (kind : MatKind) (st : CmdState) : MatCmd :=
  ⟨kind, 0, 0, omap (if kind = .mma then 3 else 5) 1 2, omap 4 2 1, false, 2, 0, if kind = .mma then .s32 else .f32, st, [], 0, 0, [], 0, [], none, 0, [], 0, 0, 0, 0, 0, 0, []⟩

theorem meets_matrix_full : ∃ (s : State) (cx : Ctx), s.ctx? = some cx ∧ Collective cx ∧ 8 ≤ cx.wg.mq.length :=
  ⟨matAt 0xC4000000 (fun w => { w with mq := List.replicate 8 (cmd .accz .queued) }), _, rfl, collective (by decide), by decide⟩

/-- Room in the queue, and a workgroup that ends. -/
theorem meets_matrix_ending : ∃ (s t : State) (cx cy : Ctx), s.ctx? = some cx ∧ Collective cx ∧ cx.wg.ending = false ∧ cx.wg.mq.length < 8 ∧
    t.ctx? = some cy ∧ Collective cy ∧ cy.wg.ending = true :=
  ⟨matAt 0xC4000000 id, matAt 0xC4000000 (fun w => { w with ending := true }), _, _, rfl, collective (by decide), by decide, by decide, rfl,
    collective (by decide), by decide⟩
theorem test_accz_ending : ((got (exec (.accz 1 0) (matAt 0xC4800000 (fun w => { w with ending := true })))).wgAt 0).mq = [] := by decide

theorem test_mma_queued : ((got (exec (.mma 0 0 0 1 0 5) (matAt 0xC1040005 id))).wgAt 0).mq.map (fun c => (c.kind, c.k, c.tag, c.z)) =
    [(.mma, 2, .s32, true)] := by decide
theorem test_accz : ((got (exec (.accz 1 0) (matAt 0xC4800000 id))).wgAt 0).pendTag = [(1, .f32)] := by decide

theorem meets_matrix_role : ∃ (s t : State) (cx cy : Ctx), s.ctx? = some cx ∧ cx.g.role ≠ .matrix ∧ t.ctx? = some cy ∧ cy.g.role = .matrix ∧ ¬Collective cy :=
  ⟨on 0xC4000000 (some 0) (fun g => { g with role := .copy }), on 0xC4000000 (some 0) one, _, _, rfl, by decide, rfl, by decide,
    fun h => absurd h.active (by decide)⟩

/-- The first bytes of an operand map at the scratchpad's start: one row, one column, format 3, stride 64. -/
def mapBytes (s : State) : State :=
  s.setCore 0 { s.coreAt 0 with store := { Store.empty with scr := [(0, 0x01), (1, 0x20), (3, 0x60), (4, 0x40)] } }

theorem meets_opmap : ∃ (s : State) (cx : Ctx) (m : BitVec 256), s.ctx? = some cx ∧ cx.g.role = .matrix ∧ Collective cx ∧
    Accessible s cx.core cx.gang .load (fun _ => 32) (fun _ => 32) [(lowLane cx.en, cx.g.sreg 2)] ∧
    Intact s cx.core (fun _ => 32) [(lowLane cx.en, cx.g.sreg 2)] ∧ m = BitVec.ofNat 256 (s.loadNum cx.core cx.gang 0 (cx.g.sreg 2) 32) ∧
    mpFmt m ≠ 7 ∧ m.getLsbD 26 = false ∧ m.getLsbD 27 = false ∧ mpRows m ≠ 0 ∧ mpCols m ≠ 0 :=
  ⟨mapBytes (matAt 0xC0002000 id), mkCtx (mapBytes (matAt 0xC0002000 id)) ⟨0, 0, 0, some 0, 0xC0002000⟩ (launchSplit (placeGroup 0xC0 0).kernel 0), _,
    rfl, by decide, collective (by decide), accessible (by decide), intact (by decide), rfl, by decide⟩

theorem test_opmap : (SMap.get 0 (gang (exec (.opmap 3 2) (mapBytes (matAt 0xC0602000 id)))).om 3).toNat = 0x4060002001 := by decide

theorem meets_tile_elements : ∃ (s : State) (cx : Ctx) (x : W64), s.ctx? = some cx ∧ cx.g.role = .matrix ∧ Collective cx ∧ cx.wg.kernel.slices ≤ 8 ∧
    x = cx.g.sreg 5 ∧ x.toNat < 2 ^ 18 ∧ x.getLsbD 15 = false ∧ x.getLsbD 7 = false ∧ x.toNat / 2 ^ 8 % 128 + 8 ≤ 128 ∧ x.getLsbD 17 = false ∧
    cx.wg.behind (SMap.get 0 cx.wg.serials 3) = false ∧ OneTag cx 2 2 .f32 ∧ RegsReadable cx 2 2 ∧ cx.wg.pending 0 = .b32 :=
  ⟨on 0xC8085000 (some 0) (fun g => fill 3 .f32 (fun _ => 0) (fill 2 .f32 (fun _ => 0x3F800000) (matg g))), _, 2, rfl, by decide, collective (by decide), by decide, by decide,
    by decide, by decide, by decide, by decide, by decide, by decide, by unfold OneTag; decide, by unfold RegsReadable; decide, by decide⟩

theorem meets_tile_waits : ∃ (s : State) (cx : Ctx), s.ctx? = some cx ∧ Collective cx ∧ cx.wg.behind (SMap.get 0 cx.wg.serials 3) = true :=
  ⟨matAt 0xC7045000 (fun w => { w with mq := [cmd .accz .queued], serials := [(3, 1)] }), _, rfl, collective (by decide), by decide⟩

/-- An error in the first element that ACCRD selects; an ACCWR behind a queued command. -/
theorem meets_tile_error : ∃ (s : State) (cx : Ctx), s.ctx? = some cx ∧ cx.g.role = .matrix ∧ Collective cx ∧ cx.g.sreg 5 = 2 ∧
    cx.wg.behind (SMap.get 0 cx.wg.serials 3) = false ∧ SMap.get false (s.coreAt cx.core).store.accBad (128 * 2) = true :=
  ⟨let s := matAt 0xC7045000 id; s.setCore 0 { s.coreAt 0 with store := { Store.empty with accBad := [(256, true)] } }, _, rfl, by decide,
    collective (by decide), by decide⟩
theorem meets_tile_write_waits : ∃ (s : State) (cx : Ctx), s.ctx? = some cx ∧ cx.g.role = .matrix ∧ Collective cx ∧ OneTag cx 2 2 .f32 ∧
    RegsReadable cx 2 2 ∧ cx.wg.pending 0 = .b32 ∧ cx.wg.behind (SMap.get 0 cx.wg.serials 3) = true :=
  ⟨on 0xC8085000 (some 0) (fun g => fill 3 .f32 (fun _ => 0) (fill 2 .f32 (fun _ => 0x3F800000) (matg g)))
      (fun w => { w with mq := [{ cmd .accst .queued with tag := .b32 }], serials := [(3, 1)] }), _, rfl, by decide, collective (by decide),
    by unfold OneTag; decide, by unfold RegsReadable; decide, by decide⟩
theorem meets_mstep : ∃ (s : State) (cx : Ctx), s.ctx? = some cx ∧ cx.g.role = .matrix ∧ Collective cx ∧ cx.wg.kernel.slices ≤ 8 ∧
    ∀ c ∈ cx.wg.mq, c.gang = cx.gang → c.isProduct = false := ⟨matAt 0xC9007000 id, _, rfl, by decide, collective (by decide), by decide⟩

/-- A split that waits at its word. -/
def waits (w : Wait) (g : Gang) : Gang := { g with splits := g.splits.map (fun sp => { sp with wait := w }) }

theorem meets_tile_reply : ∃ (s : State) (sp : Split), (s.gangAt 0 0).splits = [sp] ∧ sp.wait = .accElems false 2 5 0 ∧
    (s.gangAt 0 0).canRelease sp = true ∧ (s.wgAt 0).behind 0 = false :=
  ⟨on 0xC7045000 (some 0) (fun g => waits (.accElems false 2 5 0) (matg g)), _, rfl, by decide⟩

theorem test_accwr : SMap.get 0 ((got (exec (.accwr 1 5) (on 0xC8045000 (some 0)
    (fun g => fill 3 .f32 (fun _ => 0) (fill 2 .f32 (fun l => BitVec.ofNat 32 (l + 9)) (matg g)))))).coreAt 0).store.acc (128 * 2 + 3) = 12 := by decide
theorem test_mstep : ((gang (exec (.mstep 0 7) (matAt 0xC9007000 id))).sreg 7) = 0 := by decide

/-- A reply with every element readable, with an element in error, and one that writes. -/
def reply (wr : Bool) (bad : SMap Bool) : State :=
  let s := on 0xC7045000 (some 0) (fun g => waits (.accElems wr 2 2 0) (fill 3 .f32 (fun _ => 0) (fill 2 .f32 (fun l => BitVec.ofNat 32 (l + 9)) (matg g))))
  s.setCore 0 { s.coreAt 0 with store := { Store.empty with acc := [(257, 7)], accBad := bad } }

theorem meets_elements_legal : SelectionLegal 2 4 ∧ ∀ q < 8, (reply false []).wrongElement 0 2 q = false := ⟨⟨by decide, by decide, by decide, by decide⟩, by decide⟩
theorem meets_elements_wrong : ∃ q < 2 * 4, (reply false [(256, true)]).wrongElement 0 2 q = true := ⟨0, by decide⟩
theorem meets_elements_wait : ∀ wr : Bool, ∃ sp : Split, ((reply wr []).gangAt 0 0).splits = [sp] ∧ sp.wait = .accElems wr 2 2 0 ∧
    ((reply wr []).gangAt 0 0).canRelease sp = true ∧ ((reply wr []).wgAt 0).behind 0 = false ∧ ((reply wr []).wgAt 0).kernel.slices ≤ 8 := by
  intro wr; cases wr <;> exact ⟨_, rfl, by decide⟩
theorem test_accrd_reply : (List.range 2).map (fun l => ((gang (exec (.synchronousReply 0 0) (reply false []))).cell 2 l).bits) = [0, 7] := by decide
theorem test_accwr_reply : SMap.get 0 ((got (exec (.synchronousReply 0 0) (reply true []))).coreAt 0).store.acc 257 = 10 := by decide
theorem test_accrd_integrity : ((gang (exec (.synchronousReply 0 0) (reply false [(256, true)]))).service).map (fun v => v.cause) = some .integrity := by decide

/-- The scratchpad's first bytes: 3 and -2 as one row of A, S8; 3 and 254 as a column of B, N8. -/
def engine (c : MatCmd) : State :=
  let s := on 0 (some 0) matg (fun w => { w with mq := [c] })
  s.setCore 0 { s.coreAt 0 with store := { Store.empty with scr := [(0, 3), (1, 0xFE)] } }

theorem meets_matrix_start : ∃ (s : State) (c : MatCmd), (s.wgAt 0).mq = [c] ∧ (s.coreAt 0).wg ≠ none ∧ c.state = .queued ∧
    (s.wgAt 0).preempt = false ∧ c.kind ≠ .mmac := ⟨engine (cmd .mma .queued), _, rfl, by decide⟩

/-- A running command at the head that meets no fault. -/
def runs (k : MatKind) : Prop := ∃ (s : State) (c : MatCmd), (s.wgAt 0).mq = [c] ∧ (s.coreAt 0).wg ≠ none ∧ c.kind = k ∧ c.state = .running ∧
  matrixFaults s 0 c = [] ∧ matrixBeyond s 0 c = none ∧ (storeWrites s 0 c).all (fun w => w.1.plain) = true

theorem meets_product_retires : runs .mma := ⟨engine (cmd .mma .running), cmd .mma .running, rfl, by decide, rfl, rfl, by decide, by decide, by decide⟩
theorem meets_accz_retires : runs .accz := ⟨engine (cmd .accz .running), cmd .accz .running, rfl, by decide, rfl, rfl, by decide, by decide, by decide⟩
theorem meets_accld_retires : runs .accld := ⟨engine (cmd .accld .running), cmd .accld .running, rfl, by decide, rfl, rfl, by decide, by decide, by decide⟩
theorem meets_accst_retires : runs .accst := ⟨engine (cmd .accst .running), cmd .accst .running, rfl, by decide, rfl, rfl, by decide, by decide, by decide⟩

theorem meets_matrix_faults : ∃ (s : State) (c : MatCmd), (s.wgAt 0).mq = [c] ∧ (s.coreAt 0).wg ≠ none ∧ c.state = .running ∧ matrixFaults s 0 c ≠ [] :=
  ⟨engine { cmd .accld .running with mapA := BitVec.ofNat 256 (1 + 1 * 2 ^ 13 + 5 * 2 ^ 29 + 2 ^ 60 * 2 ^ 64) }, _, rfl, by decide⟩

/-- 3 × 3 + (-2) × 254 = -499. -/
theorem test_mma_retires : SMap.get 0 ((got (exec (.matrixCommandRetire 0) (engine (cmd .mma .running)))).coreAt 0).store.acc 0 = -499 := by decide

/-- A product of formats A and B runs at the head, on the scratchpad's first bytes. -/
def product (a b : Nat) (st : CmdState := .running) : MatCmd := { cmd .mma st with mapA := omap a 1 2, mapB := omap b 2 1, tag := .f32 }

/-- What the retirement of a product needs: no fault, nothing beyond memory, no shared fetch of a stopped rank. -/
def Retiring (s : State) (c : MatCmd) : Prop := (s.wgAt 0).mq = [c] ∧ (s.coreAt 0).wg ≠ none ∧ c.isProduct = true ∧ c.state = .running ∧
  matrixFaults s 0 c = [] ∧ matrixBeyond s 0 c = none ∧ matrixWaits s 0 c = false ∧ c.done = 0 ∧ c.counters = [] ∧
  0 < mpRows c.mapA ∧ 0 < mpCols c.mapB

theorem meets_float_retires : (∃ s, Retiring s (product 1 1)) ∧ ∃ s, Retiring s (product 2 2) :=
  ⟨⟨engine (product 1 1), rfl, by decide, rfl, rfl, by decide, by decide, by decide, rfl, rfl, by decide⟩,
    engine (product 2 2), rfl, by decide, rfl, rfl, by decide, by decide, by decide, rfl, rfl, by decide⟩
theorem meets_integer_retires : ∃ s, Retiring s (product 3 4) :=
  ⟨engine (product 3 4), rfl, by decide, rfl, rfl, by decide, by decide, by decide, rfl, rfl, by decide⟩
theorem meets_l6_retires : ∃ s, Retiring s (product 0 0) :=
  ⟨engine (product 0 0), rfl, by decide, rfl, rfl, by decide, by decide, by decide, rfl, rfl, by decide⟩

/-- Byte 64 of a product's operand B is poisoned. -/
theorem meets_product_faults : ∃ (s : State) (c : MatCmd), (s.wgAt 0).mq = [c] ∧ (s.coreAt 0).wg ≠ none ∧ c.isProduct = true ∧ c.state = .running ∧
    matrixFaults s 0 c ≠ [] :=
  ⟨let s := engine (cmd .mma .running); s.setCore 0 { s.coreAt 0 with store := { (s.coreAt 0).store with poison := [(0, true)] } }, cmd .mma .running, rfl, by decide⟩

/-- The four cores of a node, with an MMAC at the head of each queue. -/
def ranks (st : CmdState) : State :=
  (List.range 4).foldl (fun s c => s.setWg c { (s.wgAt 0) with cluster := true, clrank := c, mq := [cmd .mmac st] }) (engine (cmd .mmac st))

theorem meets_mmac_start : ∃ (s : State) (c : MatCmd), (s.wgAt 0).mq = [c] ∧ (s.coreAt 0).wg ≠ none ∧ c.state = .queued ∧ (s.wgAt 0).preempt = false ∧
    c.kind = .mmac ∧ (s.members 0).length = 4 ∧ elemsFirst s 0 c = false ∧
    ∀ m ∈ s.members 0, (s.wgAt m).mq = [c] ∧ elemsFirst s m c = false := ⟨ranks .queued, cmd .mmac .queued, by decide⟩

/-! ### The copy engine (19) -/

/-- A descriptor of two rows of four bytes: table at 128, buffer at 256, indices at 64 of the scratchpad. -/
def gdesc : BitVec 512 := 0x2006_00000004_FE00000000000040_FE00000000000100_FE00000000000080

/-- A layout record of one block of one byte, strided at 128, tiled at 256. -/
def ldesc : BitVec 512 := BitVec.ofNat 512 (0xFE00000000000080 + 0xFE00000000000100 * 2 ^ 64 + 0x0001000100010001 * 2 ^ 128 + 0x39 * 2 ^ 384)

/-- The same, as the scratchpad's first bytes. -/
def gbytes : SMap Byte := [(0, 0x80), (7, 0xFE), (9, 1), (15, 0xFE), (16, 0x40), (23, 0xFE), (24, 4), (28, 6), (29, 0x20)]
def lbytes : SMap Byte := [(0, 0x80), (7, 0xFE), (9, 1), (15, 0xFE), (16, 1), (18, 1), (20, 1), (22, 1), (48, 0x39)]

def padded (bs : SMap Byte) (s : State) : State := s.setCore 0 { s.coreAt 0 with store := { Store.empty with scr := bs } }

/-- s2 is the scratchpad's start, s4 covers one block, s5 is 1. -/
def cpyg (g : Gang) : Gang := ((g.setS 2 0xFE00000000000000).setS 4 0x100000000).setS 5 1

def cpyAt (w : W32) (bs : SMap Byte) (h : Workgroup → Workgroup := id) : State := padded bs (on w (some 0) cpyg h)

def ccx (w : W32) (bs : SMap Byte) : Ctx := mkCtx (cpyAt w bs) ⟨0, 0, 0, some 0, w⟩ (launchSplit (placeGroup (opcodeOf w) 0).kernel 0)

def ccmd (kind : CopyKind) (st : CmdState) (t : Target) : CopyCmd :=
  { kind := kind, target := t, desc := if kind = .cpy then ldesc else gdesc, bias := 0, gang := 0, parts := if kind = .cpy then [(0, 0, 1)] else [],
    serial := 0, blame := 0, top := 0, state := st, idx := if kind = .cpy then [] else [0, 1], landed := [], faults := [], err := none, low := 0, lacks := [], lackAt := 0, since := 0, know := [], started := false }

/-- A ring of two slots whose slots 0 are in a state. -/
def ringIn (st : SlotState) (h : Workgroup) : Workgroup := { h with rings := [(1, ⟨2, [(0, { Slot.zero with st := st })], 0, 0⟩)] }

theorem meets_gath : ∃ (s : State) (cx : Ctx), s.ctx? = some cx ∧ cx.g.role = .copy ∧ SMap.wf Core.empty s.cores = true ∧
    Accessible s cx.core cx.gang .load (fun _ => 32) (fun _ => 32) [(lowLane cx.en, cx.g.sreg 2)] ∧
    Intact s cx.core (fun _ => 32) [(lowLane cx.en, cx.g.sreg 2)] ∧ gdesc = BitVec.ofNat 512 (s.loadNum cx.core cx.gang 0 (cx.g.sreg 2) 32) ∧
    gdIllegal gdesc = false ∧ gdMisaligned gdesc = false ∧ cx.wg.cq.length < 32 :=
  ⟨cpyAt 0xD1002000 gbytes, ccx 0xD1002000 gbytes, rfl, by decide, by decide, accessible (by decide), intact (by decide), by decide, by decide⟩

theorem meets_copy_ring : ∃ (s : State) (cx : Ctx), s.ctx? = some cx ∧ cx.g.role = .copy ∧ (cx.wg.ring 1).slots ≠ 0 ∧
    ((cx.wg.ring 1).at (cx.wg.ring 1).prod).st = .filling := ⟨cpyAt 0xD1842000 gbytes (ringIn .filling), _, rfl, by decide⟩

theorem meets_copy_full : ∃ (s : State) (cx : Ctx), s.ctx? = some cx ∧ cx.g.role = .copy ∧ 32 ≤ cx.wg.cq.length :=
  ⟨cpyAt 0xD1002000 gbytes (fun h => { h with cq := List.replicate 32 (ccmd .gath .queued .none) }), _, rfl, by decide⟩

theorem meets_copy_role : ∃ (s t : State) (cx cy : Ctx), s.ctx? = some cx ∧ cx.g.role ≠ .copy ∧ t.ctx? = some cy ∧ cy.g.role = .copy ∧ ¬Collective cy :=
  ⟨on 0xD0002100 (some 0) (fun g => { g with role := .vector }), on 0xD0002100 (some 0) one, _, _, rfl, by decide, rfl, by decide,
    fun h => absurd h.active (by decide)⟩

theorem meets_cpy_earlier : ∃ (s : State) (cx : Ctx), s.ctx? = some cx ∧ cx.g.role = .copy ∧ Collective cx ∧ (cx.g.sreg 0).toNat < cx.wg.cpySeq.toNat :=
  ⟨cpyAt 0xD0002100 lbytes (fun h => { h with cpySeq := 1 }), _, rfl, by decide, collective (by decide), by decide⟩

theorem meets_cpy_waits : ∃ (s : State) (cx : Ctx), s.ctx? = some cx ∧ cx.g.role = .copy ∧ Collective cx ∧ cx.gang ∈ cx.wg.copyGangs ∧
    cx.wg.cpySeq.toNat < (cx.g.sreg 5).toNat := ⟨cpyAt 0xD0002105 lbytes, _, rfl, by decide, collective (by decide), by decide⟩

theorem meets_cpy_waits_other : ∃ (s : State) (cx : Ctx), s.ctx? = some cx ∧ cx.g.role = .copy ∧ Collective cx ∧ cx.gang ∈ cx.wg.copyGangs ∧
    cx.g.sreg 0 = cx.wg.cpySeq ∧ 1 ∈ cx.wg.copyGangs ∧ (s.gangAt cx.core 1).splits.all (fun sp => sp.wait == .none) = true :=
  ⟨cpyAt 0xD0002100 lbytes (fun h => { h with
      kernel := { h.kernel with ncopy := 2 }, gangs := SMap.set Gang.empty h.gangs 1 (launchGang { h.kernel with ncopy := 2 } 1 [] 0 0 0) }), _,
    rfl, by decide, collective (by decide), by decide⟩

theorem meets_cpy_forms : ∃ (s : State) (cx : Ctx), s.ctx? = some cx ∧ Collective cx ∧ cx.g.sreg 0 = cx.wg.cpySeq ∧ cx.wg.copyGangs = [cx.gang] ∧
    cx.wg.cq.length < 32 ∧ cx.sp.stopped = false ∧
    Accessible s cx.core cx.gang .load (fun _ => 64) (fun _ => 64) [(0, cx.g.sreg 2)] ∧ Intact s cx.core (fun _ => 64) [(0, cx.g.sreg 2)] ∧
    ldesc = BitVec.ofNat 512 (s.loadNum cx.core cx.gang 0 (cx.g.sreg 2) 64) ∧ lyIllegal ldesc = false ∧ lyMisaligned ldesc = false ∧
    (cx.g.sreg 4).toNat = lyBlocks ldesc * 2 ^ 32 :=
  ⟨cpyAt 0xD0002100 lbytes, ccx 0xD0002100 lbytes, rfl, collective (by decide), by decide, by decide, by decide, by decide, accessible (by decide),
    intact (by decide), by decide, by decide⟩

theorem meets_copy_ending : ∃ (s t : State) (cx cy : Ctx), s.ctx? = some cx ∧ Collective cx ∧ cx.wg.ending = false ∧ cx.wg.cq.length < 32 ∧ t.ctx? = some cy ∧
    Collective cy ∧ cy.wg.ending = true ∧ cy.gang ∈ cy.wg.copyGangs ∧ cy.g.sreg 0 = cy.wg.cpySeq :=
  ⟨cpyAt 0xD0002100 lbytes, cpyAt 0xD0002100 lbytes (fun h => { h with ending := true }), _, _, rfl, collective (by decide), by decide, by decide, rfl,
    collective (by decide), by decide⟩

theorem test_gath : ((got (exec (.gath 0 0 2 0) (cpyAt 0xD1002000 gbytes))).wgAt 0).cq.map (fun c => (c.kind, c.desc)) = [(.gath, gdesc)] := by decide
theorem test_scat : ((got (exec (.scat 2 1 2 0) (cpyAt 0xD2842000 gbytes (ringIn .filling)))).wgAt 0).cq.map (fun c => c.target) = [.ring 1 0] := by decide
theorem test_cpy : ((got (exec (.cpy 0 0 2 4 0) (cpyAt 0xD0002100 lbytes))).wgAt 0).cq.map (fun c => (c.desc, c.parts)) = [(ldesc, [(0, 0, 1)])] := by decide

/-- The head command of the copy engine; bytes 128 to 135 of the scratchpad hold 1 to 8; barrier 1 takes one engine arrival and 8 bytes. -/
def copying (c : CopyCmd) : State :=
  padded [(128, 1), (129, 2), (130, 3), (131, 4), (132, 5), (133, 6), (134, 7), (135, 8)]
    (on 0 (some 0) id (fun w => { w with cq := [c], bars := [(1, { Barrier.empty with members := 1, engines := 1, pend := 8 })] }))

theorem meets_copy_start : ∃ (s : State) (c : CopyCmd), (s.wgAt 0).cq = [c] ∧ (s.coreAt 0).wg ≠ none ∧ c.state = .queued ∧ (s.wgAt 0).preempt = false ∧
    c.kind = .cpy := ⟨copying (ccmd .cpy .queued .none), _, rfl, by decide⟩

theorem meets_gath_start : ∃ (s : State) (c : CopyCmd), (s.wgAt 0).cq = [c] ∧ (s.coreAt 0).wg ≠ none ∧ c.state = .queued ∧ (s.wgAt 0).preempt = false ∧
    c.kind ≠ .cpy ∧ c.idx = [] ∧ c.err = none ∧
    ((List.range (gdCount c.desc)).map (fun i => gdIdx c.desc + BitVec.ofNat 64 (4 * i))).all (fun a =>
      engineFaults s 0 .load a 4 == [] && (placesOf s 0 a 4).all (fun p => p.plain) && (bytesOf a 4).all (fun b => !s.poisonAt (placeOf s 0 b))) = true :=
  ⟨copying { ccmd .gath .queued .none with idx := [] }, _, rfl, by decide⟩

theorem meets_copy_fault : ∃ (s : State) (c : CopyCmd), (s.wgAt 0).cq = [c] ∧ (s.coreAt 0).wg ≠ none ∧ c.state = .running ∧ c.mayLand 1 = true ∧
    unitFaults s 0 c 1 ≠ [] := ⟨copying { ccmd .gath .running .none with idx := [0, 0x10000000] }, _, rfl, by decide⟩

/-- What a unit that lands needs. -/
def mayLands (s : State) (c : CopyCmd) (u : Nat) : Bool :=
  c.state == .running && c.mayLand u && unitFaults s 0 c u == [] && c.err.isNone &&
  (c.moves u).all (fun m => (placesOf s 0 m.1 m.2.2 ++ placesOf s 0 m.2.1 m.2.2).all (fun p => p.plain)) &&
  (unitWrites s 0 c u).all (fun x => x.1.plain && !x.2.2)

theorem meets_unit_land : ∃ (s : State) (c : CopyCmd), (s.wgAt 0).cq = [c] ∧ (s.coreAt 0).wg ≠ none ∧ mayLands s c 0 = true ∧ c.target = .barrier 1 ∧
    1 < c.units ∧ c.has 1 = false ∧ ((s.wgAt 0).bar 1).err = none ∧ c.unitBytes ≤ ((s.wgAt 0).bar 1).pend :=
  ⟨copying (ccmd .gath .running (.barrier 1)), _, rfl, by decide⟩

theorem meets_last_unit_land : ∃ (s : State) (c : CopyCmd), (s.wgAt 0).cq = [c] ∧ (s.coreAt 0).wg ≠ none ∧ mayLands s c 1 = true ∧ c.target = .barrier 1 ∧
    (∀ v < c.units, v ≠ 1 → c.has v = true) ∧ ((s.wgAt 0).bar 1).err = none ∧ c.unitBytes ≤ ((s.wgAt 0).bar 1).pend ∧
    ((s.wgAt 0).bar 1).engArrived < ((s.wgAt 0).bar 1).engines ∧ (s.wgAt 0).gangs.all (fun e => e.2.splits.all (fun sp => sp.wait == .none)) = true :=
  ⟨copying { ccmd .scat .running (.barrier 1) with landed := [(0, true)] }, _, rfl, by decide⟩

theorem meets_cpy_land : ∃ (s : State) (c : CopyCmd), (s.wgAt 0).cq = [c] ∧ (s.coreAt 0).wg ≠ none ∧ mayLands s c 0 = true ∧ c.target = .none ∧
    (s.wgAt 0).gangs.all (fun e => e.2.splits.all (fun sp => sp.wait == .none)) = true ∧
    ∀ v < c.units, v ≠ 0 → c.has v = true := ⟨copying (ccmd .cpy .running .none), _, rfl, by decide⟩

/-- Row 1 of the table goes to the buffer's second four bytes. -/
theorem test_unit_land : (List.range 4).map (fun i => (got (exec (.unitLand 0 1) (copying (ccmd .gath .running .none)))).byteAt (.pad 0 (260 + i))) =
    [5, 6, 7, 8] := by decide
theorem test_cpy_land : (got (exec (.unitLand 0 0) (copying (ccmd .cpy .running .none)))).byteAt (.pad 0 256) = 1 := by decide

/-- Gang 1 waits at a CPY of the same record with no block; the record is read afresh. -/
def partner (w : Wait) (h : Workgroup) : Workgroup :=
  let k := { h.kernel with ncopy := 2 }
  { h with kernel := k, gangs := SMap.set Gang.empty h.gangs 1 (waits w (launchGang k 1 [] 0 0 0)) }

def pairAt : State := cpyAt 0xD0002100 lbytes (partner (.forming 0xFE00000000000000 0 0 0 0))

theorem meets_cpy_forms_pair : ∃ (cx : Ctx) (part : Nat → W64), pairAt.ctx? = some cx ∧ cx.g.role = .copy ∧ Collective cx ∧ cx.wg.copyGangs = [0, 1] ∧
    cx.gang ∈ cx.wg.copyGangs ∧ cx.g.sreg 0 = cx.wg.cpySeq ∧ cx.wg.cq.length < 32 ∧ cx.sp.stopped = false ∧ part cx.gang = cx.g.sreg 4 ∧
    (∃ sp, (pairAt.gangAt cx.core 1).splits = [sp] ∧ sp.stopped = false ∧ sp.wait = .forming (cx.g.sreg 2) (part 1) (cx.g.sreg 0) 0 0) ∧
    Accessible pairAt cx.core cx.gang .load (fun _ => 64) (fun _ => 64) [(0, cx.g.sreg 2)] ∧ Intact pairAt cx.core (fun _ => 64) [(0, cx.g.sreg 2)] ∧
    ldesc = BitVec.ofNat 512 (pairAt.loadNum cx.core cx.gang 0 (cx.g.sreg 2) 64) ∧ lyIllegal ldesc = false ∧ lyMisaligned ldesc = false ∧
    ([0, 1].map (fun h => (part h).toNat / 2 ^ 32)).sum = lyBlocks ldesc ∧ (part 1).toNat / 2 ^ 32 = 0 ∧
    (part 0).toNat % 2 ^ 32 + (part 0).toNat / 2 ^ 32 ≤ lyBlocks ldesc :=
  ⟨mkCtx pairAt ⟨0, 0, 0, some 0, 0xD0002100⟩ (launchSplit (placeGroup 0xD0 0).kernel 0), fun h => if h = 0 then 0x100000000 else 0, rfl, by decide,
    collective (by decide), by decide, by decide, by decide, by decide, by decide, by decide, ⟨_, rfl, by decide⟩, accessible (by decide), intact (by decide),
    by decide, by decide, by decide, by decide, by decide, by decide⟩

/-- The same unit with a pre-emption due; the last unit with no CPY waiting. -/
theorem meets_unit_land_preempt : ∃ (s : State) (c : CopyCmd), (s.wgAt 0).cq = [c] ∧ (s.coreAt 0).wg ≠ none ∧ mayLands s c 0 = true ∧
    (s.wgAt 0).preempt = true ∧ 1 < c.units ∧ c.has 1 = false :=
  ⟨let s := copying (ccmd .gath .running .none); s.setWg 0 { s.wgAt 0 with preempt := true }, ccmd .gath .running .none, by decide⟩
theorem test_unit_land_preempt : ((got (exec (.unitLand 0 0) (let s := copying (ccmd .gath .running .none); s.setWg 0 { s.wgAt 0 with preempt := true }))).wgAt 0).cq.map
    (fun c => c.state) = [.queued] := by decide

/-! ### Barriers, rings, counters (19) -/

/-- Barrier 1 has gang 0 and an engine as members, and a phase. -/
def bar1 (f : Barrier → Barrier) (h : Workgroup) : Workgroup := { h with bars := [(1, f { Barrier.empty with members := 1, engines := 1, phase := 5 })] }

def s1s2 (x y : W64) (g : Gang) : Gang := (g.setS 1 x).setS 2 y

theorem meets_binit : ∃ (s : State) (cx : Ctx), s.ctx? = some cx ∧
    let mask := cx.g.sreg 1
    let n := (cx.g.sreg 2).toNat
    mask.toNat < 2 ^ min cx.wg.kernel.gangs 16 ∧ 1 ≤ (List.range 16).countP (fun j => mask.getLsbD j) + n ∧
    (List.range 16).countP (fun j => mask.getLsbD j) + n ≤ 255 ∧ (∀ c ∈ cx.wg.cq, c.target ≠ .barrier 1) ∧
    cx.wg.gangs.all (fun q => q.2.splits.all (fun sp => sp.wait == .none)) = true :=
  ⟨on 0xD3041080 (some 0) (s1s2 1 254), _, rfl, by decide⟩

theorem meets_barv : ∃ (s : State) (cx : Ctx), s.ctx? = some cx ∧ (cx.wg.bar 1).members.getLsbD cx.gang = true ∧ (cx.wg.bar 1).err = none ∧
    (cx.wg.bar 1).arrived.getLsbD cx.gang = false := ⟨on 0xD4041000 (some 0) id (bar1 id), _, rfl, by decide⟩
theorem meets_barv_error : ∃ (s : State) (cx : Ctx), s.ctx? = some cx ∧ (cx.wg.bar 1).members.getLsbD cx.gang = true ∧ (cx.wg.bar 1).err ≠ none :=
  ⟨on 0xD4041000 (some 0) id (bar1 (fun b => { b with err := some .integrity })), _, rfl, by decide⟩
theorem meets_barv_twice : ∃ (s : State) (cx : Ctx), s.ctx? = some cx ∧ (cx.wg.bar 1).members.getLsbD cx.gang = true ∧ (cx.wg.bar 1).err = none ∧
    (cx.wg.bar 1).arrived.getLsbD cx.gang = true := ⟨on 0xD4041000 (some 0) id (bar1 (fun b => { b with arrived := 1 })), _, rfl, by decide⟩
theorem meets_barv_foreign : ∃ (s : State) (cx : Ctx), s.ctx? = some cx ∧ (cx.wg.bar 1).members.getLsbD cx.gang = false :=
  ⟨on 0xD4041000 (some 0) id (bar1 (fun b => { b with members := 2 })), _, rfl, by decide⟩

theorem meets_bexp : ∃ (s : State) (cx : Ctx), s.ctx? = some cx ∧ (cx.g.sreg 1).toNat < 2 ^ 24 ∧ (cx.wg.bar 1).err = none ∧
    (cx.wg.bar 1).pend + (cx.g.sreg 1).toNat < 2 ^ 24 := ⟨on 0xD5041000 (some 0) (s1s2 0xFFFFFF 0) (bar1 id), _, rfl, by decide⟩
theorem meets_bexp_over : ∃ (s : State) (cx : Ctx), s.ctx? = some cx ∧ (cx.g.sreg 1).toNat < 2 ^ 24 ∧ (cx.wg.bar 1).err = none ∧
    2 ^ 24 ≤ (cx.wg.bar 1).pend + (cx.g.sreg 1).toNat := ⟨on 0xD5041000 (some 0) (s1s2 0xFFFFFF 0) (bar1 (fun b => { b with pend := 1 })), _, rfl, by decide⟩
theorem meets_bexp_range : ∃ (s : State) (cx : Ctx), s.ctx? = some cx ∧ 2 ^ 24 ≤ (cx.g.sreg 1).toNat := ⟨on 0xD5041000 (some 0) (s1s2 0x1000000 0), _, rfl, by decide⟩
theorem meets_bexp_error : ∃ (s : State) (cx : Ctx), s.ctx? = some cx ∧ (cx.g.sreg 1).toNat < 2 ^ 24 ∧ (cx.wg.bar 1).err ≠ none :=
  ⟨on 0xD5041000 (some 0) (s1s2 0xFFFFFF 0) (bar1 (fun b => { b with err := some .integrity })), _, rfl, by decide⟩

/-- The phases by which a BWAIT of phase t is complete: 1 to 2^15 on. -/
def complete (cx : Ctx) : Bool :=
  let d := ((cx.wg.bar 1).phase - BitVec.ofNat 16 ((cx.g.sreg 1).toNat % 2 ^ 16)).toNat
  decide (1 ≤ d ∧ d ≤ 2 ^ 15)

theorem meets_bwait : ∃ (s : State) (cx : Ctx), s.ctx? = some cx ∧ (cx.wg.bar 1).err = none ∧ complete cx = true :=
  ⟨on 0xD6041000 (some 0) (s1s2 4 0) (bar1 id), _, rfl, by decide⟩
theorem meets_bwait_far : ∃ (s : State) (cx : Ctx), s.ctx? = some cx ∧ (cx.wg.bar 1).err = none ∧ complete cx = true :=
  ⟨on 0xD6041000 (some 0) (s1s2 0x8005 0) (bar1 id), _, rfl, by decide⟩
theorem meets_bwait_error : ∃ (s : State) (cx : Ctx), s.ctx? = some cx ∧ (cx.wg.bar 1).err = some .integrity :=
  ⟨on 0xD6041000 (some 0) (s1s2 5 0) (bar1 (fun b => { b with err := some .integrity })), _, rfl, by decide⟩
theorem meets_bwait_orphan : ∃ (s : State) (cx : Ctx), s.ctx? = some cx ∧ (cx.wg.bar 1).err = none ∧ BitVec.ofNat 16 ((cx.g.sreg 1).toNat % 2 ^ 16) = (cx.wg.bar 1).phase ∧ cx.wg.abandoned 1 = true :=
  ⟨on 0xD6041000 (some 0) (s1s2 5 0) (bar1 (fun b => { b with arrived := 1 })), _, rfl, by decide⟩
theorem meets_bwait_waits : ∃ (s : State) (cx : Ctx), s.ctx? = some cx ∧ (cx.wg.bar 1).err = none ∧ complete cx = false ∧ cx.wg.abandoned 1 = false :=
  ⟨on 0xD6041000 (some 0) (s1s2 5 0) (bar1 (fun b => { b with engines := 0 })), _, rfl, by decide⟩

theorem test_binit : (((got (exec (.binit 1 1 1 2) (on 0xD3441080 (some 0) (s1s2 1 254)))).wgAt 0).bar 1).engines = 254 := by decide
/-- 19 R295: the last arrival completes the phase. -/
theorem test_barv : (fun b : Barrier => (b.phase, b.arrived)) (((got (exec (.barv 1 1) (on 0xD4041000 (some 0) id
    (bar1 (fun b => { b with engines := 0 }))))).wgAt 0).bar 1) = (6, 0) := by decide
theorem test_bexp : (((got (exec (.bexp 1 1) (on 0xD5041000 (some 0) (s1s2 100 0) (bar1 id)))).wgAt 0).bar 1).pend = 100 := by decide
theorem test_bwait : (gang (exec (.bwait 1 1) (on 0xD6041000 (some 0) (s1s2 4 0) (bar1 id)))).splits.map (fun sp => (sp.pc, sp.wait)) = [(1, .none)] := by
  decide
theorem test_btest : (gang (exec (.btest 0 1 3) (on 0xD7043000 (some 0) id (bar1 (fun b => { b with pend := 9 }))))).sreg 3 = 0x0000000900020005 := by decide

/-- A split that waits at barrier 1 beside the issuing one, or parked under its dual path. -/
theorem meets_binit_waited : ∃ (s t : State) (cx cy : Ctx), s.ctx? = some cx ∧ (∃ q ∈ cx.wg.gangs, ∃ sp ∈ q.2.allSplits, sp.wait = .bwait 1 0) ∧
    t.ctx? = some cy ∧ (∃ q ∈ cy.wg.gangs, ∃ sp ∈ q.2.allSplits, sp.wait = .bwait 1 0) ∧ cy.g.splits.all (fun sp => sp.wait == .none) = true :=
  ⟨on 0xD3041080 (some 0) (fun g => apart (.bwait 1 0) (s1s2 1 254 g)) two,
    on 0xD3041080 (some 0) (fun g => { s1s2 1 254 g with dp := [(0, [⟨9, 1, 2, some 0, some { launchSplit Kernel.empty 0 with wait := .bwait 1 0 }⟩])] }) two,
    _, _, rfl, by decide, rfl, by decide⟩

/-- A wait for the next phase but one of an abandoned barrier. -/
theorem meets_bwait_ahead : ∃ (s : State) (cx : Ctx), s.ctx? = some cx ∧ (cx.wg.bar 1).err = none ∧ complete cx = false ∧ cx.wg.abandoned 1 = true ∧
    BitVec.ofNat 16 ((cx.g.sreg 1).toNat % 2 ^ 16) ≠ (cx.wg.bar 1).phase :=
  ⟨on 0xD6041000 (some 0) (s1s2 6 0) (bar1 (fun b => { b with arrived := 1 })), _, rfl, by decide⟩

/-- Ring 1 has two slots; slot 0 is in a state. -/
def ringAt (w : W32) (st : SlotState) (f : Slot → Slot := id) : State :=
  on w (some 0) id (fun h => { h with rings := [(1, ⟨2, [(0, f { Slot.zero with st := st })], 0, 0⟩)] })

/-- 19 R300: two slots, slot 0 draining in phase 1 with an error. -/
theorem test_btest_ring : (gang (exec (.btest 2 1 3) (ringAt 0xD7843000 .draining (fun x => { x with phase := true, err := some (.integrity, 0) })))).sreg 3 =
    0x0202010000030000 := by decide

theorem meets_ring_binit : ∃ (s : State) (cx : Ctx), s.ctx? = some cx ∧ 1 ≤ (cx.g.sreg 1).toNat ∧ (cx.g.sreg 1).toNat ≤ 8 ∧ cx.wg.cq = [] ∧
    cx.wg.gangs.all (fun q => q.2.splits.all (fun sp => sp.wait == .none)) = true := ⟨on 0xD3841000 (some 0) (s1s2 8 0), _, rfl, by decide⟩
theorem meets_ring_none : ∃ (s : State) (cx : Ctx), s.ctx? = some cx ∧ (cx.wg.ring 1).slots = 0 := ⟨on 0xD9041000 (some 0) id, _, rfl, by decide⟩

theorem meets_ring_states : ∀ st : SlotState, ∃ (s : State) (cx : Ctx), s.ctx? = some cx ∧ 0 < (cx.wg.ring 1).slots ∧
    ((cx.wg.ring 1).at (cx.wg.ring 1).prod).st = st ∧ ((cx.wg.ring 1).at (cx.wg.ring 1).cons).st = st ∧
    ((cx.wg.ring 1).at (cx.wg.ring 1).cons).err = none := fun st => ⟨ringAt 0xD9041000 st, _, rfl, by cases st <;> decide⟩

theorem meets_ring_error : ∃ (s : State) (cx : Ctx), s.ctx? = some cx ∧ 0 < (cx.wg.ring 1).slots ∧
    ((cx.wg.ring 1).at (cx.wg.ring 1).cons).st = .full ∧ ((cx.wg.ring 1).at (cx.wg.ring 1).cons).err = some (.integrity, 0) :=
  ⟨ringAt 0xDB041000 .full (fun x => { x with err := some (.integrity, 0) }), _, rfl, by decide⟩

def ring1 (r : Res) : Ring := ((got r).wgAt 0).ring 1

theorem test_stga : ((ring1 (exec (.stga 1 3) (ringAt 0xD9043000 .empty))).at 0).st = .filling := by decide
theorem test_stgc : (fun r : Ring => ((r.at 0).st, r.prod)) (ring1 (exec (.stgc 1) (ringAt 0xDA040000 .filling))) = (.full, 1) := by decide
theorem test_stgw : ((ring1 (exec (.stgw 1 3) (ringAt 0xDB043000 .full))).at 0).st = .draining := by decide
theorem test_stgf : (fun r : Ring => ((r.at 0).st, (r.at 0).phase, r.cons)) (ring1 (exec (.stgf 1) (ringAt 0xDC040000 .draining))) = (.empty, true, 1) := by
  decide

/-! ### Waits of counters and clusters, records, blame (19) -/

def counted (n : BitVec 16) (es : List CmdErr) (g : Gang) : Gang := { g.setS 1 2 with c := [(2, n)], cIssued := [(2, 5)], cErr := es }

/-- Command `n` of class 2 ended with INTEGRITY. -/
def cerr (n : Nat) : CmdErr := ⟨2, n, .integrity, 64, 64, 0⟩

theorem meets_cwait : ∃ (s : State) (cx : Ctx), s.ctx? = some cx ∧ (SMap.get 0 cx.g.c 2).toNat ≤ (cx.g.sreg 1).toNat ∧
    ∀ e ∈ cx.g.cErr, ¬(e.cls = 2 ∧ e.number + (cx.g.sreg 1).toNat ≤ SMap.get 0 cx.g.cIssued 2) :=
  ⟨on 0xD8801000 (some 0) (counted 2 [cerr 4]), _, rfl, by decide⟩
theorem meets_cwait_error : ∃ (s : State) (cx : Ctx), s.ctx? = some cx ∧ (SMap.get 0 cx.g.c 2).toNat ≤ (cx.g.sreg 1).toNat ∧
    cx.g.cErr = [cerr 4, cerr 3] ∧ 3 + (cx.g.sreg 1).toNat ≤ SMap.get 0 cx.g.cIssued 2 ∧ ¬(4 + (cx.g.sreg 1).toNat ≤ SMap.get 0 cx.g.cIssued 2) :=
  ⟨on 0xD8801000 (some 0) (counted 2 [cerr 4, cerr 3]), _, rfl, by decide⟩
theorem test_cwait_error : (fun g : Gang => (g.service.map (fun v => (v.cause, v.addr)), g.cErr))
    (gang (exec (.cwait 2 1) (on 0xD8801000 (some 0) (counted 2 [cerr 4, cerr 3]) handled))) = (some (.integrity, 64), [cerr 4]) := by decide

theorem meets_cwait_waits : ∃ (s : State) (cx : Ctx), s.ctx? = some cx ∧ (cx.g.sreg 1).toNat < (SMap.get 0 cx.g.c 2).toNat :=
  ⟨on 0xD8801000 (some 0) (counted 3 []), _, rfl, by decide⟩

def clustered (h : Workgroup) : Workgroup := { h with cluster := true }
def pair (h : Workgroup) : Workgroup :=
  { clustered h with kernel := { h.kernel with nvec := 2 }, gangs := SMap.set Gang.empty h.gangs 1 (launchGang h.kernel 1 [] 0 0 0) }

theorem meets_cbar : ∃ (s : State) (cx : Ctx), s.ctx? = some cx ∧ SMap.wf Core.empty s.cores = true ∧ cx.gang ∈ cx.wg.live ∧ cx.gang < 16 ∧
    cx.plane = none ∧ cx.wg.cbArr.getLsbD cx.gang = false ∧
    ∀ c ∈ s.members cx.core, ∀ g ∈ (s.wgAt c).live, (s.wgAt c).cbArr.getLsbD g = true ∨ (c = cx.core ∧ g = cx.gang) :=
  ⟨on 0xDD000000 none id clustered, _, rfl, by decide⟩
theorem meets_cbar_waits : ∃ (s : State) (cx : Ctx), s.ctx? = some cx ∧ SMap.wf Core.empty s.cores = true ∧ cx.gang ∈ cx.wg.live ∧ cx.gang < 16 ∧
    ¬∀ c ∈ s.members cx.core, ∀ g ∈ (s.wgAt c).live, (s.wgAt c).cbArr.getLsbD g = true ∨ (c = cx.core ∧ g = cx.gang) :=
  ⟨on 0xDD000000 none id pair, _, rfl, by decide⟩
theorem test_cbar : ((got (exec .cbar (on 0xDD000000 none id clustered))).wgAt 0).cbDone = 1 := by decide

/-- A MODE 1 node: records of 8 bytes, a queue of 4 at 0x4000. -/
def node1 : Node :=
  { opnds := [], args := [0], dies := [0], priv := false, slices := 1, nvec := 1, nmat := 0, ncopy := 0, cluster := false, mode1 := true, domain := 0, prio := 3,
    rsize := 8, timeout := 2, thresh := 4, qsize := 4, count := 4, qbase := 0x4000, succs := [1], slot := 0, kernel := placeKernel 0,
    preds := 0, ready := true, readyAt := 0, nextRank := 0, running := 0, ended := 0, complete := false, pushed := 0, freed := 0, waiting := [],
    freedBy := LastArr.zero, fired := 0, tickets := 0, recKnow := [] }

/-- Launch 0 of mailbox 63, its second node with `n` records pushed. -/
def lau (n : Nat) : Launch :=
  { mailbox := 63, call := 1, tenant := 0xFFFF, asid := 0, slot := 0, stamp := 0, statAddr := 0, timeAddr := 0,
    nodes := [{ node1 with mode1 := false, running := 1 }, { node1 with pushed := n }], status := none, closed := false, hold := none, armed := [], start := 0, wgs := 0,
    faults := 0, tFault := 0, tIo := 0, tExec := 0, tQueue := 0, ns := 0, cat := 0, storage := 0 }

def launched (n : Nat) (s : State) : State := { s with launches := [(0, some (lau n))] }

/-- s1 is 0, so successor 0; s2 is the address of the record. -/
def emits (n : Nat) (pl : Option Nat) : State := launched n (padded [(0, 9), (7, 8)] (on 0xDE001080 pl (fun g => g.setS 2 0xFE00000000000000)))

def ecx (n : Nat) (pl : Option Nat) : Ctx := mkCtx (emits n pl) ⟨0, 0, 0, pl, 0xDE001080⟩ (launchSplit (placeGroup 0xDE 0).kernel 0)

theorem meets_emit : ∃ (s : State) (cx : Ctx) (me n : Node), s.ctx? = some cx ∧ s.nodeOf cx.wg.launch cx.wg.node = some me ∧
    me.succs[(cx.g.sreg 1).toNat]? = some 1 ∧ s.nodeOf cx.wg.launch 1 = some n ∧ n.mode1 = true ∧
    Accessible s cx.core cx.gang .load (fun _ => n.rsize) (fun _ => 8) [(lowLane cx.en, cx.g.sreg 2)] ∧
    Intact s cx.core (fun _ => n.rsize) [(lowLane cx.en, cx.g.sreg 2)] ∧ n.pushed - n.freed < n.qsize ∧ cx.plane = none :=
  ⟨emits 3 none, ecx 3 none, { node1 with mode1 := false, running := 1 }, { node1 with pushed := 3 }, rfl, rfl, by decide, rfl, rfl,
    accessible (by decide), intact (by decide), by decide⟩
/-- Another gang's EMIT waits for the same queue, or none does. -/
theorem meets_emitters : (emits 3 none).emitters 0 1 = [] ∧
    ((emits 3 none).setGang 0 1 (waits (.emit 1 [1] 0 none) (launchGang (placeKernel 0) 1 [] 0 0 0))).emitters 0 1 = [(0, 1, 0)] := by decide

theorem meets_emit_waits : ∃ (s : State) (cx : Ctx) (me n : Node), s.ctx? = some cx ∧ s.nodeOf cx.wg.launch cx.wg.node = some me ∧
    me.succs[(cx.g.sreg 1).toNat]? = some 1 ∧ s.nodeOf cx.wg.launch 1 = some n ∧ n.mode1 = true ∧
    Accessible s cx.core cx.gang .load (fun _ => n.rsize) (fun _ => 8) [(lowLane cx.en, cx.g.sreg 2)] ∧
    Intact s cx.core (fun _ => n.rsize) [(lowLane cx.en, cx.g.sreg 2)] ∧ n.qsize ≤ n.pushed - n.freed :=
  ⟨emits 4 (some 0), ecx 4 (some 0), { node1 with mode1 := false, running := 1 }, { node1 with pushed := 4 }, rfl, rfl, by decide, rfl, rfl,
    accessible (by decide), intact (by decide), by decide⟩
theorem test_emit : (List.range 8).map (fun i => (got (exec (.emit 1 2) (emits 3 none))).byteAt (.dev (0x4018 + i))) = [9, 0, 0, 0, 0, 0, 0, 8] := by decide

def object (w : W64) : Nat → W32 → State := fun _ x => on x (some 0) (fun g => g.setS 2 w)

theorem meets_edgrd : ∃ (s : State) (cx : Ctx), s.ctx? = some cx ∧ cx.core < 416 ∧
    (cx.g.sreg 2).toNat = 0 * 2 ^ 28 + cx.core / 104 * 2 ^ 26 + (if 0 = 3 then 0 else cx.core % 104 * 2 ^ 19) + 15 := ⟨object 15 0 0xDF401080, _, rfl, by decide⟩
theorem meets_edgrd_ring : ∃ (s : State) (cx : Ctx), s.ctx? = some cx ∧ cx.core < 416 ∧
    (cx.g.sreg 2).toNat = 1 * 2 ^ 28 + cx.core / 104 * 2 ^ 26 + (if 1 = 3 then 0 else cx.core % 104 * 2 ^ 19) + 31 := ⟨object 0x1000001F 0 0xDF401080, _, rfl, by decide⟩
theorem meets_edgrd_cluster : ∃ (s : State) (cx : Ctx), s.ctx? = some cx ∧ cx.core < 416 ∧
    (cx.g.sreg 2).toNat = 3 * 2 ^ 28 + cx.core / 104 * 2 ^ 26 + (if 3 = 3 then 0 else cx.core % 104 * 2 ^ 19) + cx.core % 104 / 4 :=
  ⟨object 0x30000000 0 0xDF401080, _, rfl, by decide⟩
theorem meets_edgrd_counter : ∃ (s : State) (cx : Ctx), s.ctx? = some cx ∧ cx.core < 416 ∧
    (cx.g.sreg 2).toNat = 4 * 2 ^ 28 + cx.core / 104 * 2 ^ 26 + (if 4 = 3 then 0 else cx.core % 104 * 2 ^ 19) + 3 := ⟨object 0x40000003 0 0xDF401080, _, rfl, by decide⟩
theorem test_edgrd : (gang (exec (.edgrd 1 3 2) (on 0xDF403080 (some 0) (fun g => g.setS 2 1) (bar1 (fun b => { b with last := ⟨0x12345, 7, 8, 9⟩ }))))).sreg 3 =
    0x12345 := by decide

/-- A split of gang 0 of core 0 waits. -/
def blocked (x : Wait) (f : Gang → Gang) (h : Workgroup → Workgroup) : State := launched 3 (on 0 (some 0) (fun g => waits x (f g)) h)

/-- One blocked split for each kind of wait, with the objects that release it. -/
def blockedCases : List (Wait × State) :=
  [(.bwait 1 4, blocked (.bwait 1 4) id (bar1 id)), (.cwait 2 2, blocked (.cwait 2 2) (counted 2 []) id),
   (.cbar 0, blocked (.cbar 0) id (fun w => { w with cbDone := 1 })), (.emit 1 [1] 0 none, blocked (.emit 1 [1] 0 none) id id),
   (.stga 1 3, blocked (.stga 1 3) id (ringIn .empty)), (.stgw 1 3, blocked (.stgw 1 3) id (ringIn .full))]

theorem meets_blocked : blockedCases.all (fun c => (c.2.gangAt 0 0).splits.any (fun sp => sp.wait == c.1 && (c.2.gangAt 0 0).canRelease sp)) = true := by
  decide

theorem meets_blocked_ends :
    (let w := (blocked (.bwait 1 4) id (bar1 id)).wgAt 0; (w.bar 1).err = none ∧ (w.bar 1).completed 4 = true) ∧
    (let g := (blocked (.cwait 2 2) (counted 2 []) id).gangAt 0 0; g.counter 2 ≤ 2 ∧ g.coveredErr 2 2 = none) ∧
    0 < ((blocked (.cbar 0) id (fun w => { w with cbDone := 1 })).wgAt 0).cbDone ∧
    ((blocked (.emit 1 [1] 0 none) id id).nodeOf 0 1).any (fun n => n.space) = true ∧
    (let r := ((blocked (.stga 1 3) id (ringIn .empty)).wgAt 0).ring 1; (r.at r.prod).st = .empty) ∧
    (let r := ((blocked (.stgw 1 3) id (ringIn .full)).wgAt 0).ring 1; (r.at r.cons).st = .full ∧ (r.at r.cons).err = none) := by decide

/-- The EMIT is the first of those that wait; the split has waited for clocks or for none; who holds the edge buffer sees it or does not, and a unit is free or not. -/
def edged (b : EdgeBuf) : State := { blocked (.cbar 0) id (fun w => { w with cbDone := 1 }) with clock := [(0, 5)], edges := [(0, b)] }
def ebuf (wr : Nat) : EdgeBuf := { EdgeBuf.off with en := true, desc := 0x4000, base := 0x100000, nunits := 2, wr := wr, holder := 0xFFFF }

theorem meets_emit_head : (blocked (.emit 1 [1] 0 none) id id).emitters 0 1 = [(0, 0, 0)] := by decide
theorem meets_edges : (edged (ebuf 0)).clockAt 0 = 5 ∧ (edged (ebuf 0)).edgeVisible ((edged (ebuf 0)).wgAt 0) 0xFFFF = true ∧
    (edged (ebuf 0)).edgeVisible ((edged (ebuf 0)).wgAt 0) 1 = false ∧ (edged (ebuf 0)).unitFree 0x4000 0 2 = true ∧
    (edged (ebuf 2)).unitFree 0x4000 2 2 = false ∧ ((edged (ebuf 0)).gangAt 0 0).splits.map (fun sp => sp.waitStart) = [0] := by decide
/-- 19 R307, R308: serial 1 of die 0; the record's id, then its object word, kind 3. -/
theorem test_edge : (fun t : State => ((t.edgeBuf 0).wr, (t.edgeBuf 0).serials, (t.gangAt 0 0).blame, t.byteAt (.dev 0x100000), t.byteAt (.dev 0x100013)))
    (got (exec (.blockedWaitRelease 0 0 0) (edged (ebuf 0)))) = (1, 1, 1, 1, 0x30) := by decide
theorem test_edge_full : (fun b : EdgeBuf => (b.wr, b.serials, b.dropped)) ((got (exec (.blockedWaitRelease 0 0 0) (edged (ebuf 2)))).edgeBuf 0) = (2, 1, 1) := by
  decide

theorem test_release : (gang (exec (.blockedWaitRelease 0 0 0) (blocked (.stgw 1 3) id (ringIn .full)))).splits.map (fun sp => (sp.pc, sp.wait)) =
    [(1, .none)] := by decide

theorem meets_passed : ∃ (s t : State) (sp : Split), (s.gangAt 0 0).splits[0]? = some sp ∧ sp.wait = .passed 1 LastArr.zero [] ∧
    (s.gangAt 0 0).canRelease sp = true ∧ (s.wgAt 0).preempt = false ∧ (t.gangAt 0 0).splits[0]? = some sp ∧ (t.gangAt 0 0).canRelease sp = true ∧
    (t.wgAt 0).preempt = true :=
  ⟨blocked (.passed 1 LastArr.zero []) id id, blocked (.passed 1 LastArr.zero []) id (fun h => { h with preempt := true }), _, rfl, rfl, by decide⟩
theorem test_passed : (gang (exec (.blockedWaitRelease 0 0 0) (blocked (.passed 1 LastArr.zero []) id id))).splits.map (fun sp => (sp.pc, sp.wait)) = [(1, .none)] := by
  decide

/-! ### Traps and system instructions (21, 23) -/

def hnd : Handler := ⟨[], 3, 3, 0, true, [], []⟩

def held (s : State) : State := { s with launches := [(0, some { lau 0 with hold := some ⟨0, 0x8000, 4, 0⟩ })] }

theorem meets_trap : ∃ (s : State) (cx : Ctx), s.ctx? = some cx ∧ cx.wg.kernel.trapOff = some 40 ∧ cx.g.handler = none ∧ s.hold? cx.wg = none ∧
    cx.sp.slices.getLsbD (lowLane cx.en / 4) = true := ⟨on 0xE0149000 (some 0) scal handled, _, rfl, by decide⟩
theorem meets_trap_none : ∃ (s : State) (cx : Ctx) (l : Launch), s.ctx? = some cx ∧ cx.wg.kernel.trapOff = none ∧
    SMap.get none s.launches cx.wg.launch = some l ∧ cx.sp.slices.getLsbD (lowLane cx.en / 4) = true :=
  ⟨launched 0 (on 0xE0149000 (some 0) scal), _, lau 0, rfl, by decide⟩
theorem meets_trap_inside : ∃ (s : State) (cx : Ctx), s.ctx? = some cx ∧ cx.g.handler ≠ none ∧ cx.sp.slices.getLsbD (lowLane cx.en / 4) = true :=
  ⟨on 0xE0149000 (some 0) (fun g => { scal g with handler := some hnd }) handled, _, rfl, by decide⟩
theorem meets_bkpt_held : ∃ (s : State) (cx : Ctx), s.ctx? = some cx ∧ s.hold? cx.wg = some ⟨0, 0x8000, 4, 0⟩ ∧
    cx.sp.slices.getLsbD (lowLane cx.en / 4) = true := ⟨held (on 0xE50C0000 (some 0) scal), _, rfl, by decide⟩

/-- 21 R335: SWNUM and 0x21 in TRAPC; the first word in TRAPPC. -/
theorem test_trap : (fun g : Gang => (g.trapc, g.trapa, g.trappc, g.splits.map (fun sp => sp.pc))) (gang (exec (.trap 5 2) (on 0xE0142000 (some 0) scal handled))) =
    (0x521, BitVec.allOnes 64 - 2, 0, [40]) := by decide
theorem test_bkpt : (fun g : Gang => (g.trapc, g.trapa)) (gang (exec (.bkpt 3) (on 0xE50C0000 (some 0) scal handled))) = (0x20, 3) := by decide

theorem meets_tret_outside : ∃ (s : State) (cx : Ctx), s.ctx? = some cx ∧ cx.g.handler = none := ⟨on 0xE1000000 none id handled, _, rfl, by decide⟩
theorem meets_tret : ∃ (s : State) (cx : Ctx), s.ctx? = some cx ∧ cx.g.handler = some hnd ∧
    ∀ j ∈ slicesOf cx.sp.slices, (SMap.get [] cx.g.dp j).length ≤ SMap.get 0 hnd.depths j :=
  ⟨on 0xE1000000 none (fun g => { g with handler := some hnd }) handled, _, rfl, by decide⟩
theorem meets_tret_completes : ∃ (s : State) (cx : Ctx), s.ctx? = some cx ∧ cx.g.handler = some hnd ∧ NothingToComplete cx s ∧
    Split.issuePlane cx.g (cx.sp.returned hnd cx.g.trappc) ≠ none ∧
    ∀ j ∈ slicesOf cx.sp.slices, (SMap.get [] cx.g.dp j).length ≤ SMap.get 0 hnd.depths j :=
  ⟨on 0xE1000000 none (fun g => { g with handler := some hnd, trappc := 9 }) handled, _, rfl, by decide, nothing rfl (by decide) (by decide), by decide, by decide⟩

theorem meets_tret_deeper : ∃ (s : State) (cx : Ctx), s.ctx? = some cx ∧ cx.g.handler = some hnd ∧
    ∃ j ∈ slicesOf cx.sp.slices, SMap.get 0 hnd.depths j < (SMap.get [] cx.g.dp j).length :=
  ⟨on 0xE1000000 none (fun g => { g with handler := some hnd, dp := [(0, [⟨5, 1, 2, none, none⟩])] }) handled, _, rfl, by decide⟩
theorem test_tret : (gang (exec .tret (on 0xE1000000 none (fun g => { g with handler := some hnd, trappc := 9 }) handled))).splits.map (fun sp => sp.pc) =
    [9] := by decide

theorem meets_system : ∃ (s : State) (cx : Ctx), s.ctx? = some cx ∧ cx.wg.priv = true ∧ cx.g.atomicsOut = false ∧ (cx.g.sreg 2).toNat < 2 ^ 16 ∧
    (cx.g.sreg 1).toNat < 256 ∧ cx.g.handler ≠ none ∧ (cx.g.sreg 1).toNat < cx.wg.kernel.length :=
  ⟨on 0xE90020C0 (some 0) (fun g => { s1s2 7 0xFFFF g with handler := some hnd }), _, rfl, by decide⟩
theorem meets_unprivileged : ∃ (s : State) (cx : Ctx), s.ctx? = some cx ∧ cx.wg.priv = false ∧ cx.g.permit.getLsbD 5 = false :=
  ⟨on 0xE9001080 (some 0) id (fun h => { h with priv := false }), _, rfl, by decide⟩
theorem meets_tlbi_waits : ∃ (s : State) (cx : Ctx), s.ctx? = some cx ∧ cx.wg.priv = true ∧ cx.g.atomicsOut = true :=
  ⟨on 0xE9001080 (some 0) (fun g => { g with loads := [⟨1, 1, 1, true, false, false⟩] }), _, rfl, by decide⟩
/-- What FLUSH flushes: a packet and a pair record. -/
theorem meets_flush : ∃ (s : State) (cx : Ctx), s.ctx? = some cx ∧ 0 < (s.traceBuf 0).nunits ∧ 0 < (s.edgeBuf 0).nunits ∧
    (∀ p ∈ (s.traceBuf 0).queue, p.type = 2 → 18 ≤ p.payload.length) ∧
    (∀ f ∈ (s.traceBuf 0).frame, ∃ k < (s.traceBuf 0).nunits, f.addr = (s.traceBuf 0).base + k * 4096) ∧ (s.edgeBuf 0).pair ≠ none :=
  ⟨{ on 0xE7400000 (some 0) id with
      traces := [(0, { TraceBuf.off with desc := 0x4000, en := true, base := 0x100000, nunits := 2, queue := [⟨1024, 455, 30, 0, 7, 0, none, [1, 2]⟩] })],
      edges := [(0, { EdgeBuf.off with desc := 0x5000, en := true, base := 0x200000, nunits := 2, pair := some (1, 2, 30) })] }, _, rfl, by decide⟩

theorem meets_acct : ∃ (s : State) (cx : Ctx), s.ctx? = some cx ∧ cx.wg.priv = true ∧ (cx.g.sreg 1).toNat = 8 * 2 ^ 8 + 255 :=
  ⟨on 0xE8003040 (some 0) (s1s2 0x8FF 0), _, rfl, by decide⟩
theorem meets_acct_gain : ∃ (s : State) (cx : Ctx), s.ctx? = some cx ∧ cx.wg.priv = true ∧ (cx.g.sreg 1).toNat = 3 * 2 ^ 8 + 255 ∧
    SMap.get false s.traffic 255 = true := ⟨{ on 0xE8003040 (some 0) (s1s2 0x3FF 0) with traffic := [(255, true)] }, _, rfl, by decide⟩
theorem meets_acct_quiet : ∃ (s : State) (cx : Ctx), s.ctx? = some cx ∧ cx.wg.priv = true ∧ (cx.g.sreg 1).toNat = 3 * 2 ^ 8 + 255 ∧
    SMap.get false s.traffic 255 = false := ⟨{ on 0xE8003040 (some 0) (s1s2 0x3FF 0) with acct := [(4080, 5)] }, _, rfl, by decide⟩
theorem test_acct_quiet : (gang (exec (.acct 3 1) { on 0xE8003040 (some 0) (s1s2 0x305 0) with acct := [(83, 44), (80, 9)] })).sreg 3 = 44 := by decide
theorem meets_acct_unprivileged : ∃ (s : State) (cx : Ctx), s.ctx? = some cx ∧ cx.wg.priv = false ∧ (cx.g.sreg 1).toNat = 6 * 2 ^ 8 + 1 :=
  ⟨on 0xE8003040 (some 0) (s1s2 0x601 0) (fun h => { h with priv := false }), _, rfl, by decide⟩

theorem meets_watch : ∃ (s : State) (cx : Ctx), s.ctx? = some cx ∧ cx.g.permit.getLsbD 5 = true ∧ (cx.g.sreg 2).toNat ≤ 2 ^ 32 ∧
    spaceOf (cx.g.sreg 1) = .global 0xFFFFFFFF ∧ 0xFFFFFFFF + (cx.g.sreg 2).toNat ≤ 2 ^ 57 :=
  ⟨on 0xEA041080 (some 0) (fun g => { s1s2 0xFFFFFFFF 0x100000000 g with permit := 0x20 }), _, rfl, by decide⟩
theorem meets_watch_pad : ∃ (s : State) (cx : Ctx), s.ctx? = some cx ∧ cx.g.permit.getLsbD 5 = true ∧ (cx.g.sreg 2).toNat ≤ 2 ^ 32 ∧
    spaceOf (cx.g.sreg 1) = .localPad 0xFFFFF ∧ 0xFFFFF + (cx.g.sreg 2).toNat ≤ 2 ^ 20 :=
  ⟨on 0xEA041080 (some 0) (fun g => { s1s2 0xFE000000000FFFFF 1 g with permit := 0x20 }), _, rfl, by decide⟩
theorem meets_watch_out : ∃ (s : State) (cx : Ctx), s.ctx? = some cx ∧ cx.g.permit.getLsbD 5 = true ∧
    spaceOf (cx.g.sreg 1) = .localPad 0xFFFFF ∧ 2 ^ 20 < 0xFFFFF + (cx.g.sreg 2).toNat ∧ (cx.g.sreg 2).toNat ≤ 2 ^ 32 :=
  ⟨on 0xEA041080 (some 0) (fun g => { s1s2 0xFE000000000FFFFF 2 g with permit := 0x20 }), _, rfl, by decide⟩
theorem meets_acct_out : ∃ (s : State) (cx : Ctx), s.ctx? = some cx ∧ cx.wg.priv = true ∧ 9 ≤ (cx.g.sreg 1).toNat / 2 ^ 8 ∧
    (cx.g.sreg 1).toNat < 2 ^ 12 := ⟨on 0xE8003040 (some 0) (s1s2 0x900 0), _, rfl, by decide⟩
theorem meets_system_out : ∃ (s : State) (cx : Ctx), s.ctx? = some cx ∧ cx.wg.priv = true ∧ 2 ^ 16 ≤ (cx.g.sreg 2).toNat ∧ 256 ≤ (cx.g.sreg 1).toNat ∧
    65536 < (cx.g.sreg 2).toNat := ⟨on 0xE9001080 (some 0) (s1s2 256 0x10001), _, rfl, by decide⟩
theorem meets_halt : ∃ (s : State) (cx : Ctx) (l : Launch), s.ctx? = some cx ∧ SMap.get none s.launches cx.wg.launch = some l :=
  ⟨launched 0 (on 0xE4001000 (some 0) scal), _, lau 0, rfl, rfl⟩

theorem test_srd_lane : (List.range 4).map (fun l => ((gang (exec (.srd 0 3) (on 0xE2003000 (some 0) id))).cell 3 l)) =
    [⟨0, .n32, false⟩, ⟨1, .n32, false⟩, ⟨2, .n32, false⟩, ⟨3, .n32, false⟩] := by decide
theorem test_srd_rst : (gang (exec (.srd 13 3) (on 0xE2343000 (some 0) (fun g => { g with regions := [1, 2, 3, 4] })))).sreg 3 = 0x0004000300020001 := by
  decide
theorem test_swr : (gang (exec (.swr 10 1) (on 0xE3281000 (some 0) (s1s2 0x3F 0)))).flags = 0x3F := by decide
theorem test_halt : ((SMap.get none (got (exec (.halt 1) (launched 0 (on 0xE4001000 (some 0) scal)))).launches 0).bind (fun l => l.status)).map
    (fun x => (x.code, x.detail)) = some (0x30, 7) := by decide
theorem test_trcm : (fun g : Gang => (g.traceEn, g.sreg 3)) (gang (exec (.trcm 3 1) (on 0xE6003040 (some 0)
    (fun g => { s1s2 0x13 0 g with traceEn := 0x20, permit := 0x31 })))) = (0x11, 0x20) := by decide
theorem test_trcc : (gang (exec (.trcc 0) (on 0xE7000000 (some 0) (fun g => { g with traceEn := 1 })))).syncDue = true := by decide
theorem test_acct : (gang (exec (.acct 3 1) { on 0xE8003040 (some 0) (s1s2 0x105 0) with acct := [(81, 44)] })).sreg 3 = 44 := by decide
theorem test_tlbi : SMap.get [] (got (exec (.tlbi 1 0 2) { on 0xE9400080 (some 0) (s1s2 0 6) with tlb := [(0, [⟨5, 1, 1, 0⟩, ⟨6, 1, 1, 0⟩])] })).tlb 0 =
    [⟨5, 1, 1, 0⟩] := by decide
theorem test_watch : SMap.get none ((got (exec (.watch 1 1 2) (on 0xEA041080 (some 0) (fun g => { s1s2 64 32 g with permit := 0x20 })))).wgAt 0).watch 1 =
    some (64, 32) := by decide

/-! ### The transform pipe (09 R175 to R181) -/

theorem pipeReadable {s : State} {core gang : Nat} {a : W64} {n : Nat}
    (h : (bytesOf a n).all (fun b => (match spaceOf b with
      | .localPad off => decide (off < (s.wgAt core).kernel.scratch)
      | _ => false) && !races s core gang .load b && !s.poisonAt (placeOf s core b)) = true) : PipeReadable s core gang a n := by
  intro b hb
  have := List.all_eq_true.mp h b hb
  simp only [Bool.and_eq_true, Bool.not_eq_true'] at this
  obtain ⟨⟨h1, h2⟩, h3⟩ := this
  refine ⟨?_, h2, h3⟩
  split at h1
  · exact ⟨_, by assumption, by simpa using h1⟩
  · cases h1

/-- s1 is the scratchpad's start, s2 is 64 bytes on, s3 is 0, s4 is 9; v2 are keys. -/
def xg (g : Gang) : Gang :=
  fill 3 .n32 (fun l => BitVec.ofNat 32 l) (fill 2 .s32 (fun l => BitVec.ofInt 32 (5 - 3 * (l : Int))) ((s1s2 0xFE00000000000000 0xFE00000000000040 g).setS 4 9))

theorem meets_transforms : ∃ (s : State) (cx : Ctx), s.ctx? = some cx ∧ Collective cx ∧ (cx.g.sreg 4).toNat ≤ 65536 ∧ (cx.g.sreg 3).toNat < 2 ∧
    RegsReadable cx (2 * 1) 2 ∧ OneTag cx (2 * 1) 1 .s32 :=
  ⟨on 0x80001000 (some 0) xg, _, rfl, collective (by decide), by decide, by decide, by unfold RegsReadable; decide, by unfold OneTag; decide⟩

/-- A command runs in the pipe. -/
def pipe (op : XOp) (bs : SMap Byte) (tb : Option XTable := none) : State :=
  padded bs (on 0 (some 0) (fun g => waits (.transform op) (xg g)) (fun w => { w with xq := [0], xrun := true, xtab := [(1, tb)] }))

theorem meets_transform_start : ∃ s : State, (s.wgAt 0).xq ≠ [] ∧ (s.wgAt 0).xrun = false := ⟨on 0 (some 0) id (fun w => { w with xq := [0] }), by decide⟩
theorem meets_transform_reply : ∃ (s : State) (rest : List Nat) (sp : Split) (op : XOp), (s.wgAt 0).xq = 0 :: rest ∧ (s.wgAt 0).xrun = true ∧
    (s.gangAt 0 0).splits = [sp] ∧ sp.wait = .transform op ∧ op = .srt 1 3 ∧ ∀ l ∈ lanesOf sp.lanes, ((s.gangAt 0 0).cell 2 l).tag = .s32 :=
  ⟨pipe (.srt 1 3) [], [], _, _, rfl, rfl, rfl, rfl, rfl, by decide⟩

/-- Two codewords of one bit: 0 is symbol 0x41, 1 is symbol 0xF2. -/
def image : SMap Byte := [(0, 2), (24, 0x41), (25, 0xF2)]
def table1 : XTable := ⟨[2, 0, 0, 0, 0, 0, 0, 0, 0, 0, 0, 0], [0x41, 0xF2], true⟩
/-- The stream's header: width 64, table 1, three bits; its bits 0, 1, 0. -/
def stream : SMap Byte := [(0, 64), (2, 1), (4, 3), (16, 2)]

theorem meets_xtab : ∃ s : State, s = pipe (.tab 1 true 1) image ∧ PipeReadable s 0 0 0xFE00000000000000 24 ∧
    (let counts := (List.range 12).map (fun i => numOf (pipeBytes s 0 0 (0xFE00000000000000 + BitVec.ofNat 64 (2 * i)) 2))
     1 ≤ counts.sum ∧ counts.sum ≤ 256 ∧ ((List.range 12).map (fun i => counts.getD i 0 * 2 ^ (11 - i))).sum ≤ 4096) ∧
    PipeReadable s 0 0 (0xFE00000000000000 + 24) 2 := ⟨_, rfl, pipeReadable (by decide), by decide, pipeReadable (by decide)⟩

theorem meets_xdec : ∃ s : State, s = pipe (.dec 2 1 2 3) stream (some table1) ∧ PipeReadable s 0 0 0xFE00000000000000 16 ∧
    numOf (pipeBytes s 0 0 0xFE00000000000000 16) = 64 + 2 ^ 16 + 3 * 2 ^ 32 ∧ SMap.get none (s.wgAt 0).xtab 1 = some table1 ∧
    PipeReadable s 0 0 (0xFE00000000000000 + 16) 1 ∧ PipeReadable s 0 0 0xFE00000000000040 1 ∧
    Decodes table1 (pipeBytes s 0 0 (0xFE00000000000000 + 16) 1) 3 3 0 none [0x41, 0x41, 0x41, 0x41, 0x41] :=
  ⟨_, rfl, pipeReadable (by decide), by decide, rfl, pipeReadable (by decide), pipeReadable (by decide),
    .symbol (n := 1) (code := 0) (sym := 0x41) (by decide) (by decide) (by decide) (by decide)
      (.run (n := 1) (code := 1) (sym := 0xF2) (by decide) (by decide) (by decide) (by decide) (by decide)
        (.symbol (n := 1) (code := 0) (sym := 0x41) (by decide) (by decide) (by decide) (by decide) (.done (by decide))))⟩

theorem meets_xcrc : ∃ s : State, s = pipe (.crc 5 1 4) [] ∧ ((s.gangAt 0 0).sreg 4).toNat = 9 ∧ PipeReadable s 0 0 0xFE00000000000000 9 :=
  ⟨_, rfl, by decide, pipeReadable (by decide)⟩

/-- 09 R180: the CRC-32C of the ASCII digits 1 to 9. -/
theorem test_xcrc : (gang (exec (.transformReply 0) (pipe (.crc 5 1 4)
    [(0, 0x31), (1, 0x32), (2, 0x33), (3, 0x34), (4, 0x35), (5, 0x36), (6, 0x37), (7, 0x38), (8, 0x39)]))).sreg 5 = 0xE3069283 := by decide
theorem test_xsrt : (List.range 4).map (fun l => ((gang (exec (.transformReply 0) (pipe (.srt 1 3) []))).cell 3 l).bits) = [3, 2, 1, 0] := by decide
theorem test_xdec : (List.range 3).map (fun i => ((gang (exec (.transformReply 0) (pipe (.dec 2 1 2 3) stream (some table1)))).cell (4 + 4 * i) 0).bits) =
    [0x41414141, 0, 5] := by decide
theorem test_xtab : SMap.get none ((got (exec (.transformReply 0) (pipe (.tab 1 true 1) image))).wgAt 0).xtab 1 = some table1 := by decide
theorem test_xtab_queued : ((got (exec (.xtab 1 1 1) (on 0x80401000 (some 0) xg))).wgAt 0).xq = [0] := by decide

/-! ### Steps of a gang beside its instructions (01, 07, 13, 21, 23) -/

/-- Gang 0's split waits in RACQ since clock 0; the die's clock is `n`. -/
def starving (n : W64) : State :=
  let s := on 0 (some 0) (fun g => { waits .racq g with splits := g.splits.map (fun sp => { sp with wait := .racq, pc := 3, waitFirst := 2 }) }) handled
  { s.setCore 0 { s.coreAt 0 with racq := [(0, [⟨0, 0⟩])] } with clock := [(0, n)] }

theorem meets_racq_grant : ∃ s : State, SMap.get [] (s.coreAt 0).racq 0 = [⟨0, 0⟩] ∧ (s.coreAt 0).wg ≠ none ∧
    ∀ i < 4, (s.gangAt 0 (0 + 4 * i)).ext ≠ some 0 := ⟨starving 0, by decide⟩
theorem meets_racq_grant_second : ∃ s : State, SMap.get [] (s.coreAt 0).racq 0 = [⟨0, 0⟩] ∧ (s.coreAt 0).wg ≠ none ∧
    (∃ i < 4, (s.gangAt 0 (0 + 4 * i)).ext = some 0) ∧ ∀ i < 4, (s.gangAt 0 (0 + 4 * i)).ext ≠ some 1 :=
  ⟨let s := starving 0; s.setWg 0 { s.wgAt 0 with gangs := SMap.set Gang.empty (s.wgAt 0).gangs 4 { Gang.empty with ext := some 0 } }, by decide⟩
theorem meets_starvation : ∃ (s : State) (sp : Split), (SMap.get [] (s.coreAt 0).racq 0).find? (fun x => x.gang == 0) = some ⟨0, 0⟩ ∧
    (s.gangAt 0 0).splits = [sp] ∧ sp.wait = .racq ∧ (s.gangAt 0 0).canRelease sp = true ∧ 0 + 2 ^ 20 < (s.clockAt 0).toNat ∧
    (s.wgAt 0).kernel.trapOff = some 40 ∧ (s.gangAt 0 0).handler = none := ⟨starving 0x100001, _, rfl, rfl, by decide⟩
theorem meets_no_starvation : ∃ (s : State) (sp : Split), (SMap.get [] (s.coreAt 0).racq 0).find? (fun x => x.gang == 0) = some ⟨0, 0⟩ ∧
    (s.gangAt 0 0).splits = [sp] ∧ sp.wait = .racq ∧ (s.gangAt 0 0).canRelease sp = true ∧ (s.clockAt 0).toNat ≤ 0 + 2 ^ 20 := ⟨starving 0x100000, _, rfl, rfl, by decide⟩

/-- A pre-emption is due beside a request, or a starving one. -/
theorem meets_racq_preempt : ∃ (s : State) (sp : Split), SMap.get [] (s.coreAt 0).racq 0 = [⟨0, 0⟩] ∧ (s.coreAt 0).wg ≠ none ∧
    (∀ i < 4, (s.gangAt 0 (0 + 4 * i)).ext ≠ some 0) ∧ (s.wgAt 0).preempt = true ∧ (s.gangAt 0 0).splits = [sp] ∧ sp.wait = .racq ∧
    (s.gangAt 0 0).canRelease sp = true :=
  ⟨let s := starving 0x100001; s.setWg 0 { s.wgAt 0 with preempt := true }, _, by decide, by decide, by decide, rfl, rfl, by decide⟩

/-- A resumed stop: RESUME of a launch whose gang stands at a breakpoint. -/
theorem meets_resume_at : ∃ s : State, s = held (on 0 (some 0) (fun g => { g with dbgStop := some (.breakpoint, 0) })) ∧
    (s.gangAt 0 0).dbgStop = some (.breakpoint, 0) ∧ (s.gangAt 0 0).splits.length = 1 ∧ (s.wgAt 0).launch = 0 ∧
    (∀ e ∈ s.cores, ∀ w ∈ e.2.wg, w.launch = 0 → 3 < w.kernel.length) ∧ s.saved = [] := ⟨_, rfl, by decide⟩

theorem meets_gang_waits : ∀ x ∈ [Wait.rrel, .ifence, .tlbi 0 0x10000 0, .tlbi 1 0 7, .tlbi 2 0 0],
    let s := on 0 (some 0) (fun g => waits x { g with ext := some 1 })
    ∃ sp : Split, (s.gangAt 0 0).splits[0]? = some sp ∧ sp.wait = x ∧ (s.gangAt 0 0).canRelease sp = true ∧ (s.gangAt 0 0).atomicsOut = false ∧
      writesOut s 0 0 = false := by
  intro x hx
  simp only [List.mem_cons, List.not_mem_nil, or_false] at hx
  rcases hx with rfl | rfl | rfl | rfl | rfl <;> exact ⟨_, rfl, rfl, by decide⟩

def entry1 : DPEntry := ⟨9, 0x3, 0xC, none, none⟩

/-- Both paths of slice 0 stand at their join. -/
def joining (g : Gang) : Gang :=
  { g with dp := [(0, [entry1])], splits := [{ launchSplit (placeKernel 0) 0 with path := some 0, lanes := 3, pc := 9 },
      { launchSplit (placeKernel 0) 0 with path := some 1, lanes := 0xC, pc := 9 }] }

theorem meets_join : ∃ (s : State) (a b : Split), SMap.get [] (s.gangAt 0 0).dp 0 = [entry1] ∧ (s.gangAt 0 0).splits = [a, b] ∧ a.path = some 0 ∧
    b.path = some 1 ∧ [a, b].all (fun x => x.slices == BitVec.ofNat 8 (2 ^ 0) && x.pc == entry1.join && x.nextPlane == 0 && x.wait == .none &&
      (s.gangAt 0 0).canRelease x) = true := ⟨on 0 (some 0) joining, _, _, rfl, rfl, rfl, rfl, by decide⟩
theorem meets_load_return : ∃ s : State, 0 < (s.gangAt 0 0).loads.length := ⟨on 0 (some 0) (fun g => { g with loads := [⟨1, 1, 1, false, false, false⟩] }), by decide⟩
theorem meets_stop : ∃ (s : State) (h : Hold) (sp : Split), s.hold? (s.wgAt 0) = some h ∧ stopSplit s 0 (s.gangAt 0 0) = some (0, sp) ∧
    (s.gangAt 0 0).dbgStop = none ∧ (s.gangAt 0 0).service = none :=
  ⟨held (on 0 (some 0) (fun g => { g with stopReq := some false })), ⟨0, 0x8000, 4, 0⟩, launchSplit (placeKernel 0) 0, rfl, by decide⟩

def exiting (es : List CmdErr) (h : Workgroup → Workgroup) : State := launched 0 (on 0 (some 0) (fun g => { g with exited := 0xF, splits := [], cErr := es }) h)

theorem meets_gang_exit : ∃ s : State, 0 < (s.wgAt 0).kernel.gangs ∧ (s.gangAt 0 0).done = false ∧ (s.wgAt 0).kernel.lanes &&& ~~~(s.gangAt 0 0).exited = 0 ∧
    (s.gangAt 0 0).loads = [] ∧ (∀ n < 4, SMap.get 0 (s.gangAt 0 0).c n = 0) ∧ (s.wgAt 0).cluster = false ∧ (s.gangAt 0 0).cErr = [] ∧
    ∃ e ∈ (s.wgAt 0).gangs, e.1 ≠ 0 ∧ e.2.done = false := ⟨exiting [] (fun h => { pair h with cluster := false }), by decide⟩
theorem meets_last_gang_exit : ∃ s : State, 0 < (s.wgAt 0).kernel.gangs ∧ (s.gangAt 0 0).done = false ∧ (s.wgAt 0).kernel.lanes &&& ~~~(s.gangAt 0 0).exited = 0 ∧
    (s.gangAt 0 0).loads = [] ∧ (∀ n < 4, SMap.get 0 (s.gangAt 0 0).c n = 0) ∧ (s.wgAt 0).cluster = false ∧ (s.gangAt 0 0).cErr = [] ∧
    ∀ e ∈ (s.wgAt 0).gangs, e.1 ≠ 0 → e.2.done = true := ⟨exiting [] id, by decide⟩
theorem meets_gang_exit_error : ∃ s : State, 0 < (s.wgAt 0).kernel.gangs ∧ (s.gangAt 0 0).done = false ∧ (s.wgAt 0).kernel.lanes &&& ~~~(s.gangAt 0 0).exited = 0 ∧
    (s.gangAt 0 0).loads = [] ∧ (∀ n < 4, SMap.get 0 (s.gangAt 0 0).c n = 0) ∧ (s.wgAt 0).cluster = false ∧ (s.gangAt 0 0).cErr ≠ [] :=
  ⟨exiting [cerr 1] id, by decide⟩

theorem test_racq_grant : (fun g : Gang => (g.ext, g.splits.map (fun sp => sp.pc))) (gang (exec (.racqGrant 0 0) (starving 0))) = (some 0, [4]) := by decide
theorem test_join : (gang (exec (.dualPathPop 0 0 0) (on 0 (some 0) joining))).splits.map (fun sp => (sp.pc, sp.path, sp.lanes)) = [(9, none, 0xF)] := by decide
theorem test_last_exit : ((got (exec (.gangExitComplete 0 0) (exiting [] id))).coreAt 0).wg = none := by decide

/-- A workgroup that ends: its gang stands at a word that does not issue. -/
theorem meets_ending : ∃ s : State, 0 < (s.wgAt 0).kernel.gangs ∧ (s.wgAt 0).ending = true ∧ (s.gangAt 0 0).done = false ∧ (s.wgAt 0).cluster = false ∧
    (∀ n < 4, SMap.get 0 (s.gangAt 0 0).c n = 0) ∧ (s.gangAt 0 0).splits ≠ [] ∧
    ∀ sp ∈ (s.gangAt 0 0).splits, Split.unfinished s 0 0 (s.wgAt 0) (s.gangAt 0 0) sp = false :=
  ⟨launched 0 (on 0 (some 0) id (fun h => { h with ending := true })), by decide⟩

/-! ### Services (11, 15, 17, 19) -/

def svc (c : Cause) (a : W64) : Service :=
  { cause := c, addr := a, faults := [], malformed := false, pc := 0, trapl := 0, split := 0, trapOff := 0, plane := 0, anchored := false, tag := none, since := 0 }

def serving (c : Cause) (m : Bool := false) : State :=
  launched 0 (on 0 (some 0) (fun g => { g with service := some { svc c 0x20000 with malformed := m } }) handled)

theorem meets_services : ∀ c ∈ [Cause.translation, .protection, .backingExhausted, .integrity], ∃ (v : Service) (sp : Split),
    ((serving c).gangAt 0 0).service = some v ∧ v.cause = c ∧ v.malformed = false ∧ ((serving c).wgAt 0).kernel.trapOff = some 40 ∧
    ((serving c).gangAt 0 0).handler = none ∧ ((serving c).gangAt 0 0).splits[v.split]? = some sp ∧ (serving c).regionOf 0 2 = none ∧
    (serving c).frameNew 0x30000 = true := by
  intro c hc
  simp only [List.mem_cons, List.not_mem_nil, or_false] at hc
  rcases hc with rfl | rfl | rfl | rfl <;> exact ⟨_, _, rfl, rfl, rfl, rfl, rfl, rfl, by decide⟩

theorem meets_malformed : ∃ v : Service, ((serving .protection true).gangAt 0 0).service = some v ∧ v.cause = .protection ∧ v.malformed = true := ⟨_, rfl, rfl, rfl⟩

/-- A default region of one page at 0x20000, at index 3. -/
def reg3 : Region := { asid := 0, base := 0x20000, pages := 1, default := 0, logw := 0, skip := false, check := false, domain := 0, reserve := 1, free := [(0, [0])] }
def regioned (s : State) : State := { s with regions := [(3, some reg3)] }

/-- The last frame of each die's memory. -/
def frames4 : List Nat := (List.range 4).map (fun d => (d + 1) * 68719476736 - 65536)

theorem meets_reserve_service : ∃ s : State, s = regioned (serving .backingExhausted) ∧ placeOf s 0 0x20000 = .page 3 0 0 ∧ SMap.get none s.regions 3 = some reg3 ∧
    (∀ f ∈ frames4, s.frameNew f = true) ∧ frames4.Nodup ∧ frames4.map (fun f => f / 68719476736) = [0, 1, 2, 3] := ⟨_, rfl, by decide⟩

theorem meets_command_services : ∃ s t u : State, (s.wgAt 0).mq = [{ cmd .mma .faulted with faults := [⟨64, .translation, false⟩] }] ∧
    (t.wgAt 0).cq = [{ ccmd .gath .faulted .none with faults := [⟨64, .integrity, false⟩, ⟨32, .protection, false⟩] }] ∧
    (u.wgAt 0).cq = [ccmd .gath .backing .none] ∧ (u.wgAt 0).mq = [cmd .accst .backing] ∧ u.frameNew 0 = true :=
  ⟨engine { cmd .mma .faulted with faults := [⟨64, .translation, false⟩] },
    copying { ccmd .gath .faulted .none with faults := [⟨64, .integrity, false⟩, ⟨32, .protection, false⟩] },
    on 0 (some 0) id (fun h => { h with cq := [ccmd .gath .backing .none], mq := [cmd .accst .backing] }), rfl, rfl, rfl, rfl, by decide⟩

theorem meets_soft_errors : ∃ s : State, (s.coreAt 0).wg ≠ none ∧ (s.gangAt 0 0).ext ≠ none ∧ s.backedAt 3 0 = some ⟨0, 0, false⟩ :=
  ⟨{ on 0 (some 0) (fun g => { g with ext := some 0 }) with backed := [(backKey 3 0, some ⟨0, 0, false⟩)] }, by decide⟩

/-- A PROTECTION of a page, with its lane. -/
theorem meets_protection_resume : ∃ (s : State) (v : Service), (s.gangAt 0 0).service = some v ∧ v.cause = .protection ∧ v.malformed = false ∧
    v.faults ≠ [] ∧ spaceOf v.addr = .global 0x20000 ∧ s.regionOf (s.wgAt 0).asid 2 = none :=
  ⟨launched 0 (on 0 (some 0) (fun g => { g with service := some { svc .protection 0x20000 with faults := [(0, 0x20000)] } }) handled), _, rfl, by decide⟩
theorem test_protection_resume : (gang (exec (.faultService 0 0 (.resume [(2, 0)])) (launched 0
    (on 0 (some 0) (fun g => { g with service := some { svc .protection 0x20000 with faults := [(0, 0x20000)] } }) handled)))).service = none := by decide
theorem meets_soft_latch : ∃ s : State, s.pstate ≠ .off ∧ (s.coreAt 0).wg ≠ none ∧ (s.gangAt 0 0).latch 1 2 3 = some ⟨5, .n32, false⟩ :=
  ⟨on 0 (some 0) (fun g => { g with x := [(32 * (4 * 1 + 2) + 3, some ⟨5, .n32, false⟩)] }), by decide⟩
theorem test_soft_units : (fun s : State => (s.poisonAt (.dev 95), s.poisonAt (.dev 96))) (got (exec (.errorCorrection (.memory 64)) State.reset)) = (true, false) ∧
    (fun s : State => (s.poisonAt (.dev 71), s.poisonAt (.dev 72))) (got (exec (.errorCorrection (.cached 64)) State.reset)) = (true, false) := by decide

theorem test_fault_service : (gang (exec (.faultService 0 0 .deliver) (serving .protection))).trapc = 0x11 := by decide
theorem test_soft_error : (got (exec (.errorCorrection (.memory 64)) State.reset)).poisonAt (.dev 64) = true := by decide
theorem test_engine_backing : ((got (exec (.engineBackingWait 0 .copy (.add 0)) (on 0 (some 0) id (fun h => { h with cq := [ccmd .gath .backing .none] })))).wgAt 0).cq.map
    (fun c => c.state) = [.running] := by decide

/-- A fabric write that waits for backing. -/

def fabw : FabPacket := ⟨0, 7, 3, .write 0 0x20000 [1] []⟩

theorem meets_fabric_wait : ∃ s : State, s.fabWaits = [(fabw, [(3, 0)])] ∧ (writeImage 0 0x20000 [1] [] (addFrames [0x50000] s)).isSome = true :=
  ⟨{ regioned State.reset with fabWaits := [(fabw, [(3, 0)])], backed := [(backKey 3 0, some ⟨0x60000, 0, false⟩)] }, rfl, by decide⟩

/-! ### Host calls and requests (21, 23) -/

/-- Bytes from an address on, those that are not 0. -/
def put (a : Nat) (bs : List Byte) : SMap Byte := ((bs.zipIdx).filter (fun b => b.1 != 0)).map (fun b => (a + b.2, b.1))

/-- Mailbox 63 has one call, whose record stands at 0x1000: OP, a slot, and 0x2000 as address; `m` stands behind it. -/
def calling (op slot : Nat) (m : SMap Byte) (f : State → State := id) : State :=
  f { State.reset with
      boot := .done, mem := put 0x1000 ([BitVec.ofNat 8 op, 0, BitVec.ofNat 8 slot, 0, 0, 0, 0, 0, 0, 0x20]) ++ m,
      mail := [(63, ⟨some ⟨0xFFFF, 0, 0⟩, 0, [⟨0x1000, false, 0, 0⟩], []⟩)] }

/-- What mailbox 63 takes next is a well-formed call of a code. -/
def takes (s : State) (op : Nat) : Bool := (s.nextCall 63).any (fun t => t.r.op == op && t.r.ok)

theorem meets_doorbell : ∃ s : State, s.boot = .done ∧ s.pstate ≠ .off ∧ (s.mailbox 3).bound = none ∧ (s.mailbox 63).bound ≠ none :=
  ⟨calling 1 0 [], by decide⟩

/-- A .dvo object at 0x2000: one kernel, one variant of one word, one region of one page at 0x50000 (05 R116 to R120). -/
def object1 : SMap Byte :=
  let magic := put 0x2000 [0x44, 0x56, 0x4F]
  let counts := [0x2004, 0x2008, 0x200C, 0x2014, 0x206E].flatMap (fun a => put a [1])
  let variant := put 0x2073 [1, 1, 1] ++ put 0x207C (List.replicate 4 0xFF) ++ put 0x2088 (List.replicate 5 0xFF)
  magic ++ counts ++ variant ++ put 0x2090 [0xC0] ++ put 0x2098 [1] ++ put 0x20A2 [5] ++ put 0x20B0 [1] ++ put 0x20B8 [1] ++ put 0x20C0 [7]

def choice : Placement := ⟨[(4, mkEntry 0 0x40000 false false false false true true true true true)], [0x40000], [7]⟩

theorem meets_load : ∃ (s : State) (t : Taken), s = calling 1 0 object1 ∧ s.nextCall 63 = some t ∧ t.r.op = 1 ∧ t.r.ok = true ∧
    (let taken := takeCall 63 s
     (parseObject taken ⟨t.b.asid, t.r.addr⟩ t.b.domain).any (fun p => loadFits taken p.regions && indicesOk taken p.regions.length choice.regions &&
       (let ready := setLeaves t.b.asid choice.leaves ((choice.regions.zip p.regions).foldl (fun s r => createRegion r.1 r.2 s) taken)
        placementOk ready t.b.asid p choice.bases && (placeImages ⟨t.b.asid, t.r.addr⟩ p choice.bases ready).isSome))) = true ∧
    SMap.get none s.objs 0 = none := by
  refine ⟨_, ⟨⟨0xFFFF, 0, 0⟩, ⟨0x1000, false, 0, 0⟩, ⟨1, 0, 0x2000, 0, 0, true⟩⟩, rfl, ?_, ?_, ?_, ?_, rfl⟩ <;> decide

theorem meets_load_malformed : ∃ (s : State) (t : Taken), s.nextCall 63 = some t ∧ t.r.op = 1 ∧
    parseObject (takeCall 63 s) ⟨t.b.asid, t.r.addr⟩ t.b.domain = none :=
  ⟨calling 1 0 [], ⟨⟨0xFFFF, 0, 0⟩, ⟨0x1000, false, 0, 0⟩, ⟨1, 0, 0x2000, 0, 0, true⟩⟩, by decide, rfl, by decide⟩

/-- Slot 0 holds an object of one kernel; a graph of one node at 0x2000. -/
def loaded (s : State) : State :=
  { s with objs := [(0, some { mailbox := 63, tenant := 0xFFFF, asid := 0, kernels := [⟨placeKernel 0, [⟨0, 2 ^ 40 - 1, 64, 0x10000⟩]⟩], regions := [], pages := [] })] }

def graph : SMap Byte := put 0x2000 [1] ++ put 0x2008 [0x80, 0x20] ++ put 0x208C [1] ++ put 0x209C [0x21, 0x04]

theorem meets_launch : ∃ (s : State) (t : Taken), s = calling 2 0 graph loaded ∧ s.nextCall 63 = some t ∧ t.r.op = 2 ∧
    (match validate ((takeCall 63 s).charge t.b.domain 7 1) 63 t with
      | .ok nodes => nodes.length == 1
      | .error _ => false) = true :=
  ⟨_, ⟨⟨0xFFFF, 0, 0⟩, ⟨0x1000, false, 0, 0⟩, ⟨2, 0, 0x2000, 0, 0, true⟩⟩, rfl, by decide, rfl, by decide⟩
theorem meets_launch_refused : ∃ (s : State) (t : Taken), s = calling 2 0 [] loaded ∧ s.nextCall 63 = some t ∧ t.r.op = 2 ∧
    (match validate ((takeCall 63 s).charge t.b.domain 7 1) 63 t with
      | .ok _ => false
      | .error st => st.code == 0x41) = true :=
  ⟨_, ⟨⟨0xFFFF, 0, 0⟩, ⟨0x1000, false, 0, 0⟩, ⟨2, 0, 0x2000, 0, 0, true⟩⟩, rfl, by decide, rfl, by decide⟩

theorem meets_free : ∃ s : State, takes s 3 = true ∧ (s.mailbox 63).frees = [] ∧ s.ownObj 0xFFFF 0 ≠ none ∧ s.slotUsed 0 = false :=
  ⟨calling 3 0 [] loaded, by decide⟩
theorem meets_free_used : ∃ s : State, takes s 3 = true ∧ (s.mailbox 63).frees = [] ∧ s.ownObj 0xFFFF 0 ≠ none ∧ s.slotUsed 0 = true :=
  ⟨calling 3 0 [] (fun s => launched 0 (loaded s)), by decide⟩
theorem meets_free_foreign : ∃ s : State, takes s 3 = true ∧ (s.mailbox 63).frees = [] ∧ s.ownObj 0xFFFF 1 = none := ⟨calling 3 1 [] loaded, by decide⟩
theorem test_free : SMap.get none (got (exec (.free 63) (calling 3 0 [] loaded))).objs 0 = none := by decide
theorem test_launch : (got (exec (.launch 63) (calling 2 0 graph loaded))).ready.map (fun e => (e.launch, e.node, e.job)) = [(0, 0, .fixed)] := by decide
theorem test_launch_lacks : (got (exec (.launch 63) (calling 2 0 graph (fun s => { loaded s with lacks := some 0 })))).nextLaunch = 0 := by decide

/-- A call of a request, whose record stands at 0x2000. -/
def asking (code a b c d : Nat) (m : SMap Byte := []) (f : State → State := id) : State :=
  calling 4 0 (put 0x2000 (leBytes 4 code ++ leBytes 4 a ++ leBytes 8 b ++ leBytes 8 c ++ leBytes 8 d) ++ m) f

/-- The request that mailbox 63 makes next. -/
def asked (s : State) : Request := ((s.nextCall 63).map (fun t => s.requestRec t.b.asid t.r.addr)).getD ⟨0, 0, 0, 0, 0, false⟩

def asks (s : State) (code a b c d : Nat) : Prop := takes s 4 = true ∧ asked s = ⟨code, a, b, c, d, true⟩

theorem meets_extend : ∃ s : State, asks s 1 7 0 0x3000 0 ∧ reachable (takeCall 63 s) 0 0x3000 64 = true := ⟨asking 1 7 0 0x3000 0, by unfold asks; decide⟩
theorem meets_setage : ∃ s : State, asks s 2 5 65535 0 0 := ⟨asking 2 5 65535 0 0, by unfold asks; decide⟩
theorem meets_pooladd : ∃ s : State, asks s 3 0 1 0x3000 0 ∧ reachable (takeCall 63 s) 0 0x3000 8 = true ∧
    numOf (readVa (takeCall 63 s) 0 0x3000 8) * 65536 = 0x50000 ∧ (takeCall 63 s).frameNew 0x50000 = true :=
  ⟨asking 3 0 1 0x3000 0 [(0x3000, 5)], by unfold asks; decide⟩
theorem meets_reserve : ∃ s : State, asks s 4 3 2 0 0 ∧ SMap.get none s.regions 3 = some reg3 ∧ ∀ d < 4, 2 - reg3.reserve ≤ (SMap.get [] s.pool d).length :=
  ⟨asking 4 3 2 0 0 [] (fun s => { regioned s with pool := [(0, [65536]), (1, [68719476736]), (2, [137438953472]), (3, [206158430208])] }), by unfold asks; decide⟩
theorem meets_bind : ∃ s : State, asks s 5 62 0x10005 0x3000 9 := ⟨asking 5 62 0x10005 0x3000 9, by unfold asks; decide⟩
theorem meets_bind_system : ∃ s : State, asks s 5 63 0xFFFF 0x3000 0 ∧ s.running 63 = false := ⟨asking 5 63 0xFFFF 0x3000 0, by unfold asks; decide⟩
theorem meets_unbind : ∃ s : State, asks s 6 62 0 0 0 ∧ ((takeCall 63 s).mailbox 62).calls = [] ∧ ((takeCall 63 s).mailbox 62).frees = [] ∧
    s.running 62 = false ∧ (s.objs.all (fun e => e.2.all (fun o => o.mailbox != 62))) = true ∧ SMap.wf none s.objs = true :=
  ⟨asking 6 62 0 0 0 [] loaded, by unfold asks; decide⟩
theorem meets_buffer_off : ∃ s : State, asks s 7 3 0x10000 0 0 := ⟨asking 7 3 0x10000 0 0, by unfold asks; decide⟩

/-- A descriptor at 0x4000: two units from 0x100000 on; a trace buffer, or an edge buffer. -/
def desc (kind : Nat) : SMap Byte := put 0x4000 [BitVec.ofNat 8 (4 * kind), 0, 0, 0, 2, 0, 0, 0, 0, 0, 0x10]

theorem meets_buffer : ∀ kind ∈ [0, 1], asks (asking 7 0 kind 0x4000 0 (desc kind)) 7 0 kind 0x4000 0 ∧
    devAddr (takeCall 63 (asking 7 0 kind 0x4000 0 (desc kind))) 0 0x4000 = some 0x4000 ∧
    descOk (numOf (readVa (takeCall 63 (asking 7 0 kind 0x4000 0 (desc kind))) 0 0x4000 32)) kind 0x4000 = true := by
  intro k hk
  simp only [List.mem_cons, List.not_mem_nil, or_false] at hk
  rcases hk with rfl | rfl <;> (unfold asks; decide)

/-- Launch 0 is held or not, and the device is OPEN. -/
def debugged (h : Bool) (s : State) : State :=
  { (if h then held s else launched 0 s) with security := .opened }

theorem meets_attach : ∃ s : State, asks s 8 63 1 0x3000 1 ∧ s.named (asked s) = some (0, lau 0) ∧ reachable (takeCall 63 s) 0 0x3000 32 = true ∧
    debugOk s 63 ⟨0xFFFF, 0, 0⟩ (lau 0) = true := ⟨asking 8 63 1 0x3000 1 [] (debugged false), by unfold asks; decide⟩
theorem meets_attach_refused : ∃ s : State, asks s 8 63 1 0x3000 1 ∧ s.named (asked s) = some (0, lau 0) ∧ debugOk s 63 ⟨0xFFFF, 0, 0⟩ (lau 0) = false :=
  ⟨asking 8 63 1 0x3000 1 [] (launched 0), by unfold asks; decide⟩
theorem meets_hold_requests : ∀ x ∈ [(9, 1), (10, 2 ^ 64 - 1), (11, 0x0001000200030004), (12, 0), (13, 0)],
    let s := asking x.1 63 1 x.2 0 [] (debugged true)
    asks s x.1 63 1 x.2 0 ∧ (s.named (asked s)).any (fun l => l.1 == 0 && l.2.hold.isSome && debugOk s 63 ⟨0xFFFF, 0, 0⟩ l.2) = true := by
  intro x hx
  simp only [List.mem_cons, List.not_mem_nil, or_false] at hx
  rcases hx with rfl | rfl | rfl | rfl | rfl <;> (unfold asks; decide)

theorem test_setage : SMap.get 500 (got (exec (.setage 63) (asking 2 5 65535 0 0))).age 5 = 65535 := by decide
theorem test_bind : ((got (exec (.bind 63) (asking 5 62 0x10005 0x3000 9))).mailbox 62).bound = some ⟨5, 9, 1⟩ := by decide
theorem test_arm : ((SMap.get none (got (exec (.arm 63) (asking 11 63 1 0x0001000200000004 0 [] (debugged true)))).launches 0).map (fun l => l.armed)) =
    some [4, 2, 1] := by decide

/-! ### Scheduling and trace (21, 23) -/

def ent (j : Job) : Entry := ⟨0, 0, j, 0, 3, some 0, 0⟩

/-- Launch 0 with one node of one workgroup, whose entry waits since TIME 0; core 0 is free. -/
def pooled (j : Job) (n : Node) : State := { State.reset with ready := [ent j], launches := [(0, some { lau 0 with nodes := [n] })] }

def node0 : Node := { node1 with mode1 := false, ready := true, count := 1, args := [5, 6], succs := [] }

theorem meets_dispatch : ∃ (s : State) (n : Node), s.headEntry 0 = some (ent .fixed, 0) ∧ s.eligible 0 (ent .fixed) = some [0] ∧
    (SMap.get none s.launches 0).isSome = true ∧ s.nodeOf 0 0 = some n ∧ n.cluster = false ∧ n.args.length ≤ 15 := ⟨pooled .fixed node0, node0, by decide⟩
theorem meets_dispatch_batch : ∃ (s : State) (n : Node), s.headEntry 0 = some (ent (.batch 2), 0) ∧ s.eligible 0 (ent (.batch 2)) = some [0] ∧
    (SMap.get none s.launches 0).isSome = true ∧ s.nodeOf 0 0 = some n ∧ n.cluster = false ∧ n.args.length ≤ 15 := ⟨pooled (.batch 2) { node1 with pushed := 2, fired := 2, succs := [] }, _, rfl, rfl, rfl, rfl, by decide⟩
theorem meets_dispatch_saved : ∃ (s : State) (x : Saved), s.headEntry 0 = some (ent (.saved [4]), 0) ∧ s.eligible 0 (ent (.saved [4])) = some [0] ∧
    (SMap.get none s.launches 0).isSome = true ∧ (s.nodeOf 0 0).isSome = true ∧ SMap.get none s.saved 4 = some x ∧
    x.wg.gangs.all (fun q => q.2.splits.all (fun sp => sp.wait == .none)) = true :=
  ⟨{ pooled (.saved [4]) node0 with saved := [(4, some ⟨placeGroup 0 0, Store.empty, []⟩)] }, ⟨placeGroup 0 0, Store.empty, []⟩, by decide⟩
theorem meets_dispatch_cluster : ∃ (s : State) (n : Node), s.headEntry 0 = some (ent .fixed, 0) ∧ s.eligible 0 (ent .fixed) = some [0, 1, 2, 3] ∧
    (SMap.get none s.launches 0).isSome = true ∧ s.nodeOf 0 0 = some n ∧ n.cluster = true ∧ n.args.length ≤ 15 :=
  ⟨pooled .fixed { node0 with cluster := true, count := 4 }, { node0 with cluster := true, count := 4 }, by decide⟩
theorem test_dispatch_cluster : (List.range 4).map (fun c => (fun w : Workgroup => (w.rank, w.clrank, w.cluster))
    ((got (exec (.dispatch 0) (pooled .fixed { node0 with cluster := true, count := 4 }))).wgAt c)) =
    [(0, 0, true), (1, 1, true), (2, 2, true), (3, 3, true)] := by decide

theorem meets_ageing : ∃ s : State, s.ready[0]? = some (ent .fixed) ∧ (ent .fixed).level < 6 ∧
    SMap.get 500 s.age (ent .fixed).level * 1000 < (s.time - 0).toNat ∧ s.entryLive (ent .fixed) = true :=
  ⟨{ pooled .fixed node0 with timeBase := (0, 500001) }, by decide⟩
theorem meets_no_ageing : ∃ s : State, s.ready[0]? = some (ent .fixed) ∧ (s.time - 0).toNat ≤ SMap.get 500 s.age (ent .fixed).level * 1000 :=
  ⟨{ pooled .fixed node0 with timeBase := (0, 500000) }, by decide⟩

/-- One record of a MODE 1 node of timeout 2 waits since clock 0. -/
def coalescing : State :=
  { State.reset with timeBase := (0, 2001), launches := [(0, some { lau 0 with nodes := [{ node1 with pushed := 1, waiting := [LastArr.zero], succs := [] }] })] }

theorem meets_coalesce : ∃ (s : State) (l : Launch) (n : Node), SMap.get none s.launches 0 = some l ∧ s.nodeOf 0 0 = some n ∧ s.recordTime n = some 2001 ∧
    n.mode1 = true ∧ n.timeout ≠ 0 ∧ l.status = none ∧ n.complete = false :=
  ⟨coalescing, _, _, rfl, rfl, by decide⟩
theorem meets_coalesce_late : ∃ (s : State) (n : Node) (t : W64), s.nodeOf 0 0 = some n ∧ s.recordTime n = some t ∧ n.timeout * 1000 < (s.time - t).toNat ∧
    operandsFree s 0 0 0 n = true := ⟨{ coalescing with clock := [(0, 90000)] }, _, 2001, rfl, by decide⟩
theorem meets_save : ∃ s : State, (s.wgAt 0).cluster = false ∧ memberSaveable s 0 = true := ⟨on 0 (some 0) scal (fun h => { h with preempt := true }), by decide⟩

theorem test_dispatch : (fun g : Gang => (g.sreg 1, g.sreg 2, g.splits.map (fun sp => (sp.pc, sp.lanes)))) (gang (exec (.dispatch 0) (pooled .fixed node0))) =
    (5, 6, [(0, 0xF)]) := by decide
theorem test_ageing : (got (exec (.ageing 0) { pooled .fixed node0 with timeBase := (0, 500001) })).ready.map (fun e => (e.level, e.since)) = [(4, some 500001)] := by
  decide
theorem test_save : (fun t : State => ((t.coreAt 0).wg, t.ready.map (fun e => e.job))) (got (exec (.contextSave 0) (on 0 (some 0) scal (fun h => { h with preempt := true })))) =
    (none, [.saved [0]]) := by decide

/-- A trace buffer of two units at 0x100000, with its descriptor at 0x4000. -/
def tbuf : TraceBuf := { TraceBuf.off with desc := 0x4000, en := true, base := 0x100000, nunits := 2, smplog := 10 }

def traced (b : TraceBuf) (s : State) : State := { s with traces := [(0, b)], clock := [(0, 1024)] }

def packet : Packet := ⟨1024, 455, 30, 0, 7, 0, none, [1, 2]⟩

theorem meets_sample : ∃ (s : State) (sp : Split), sampleDue s 0 = true ∧ sampleGang s 0 = some (0, sp) ∧ (s.traceBuf (0 / 104)).queue.length < 62 :=
  ⟨traced tbuf (on 0 (some 0) (fun g => { g with traceEn := 0x10 })), launchSplit (placeKernel 0) 0, by decide⟩
/-- A split that issued in the clock that the sample closes. -/
def issuedNow : State :=
  traced tbuf (on 0 (some 0) (fun g => { g with traceEn := 0x10, splits := g.splits.map (fun sp => { sp with lastIssue := [(0, 1023)] }) }))

theorem meets_sample_issued : ∃ sp : Split, sampleDue issuedNow 0 = true ∧ sampleGang issuedNow 0 = some (0, sp) ∧
    sp.issuedAt + 1 = (issuedNow.clockAt 0).toNat ∧ sp.issuedAt ≠ (issuedNow.wgAt 0).dispatched := ⟨_, by decide, rfl, by decide, by decide⟩
theorem test_sample_issued : ((got (exec (.traceSample 0) issuedNow)).traceBuf 0).queue.map (fun p => p.payload[6]?) = [some 0] := by decide
theorem meets_collector : ∃ (s : State) (f : Frame), (s.traceBuf 0).queue = [packet] ∧ (s.traceBuf 0).dropped = 0 ∧ packet.type ≠ 0xB ∧
    (s.traceBuf 0).frame = some f ∧ f.freq = packet.freq ∧ f.pos + (packet.bytes f.clock).length ≤ 4096 :=
  ⟨traced { tbuf with queue := [packet], frame := some ⟨0x100000, 23, 1000, 30, 0, 1000, 455⟩ } State.reset, ⟨0x100000, 23, 1000, 30, 0, 1000, 455⟩, by decide⟩
/-- A frame of another frequency, and one that is full; a SYNC packet that fits. -/
def syncp : Packet := ⟨1024, 455, 30, 0, 2, 0, none, List.replicate 26 0⟩

theorem meets_collector_closes : (∃ (s : State) (f : Frame), (s.traceBuf 0).queue = [packet] ∧ (s.traceBuf 0).dropped = 0 ∧ packet.type ≠ 0xB ∧
      (s.traceBuf 0).frame = some f ∧ f.freq ≠ packet.freq) ∧
    ∃ (s : State) (f : Frame), (s.traceBuf 0).queue = [packet] ∧ (s.traceBuf 0).dropped = 0 ∧ (s.traceBuf 0).frame = some f ∧
      4096 < f.pos + (packet.bytes f.clock).length :=
  ⟨⟨traced { tbuf with queue := [packet], frame := some ⟨0x100000, 23, 1000, 29, 0, 1000, 455⟩ } State.reset, ⟨0x100000, 23, 1000, 29, 0, 1000, 455⟩, by decide⟩,
    traced { tbuf with queue := [packet], frame := some ⟨0x100000, 4095, 1000, 30, 0, 1000, 455⟩ } State.reset, ⟨0x100000, 4095, 1000, 30, 0, 1000, 455⟩, by decide⟩
theorem meets_collector_sync : ∃ (s : State) (f : Frame), (s.traceBuf 0).queue = [syncp] ∧ (s.traceBuf 0).dropped = 0 ∧ syncp.type = 2 ∧
    (s.traceBuf 0).frame = some f ∧ f.freq = syncp.freq ∧ f.pos + (syncp.bytes f.clock).length ≤ 4096 :=
  ⟨traced { tbuf with queue := [syncp], frame := some ⟨0x100000, 23, 1000, 30, 0, 1000, 455⟩ } State.reset, ⟨0x100000, 23, 1000, 30, 0, 1000, 455⟩, by decide⟩

/-- After drops a LOSS packet joins the queue; a LOSS packet is written. -/
theorem meets_collector_loss : ∃ (s : State) (f : Frame) (p : Packet), (s.traceBuf 0).queue = [p] ∧ 0 < (s.traceBuf 0).dropped ∧ p.type = 0xB ∧
    (s.traceBuf 0).frame = some f ∧ f.step = p.step ∧ f.pos + (p.bytes f.clock).length ≤ 4096 ∧ (s.gangAt 0 0).splits ≠ [] :=
  ⟨traced { tbuf with queue := [{ packet with type := 0xB }], dropped := 5, frame := some ⟨0x100000, 23, 1000, 30, 0, 1000, 455⟩ } (on 0 (some 0) id),
    ⟨0x100000, 23, 1000, 30, 0, 1000, 455⟩, { packet with type := 0xB }, by decide⟩
theorem test_collector_loss : (fun b : TraceBuf => (b.dropped, b.queue.map (fun p => (p.type, p.payload)))) ((got (exec (.collectorWrite 0)
    (traced { tbuf with queue := [packet], dropped := 5, frame := some ⟨0x100000, 23, 1000, 30, 0, 1000, 455⟩ } State.reset))).traceBuf 0) =
    (0, [(0xB, [5, 0, 0, 0])]) := by decide

theorem meets_frame : ∃ s : State, (s.traceBuf 0).queue = [packet] ∧ (s.traceBuf 0).dropped = 0 ∧ (s.traceBuf 0).frame = none ∧ (s.traceBuf 0).en = true ∧
    s.frameFree (s.traceBuf 0) = true := ⟨traced { tbuf with queue := [packet] } State.reset, by decide⟩
theorem meets_edge_pair : ∃ s : State, (s.edgeBuf 0).pair ≠ none ∧ (s.edgeBuf 0).dropped = 0 ∧ (s.edgeBuf 0).en = true ∧
    s.unitFree (s.edgeBuf 0).desc (s.edgeBuf 0).wr (s.edgeBuf 0).nunits = true :=
  ⟨{ State.reset with edges := [(0, { EdgeBuf.off with en := true, desc := 0x4000, base := 0x100000, nunits := 2, pair := some (1, 2, 30) })] }, by decide⟩
/-- A die's edge buffer with a pair due, with edges dropped, with both, and full or off. -/
def edgy (f : EdgeBuf → EdgeBuf) : State := { State.reset with edges := [(0, f (ebuf 0))] }

theorem meets_edge_records : ((edgy (fun b => { b with dropped := 3 })).edgeBuf 0).pair = none ∧ (edgy id).unitFree 0x4000 0 2 = true ∧
    ((edgy (fun b => { b with pair := some (7, 8, 30), dropped := 3 })).edgeBuf 0).pair ≠ none ∧ (edgy id).unitFree 0x4000 2 2 = false := by decide
/-- 23 R361, R362: the count dropped, then 0xFFFFFFFF; the frequency, then 0xFFFFFFFE. -/
theorem test_edge_loss : (List.range 5).map (fun i => (got (exec (.edgeLossWrite 0) (edgy (fun b => { b with dropped := 3 })))).byteAt (.dev (0x100010 + i))) =
    [0xFF, 0xFF, 0xFF, 0xFF, 3] := by decide
theorem test_edge_pair : (List.range 5).map (fun i => (got (exec (.edgeLossWrite 0) (edgy (fun b => { b with pair := some (7, 8, 30) })))).byteAt
    (.dev (0x100010 + i))) = [0xFE, 0xFF, 0xFF, 0xFF, 30] := by decide

theorem meets_no_edge : ∃ s : State, (s.edgeBuf 0).pair = none ∧ (s.edgeBuf 0).dropped = 0 := ⟨State.reset, by decide⟩
theorem test_sample : ((got (exec (.traceSample 0) (traced tbuf (on 0 (some 0) (fun g => { g with traceEn := 0x10 }))))).traceBuf 0).queue.map (fun p => p.type) =
    [7] := by decide

/-! ### The device and the world outside (25) -/

def booted (f : State → State := id) : State := f { State.reset with boot := .done, timeBase := (0, 5000000) }

def pkt (dest : BitVec 20) (op : FabOp) : FabPacket := ⟨dest, 7, 3, op⟩

theorem meets_device : ∃ s : State, s.msPage < s.ms ∧ s.msFreq < s.ms ∧ s.msSync < s.ms ∧ s.ports.getLsbD 15 = true ∧ s.boot = .done ∧ ¬(s.pstate = .off) ∧
    s.devid % 2 ^ 20 = (0 : BitVec 20).toNat := ⟨booted, by decide⟩
theorem meets_boot_pending : ∃ s : State, s.boot ≠ .done := ⟨State.reset, by decide⟩
theorem meets_fabric_route : ∃ s : State, s.boot = .done ∧ (5 : BitVec 20).toNat ≠ s.devid % 2 ^ 20 ∧ s.routeTo 5 = some 2 :=
  ⟨booted (fun s => { s with routes := [(5, 3)] }), by decide⟩
theorem meets_fabric_write : ∃ s : State, s.boot = .done ∧ (writeImage 0 0x3000 [1, 2] [] (chargeFabric 3 2 s)).isSome = true := ⟨booted, by decide⟩
/-- The page's state cannot be corrected: the write is lost, and reported. -/
theorem meets_fabric_bad : ∃ s : State, s.boot = .done ∧ s.badPage (placeAt s 0 0x20001) = true ∧ s.badPage (placeAt s 0 0x1FFFF) = false :=
  ⟨regioned (booted (fun s => { s with backed := [(backKey 3 0, some ⟨0x50000, 0, true⟩)] })), by decide⟩
theorem meets_fabric_no_write : ∃ s : State, s.boot = .done ∧ (writeImage 0 0x20000 [1] [] (chargeFabric 3 1 s)).isNone = true := ⟨booted (fun s => { s with regions := [(3, some { reg3 with free := [] })] }), by decide⟩
theorem meets_fabric_arrive : ∃ s : State, (s.coreAt 0).wg ≠ none ∧ ((s.wgAt 0).bar 1).err = none ∧ ((s.wgAt 0).bar 1).engArrived < ((s.wgAt 0).bar 1).engines ∧
    s.boot = .pending := ⟨on 0 (some 0) id (bar1 id), by decide⟩
/-- A device that another of a lower DEVID is reachable from, and one that is the reference. -/
theorem meets_time_sync : ∃ s t : State, s.msSync < s.ms ∧ s.boot = .done ∧ s.pstate ≠ .off ∧ s.devid % 2 ^ 20 = 5 ∧ s.routeTo 0 = some 2 ∧
    t.msSync < t.ms ∧ t.boot = .done ∧ t.devid % 2 ^ 20 = 0 := ⟨booted (fun s => { s with devid := 5, routes := [(0, 3)] }), booted, by decide⟩
theorem test_time_sync : (fun s : State => (s.slew, s.sent.map (fun m => m.2.op))) (got (exec (.timeSync 3) (booted (fun s => { s with ports := 2 })))) =
    (0, [.time 5000000]) := by decide
theorem test_time_ends : (fun s : State => (s.sent, s.inbox)) (got (exec (.fabricPacket 1 (pkt 9 (.time 7))) booted)) = ([], []) := by decide
/-- A write whose pages had no frame when it began to wait. -/
theorem meets_fabric_decline : ∃ (s : State) (p : FabPacket), s.fabWaits = [(p, [(3, 0)])] ∧ p.op = .write 0 0x20000 [1] [] :=
  ⟨{ regioned State.reset with fabWaits := [(fabw, [(3, 0)])] }, fabw, rfl, rfl⟩
theorem test_fabric_decline : (fun s : State => (s.fabWaits, s.backed)) (got (exec (.engineBackingWait 0 .fabric .decline)
    { regioned State.reset with fabWaits := [(fabw, [(3, 0)])] })) = ([], []) := by decide

theorem meets_power : ∃ s t u : State, s.preq = s.pstate ∧ t.preq ≠ t.pstate ∧ t.preq = .deep ∧ t.quiet = true ∧
    u.preq ≠ u.pstate ∧ u.preq = .off ∧ u.quiet = false :=
  ⟨booted, booted (fun s => { s with preq := .deep }), booted (fun s => launched 0 { s with preq := .off }), by decide⟩

/-- Poison goes with a packet's bytes (11 R216). -/
theorem test_fabric : (got (exec (.fabricPacket 1 (pkt 0 (.message [0, 9] [1]))) booted)).inbox = [(1, [0, 9], [1])] ∧
    (fun s : State => (SMap.get 0 s.mem 0x3001, s.poisonAt (.dev 0x3000), s.poisonAt (.dev 0x3001)))
      (got (exec (.fabricPacket 1 (pkt 0 (.write 0 0x3000 [1, 2] [1]))) booted)) = (2, false, true) := by decide
theorem test_register_write : (fun s : State => (s.capw, s.capstep)) (got (exec (.registerWrite (1000 * 2 ^ 36 + 12)) booted)) = (1000, 12) := by decide
theorem test_bar2 : (fun s : State => (SMap.get 0 s.mem 64, s.hostOut)) (got (exec (.bar2Access (.fetchAdd 64 false 3)) (booted (fun s => { s with mem := [(64, 5)] })))) =
    (8, [.data [5, 0, 0, 0] []]) := by decide
theorem test_unquiet : (fun s : State => (s.pstate, s.preq)) (got (exec .pstateChange (booted (fun s => launched 0 { s with preq := .off })))) =
    (.active, .active) := by decide
theorem test_deep : (got (exec .pstateChange (booted (fun s => { s with preq := .deep })))).pstate = .deep := by decide

/-- A device that is off, one whose boot has stopped, and one in DEEP that wakes. -/
theorem meets_off : ∃ s t u : State, s.pstate = .off ∧ t.boot = .stopped ∧ ¬t.pstate = .off ∧ u.pstate = .deep ∧ u.preq = .active :=
  ⟨booted (fun s => { s with pstate := .off, preq := .off }), booted (fun s => { s with boot := .stopped }),
    booted (fun s => { s with pstate := .deep }), by decide⟩

/-- The signature functions have no value in the model: a token's signature is valid, or it is not, and each case has its clause. -/
theorem meets_tokens : ∃ s : State, s.boot = .done ∧ (s.mailbox 63).bound = some ⟨0xFFFF, 0, 0⟩ ∧ s.running 63 = false ∧ s.time.toNat < (6000000 : W64).toNat ∧
    ∀ sig, Config.slhVerify (1 + 0xFFFF) [s.devid, 63, 0xFFFF, Config.nonceOf s.nonce, (6000000 : W64).toNat] sig = true ∨
      Config.slhVerify (1 + 0xFFFF) [s.devid, 63, 0xFFFF, Config.nonceOf s.nonce, (6000000 : W64).toNat] sig = false :=
  ⟨booted, rfl, by decide, by decide, by decide, fun _ => by cases Config.slhVerify _ _ _ <;> simp⟩
theorem meets_boot : ∀ g : Stage, Config.slhVerify 0 [g.digest.toNat] g.sig = true ∨ Config.slhVerify 0 [g.digest.toNat] g.sig = false :=
  fun _ => by cases Config.slhVerify _ _ _ <;> simp
theorem meets_expiry : ∃ s t : State, SMap.get none s.tenantDebug 63 = some 6000000 ∧ s.time.toNat < (6000000 : W64).toNat ∧
    SMap.get none t.tenantDebug 63 = some 5000000 ∧ (5000000 : W64).toNat ≤ t.time.toNat :=
  ⟨booted (fun s => { s with tenantDebug := [(63, some 6000000)] }), booted (fun s => { s with tenantDebug := [(63, some 5000000)] }), by decide⟩
/-- A token of mailbox 63 ends; launch 0 of tenant 5 is held under the token of mailbox 62, launch 1 of tenant 0xFFFF under the one that ends. -/
def tokens : State :=
  booted (fun s => { (s.setMailbox 62 { s.mailbox 62 with bound := some ⟨5, 1, 0⟩ }) with
    tenantDebug := [(62, some 9000000), (63, some 5000000)],
    launches := [(0, some { lau 0 with mailbox := 62, tenant := 5, hold := some ⟨0, 0x8000, 4, 0⟩ }), (1, some { lau 0 with hold := some ⟨0, 0x8000, 4, 0⟩ })] })

theorem meets_expiry_holds : SMap.get none tokens.tenantDebug 63 = some 5000000 ∧ (5000000 : W64).toNat ≤ tokens.time.toNat ∧ tokens.security = .locked := by decide
theorem test_expiry_holds : (got (exec (.tokenExpiry 63) tokens)).launches.map (fun e => e.2.map (fun l => l.hold.isSome)) = [some true, some false] := by decide

theorem meets_spdm : ∃ s t : State, s.pstate ≠ .off ∧ s.boot = .done ∧ SMap.get 0 s.spdm 0 < 1 ∧ t.boot = .stopped ∧ 3 ≤ SMap.get 0 t.spdm 1 :=
  ⟨booted, booted (fun s => { s with boot := .stopped, spdm := [(1, 3)] }), by decide⟩

theorem test_expiry : (got (exec (.tokenExpiry 63) (booted (fun s => { s with tenantDebug := [(63, some 5000000)] })))).tenantDebug = [] := by decide
theorem test_spdm : (got (exec (.getVersion .doe) booted)).hostOut = [.spdm .doe .version] := by decide
theorem test_spdm_order : (got (exec (.challenge .doe 5) booted)).hostOut = [.spdm .doe .unexpected] := by decide

/-! ### The step (05, 21) -/

def placed (w : Nat) : State := { State.reset.withFetchWord 32 w with agenda := [] }

/-- The placed word's split. -/
def sp0 : Split := launchSplit (placeKernel 0) 0

theorem meets_step : ∃ s : State, s = State.reset.withFetchWord 32 0x31041234 ∧ s.agenda = [.issue 0 0] ∧ candidate (placed 0x31041234) 0 0 = some (0, 0, sp0) ∧
    modeAt (placed 0x31041234) 0 ((placed 0x31041234).gangAt 0 0) sp0 ≠ .align ∧ sp0.pc < ((placed 0x31041234).wgAt 0).kernel.length ∧
    (placed 0x31041234).fetch 0 0 (fetchPlane (placed 0x31041234) 0 ((placed 0x31041234).gangAt 0 0) sp0 (planeAt (placed 0x31041234) 0 ((placed 0x31041234).gangAt 0 0) sp0)) = .word 0x31041234 ∧
    decode 0x31041234 = .ok (.smovi 1 0 0x1234) := ⟨_, rfl, rfl, by decide, by decide, by decide, by decide, by decide⟩
theorem meets_step_refused : decode 0x0B000000 = .error .unassignedOpcode ∧ decode 0x54800000 = .error .compareN ∧
    (placed 0x0B000000).fetch 0 0 0 = .word 0x0B000000 ∧ (placed 0x54800000).fetch 0 0 0 = .word 0x54800000 := by decide
theorem meets_step_end : ∃ (s : State) (sp : Split), candidate s 0 0 = some (0, 0, sp) ∧ modeAt s 0 (s.gangAt 0 0) sp ≠ .align ∧
    (s.wgAt 0).kernel.length ≤ sp.pc :=
  ⟨on 0 none (fun g => { g with splits := [{ sp0 with pc := 64 }] }), { sp0 with pc := 64 }, by decide⟩
theorem meets_step_none : ∃ s : State, candidate s 0 0 = none := ⟨State.reset, by decide⟩
theorem meets_step_align : ∃ (s : State) (sp : Split), candidate s 0 0 = some (0, 0, sp) ∧ modeAt s 0 (s.gangAt 0 0) sp = .align :=
  ⟨let s := on 0 none (fun g => { g with plane := [(1, 1)], splits := [{ sp0 with lanes := 3 }] }) (fun h => { h with kernel := { h.kernel with planes := 2 } })
   { s.setCore 0 { s.coreAt 0 with ibuf := [(0x10003, 9)] } with mem := [(0x10003, 9)] },
    { sp0 with lanes := 3 }, by decide⟩
theorem meets_fetch : ∃ (s : State) (l : LeafAt), (s.wgAt 0).kernel.base + BitVec.ofNat 64 (0 * (s.wgAt 0).kernel.stride + 4 * 0) = BitVec.ofNat 64 0x10000 ∧
    s.translate 0 (s.wgAt 0).asid (0x10000 / 65536) = .leaf l ∧ entX l.entry = true ∧ (entPriv l.entry = true → (s.wgAt 0).priv = true) ∧
    (∀ i < 4, placeUnder s l (0x10000 + i) (s.wgAt 0).asid = .dev (0x10000 + i)) ∧ (s.coreAt 0).ibuf = s.mem :=
  ⟨placed 0x31041234, ⟨mkEntry 0 0x10000 false false false false true true true true true, 1, 1⟩, by decide⟩
theorem meets_canonical : Canonical State.reset := ⟨by decide, by decide, by decide, by decide, by decide⟩
theorem meets_canonical_step : ∃ s t : State, Canonical s ∧ step s = .next t :=
  ⟨{ State.reset with agenda := [.clocks 0] }, State.reset, ⟨by decide, by decide, by decide, by decide, by decide⟩, rfl⟩
theorem meets_encode : encode (.smovi 1 0 0x1234) = some 0x31041234 ∧ decode 0x31041234 = .ok (.smovi 1 0 0x1234) := by decide

end Sys2Proof.Tests
end

section
namespace Sys2Proof.Machine

/-! ### Slices and lanes as sets of numbers -/

@[simp] theorem mem_slicesOf {m : BitVec 8} {j : Nat} : j ∈ slicesOf m ↔ j < 8 ∧ m.getLsbD j = true := by
  simp [slicesOf]

/-- A bit of an OR over a list. -/
theorem getLsbD_foldl_or {w : Nat} {α : Type} (f : α → BitVec w) (xs : List α) (m : BitVec w) (k : Nat) :
    (xs.foldl (fun m x => m ||| f x) m).getLsbD k = (m.getLsbD k || xs.any (fun x => (f x).getLsbD k)) := by
  induction xs generalizing m with
  | nil => simp
  | cons x xs ih => simp [ih, Bool.or_assoc]

/-- The bit of one number. -/
theorem getLsbD_ofNat_two_pow {w k : Nat} (j : Nat) (hk : k < w) : (BitVec.ofNat w (2 ^ j)).getLsbD k = decide (j = k) := by
  rw [BitVec.getLsbD_ofNat, Nat.testBit_two_pow, decide_eq_true hk, Bool.true_and]

theorem getLsbD_sliceSet {js : List Nat} {k : Nat} (hk : k < 8) : (sliceSet js).getLsbD k = decide (k ∈ js) := by
  rw [sliceSet, getLsbD_foldl_or, BitVec.ofNat_eq_ofNat, BitVec.getLsbD_zero, Bool.false_or, List.any_eq]
  simp only [getLsbD_ofNat_two_pow _ hk, decide_eq_true_eq, exists_eq_right]

theorem getLsbD_maskOf {ls : List Nat} {l : Nat} (hl : l < 32) : (maskOf ls).getLsbD l = decide (l ∈ ls) := by
  rw [maskOf, getLsbD_foldl_or, BitVec.ofNat_eq_ofNat, BitVec.getLsbD_zero, Bool.false_or, List.any_eq]
  simp only [laneBit, getLsbD_ofNat_two_pow _ hl, decide_eq_true_eq, exists_eq_right]

@[simp] theorem sliceSet_singleton (j : Nat) : sliceSet [j] = BitVec.ofNat 8 (2 ^ j) := by
  simp [sliceSet]

theorem getLsbD_sliceMask {j l : Nat} (hl : l < 32) : (sliceMask j).getLsbD l = decide (l / 4 = j) := by
  have four : Nat.testBit 15 (l - 4 * j) = decide (l - 4 * j < 4) := Nat.testBit_two_pow_sub_one 4 (l - 4 * j)
  rw [sliceMask, BitVec.getLsbD_ofNat, Nat.testBit_mul_two_pow, four]
  rw [decide_eq_true hl, Bool.true_and, ← Bool.decide_and, decide_eq_decide]
  omega

@[simp] theorem mem_distinct {xs : List Nat} {k : Nat} : k ∈ distinct xs ↔ k ∈ xs := by
  induction xs with
  | nil => rfl
  | cons x xs ih => by_cases h : k = x <;> simp [distinct, ih, h]

/-! ### The lanes of an issue -/

/-- E lies in the issuing split (01 R38, 07 R124). -/
theorem State.ctx?_en {s : State} {cx : Ctx} (h : s.ctx? = some cx) {l : Nat} (hl : l < 32) (he : cx.en.getLsbD l = true) :
    cx.sp.lanes.getLsbD l = true := by
  have inPlane : ∀ (g : Gang) (m : W32) (n : Nat), (g.inPlane m n).getLsbD l = true → m.getLsbD l = true := by
    intro g m n hm
    rw [Gang.inPlane, getLsbD_maskOf hl] at hm
    simp_all [lanesOf]
  unfold State.ctx? at h
  split at h
  · cases h
  · split at h
    · cases h
    · next _ c _ _ sp _ =>
      cases h
      cases hp : c.plane with
      | none => simpa [mkCtx, hp] using he
      | some n => exact inPlane _ _ n (by simp [mkCtx, hp] at he; exact he.1)

/-! ### Parts of a split -/

theorem Split.within_refl (a : Split) : a.within a := ⟨fun _ _ h => h, fun _ _ h => h⟩

theorem Split.within.trans {a b c : Split} (h : a.within b) (k : b.within c) : a.within c :=
  ⟨fun j hj hb => k.1 j hj (h.1 j hj hb), fun l hl hb => k.2 l hl (h.2 l hl hb)⟩

/-- What a control transfer sends on lies within the split, on its path. -/
theorem within_of_mem_transferSplits {sp a : Split} {go : Nat → Nat} (h : a ∈ transferSplits sp go) : a.within sp := by
  unfold transferSplits at h
  dsimp only at h
  split at h
  · rw [List.mem_singleton.mp h]; exact sp.within_refl
  · obtain ⟨k, -, rfl⟩ := List.mem_map.mp h
    refine ⟨fun j hj hb => ?_, fun l _ hb => ?_⟩
    · simp only [Split.sent, getLsbD_sliceSet hj, decide_eq_true_eq, List.mem_filter, mem_slicesOf] at hb
      exact hb.1.2
    · simp only [Split.sent, BitVec.getLsbD_and, Bool.and_eq_true] at hb
      exact hb.1

/-- A slice of an undivided split is sent to its own offset. -/
theorem exists_sent_of_path_none {sp : Split} (go : Nat → Nat) (hp : sp.path = none) {j : Nat} (hj : j ∈ slicesOf sp.slices) :
    ∃ a ∈ transferSplits sp go, a.slices.getLsbD j = true ∧ a.path = none ∧ a.pc = go j := by
  have hmem : go j ∈ distinct ((slicesOf sp.slices).map go) := mem_distinct.mpr (List.mem_map_of_mem hj)
  unfold transferSplits
  simp only [hp]
  refine ⟨_, List.mem_map_of_mem hmem, ?_, hp, rfl⟩
  simp only [Split.sent, getLsbD_sliceSet (mem_slicesOf.mp hj).1, decide_eq_true_eq, List.mem_filter, beq_self_eq_true, and_true]
  exact hj

/-- A path is sent as a whole, to the offset of its lowest slice. -/
theorem transferSplits_path {sp : Split} (go : Nat → Nat) {n : Nat} (hp : sp.path = some n) :
    transferSplits sp go = [sp.sent sp.slices sp.lanes (go ((slicesOf sp.slices).headD 0))] := by
  simp [transferSplits, hp]

/-! ### A list in which one element gives way to several -/

section
variable {α : Type} {xs : List α} {k : Nat}

/-- The place of the old element `i` among the elements after element `k` gave way to `n` others. -/
def shifted (k n i : Nat) : Nat := if i < k then i else i + n - 1

/-- The new elements stand from place `k` on. -/
theorem getElem?_splice_new (ys : List α) (hk : k < xs.length) {m : Nat} (hm : m < ys.length) :
    (xs.take k ++ ys ++ xs.drop (k + 1))[k + m]? = ys[m]? := by
  have ht : (xs.take k).length = k := by simp; omega
  rw [List.append_assoc, List.getElem?_append_right (by omega), ht, Nat.add_sub_cancel_left, List.getElem?_append_left hm]

/-- An old element stands where its place has shifted to. -/
theorem getElem?_splice_old (ys : List α) (hk : k < xs.length) {i : Nat} (hi : i ≠ k) :
    (xs.take k ++ ys ++ xs.drop (k + 1))[shifted k ys.length i]? = xs[i]? := by
  have ht : (xs.take k).length = k := by simp; omega
  unfold shifted
  split
  · next h => rw [List.append_assoc, List.getElem?_append_left (by omega), List.getElem?_take_of_lt h]
  · rw [List.getElem?_append_right (by simp; omega), List.getElem?_drop]
    congr 1
    simp; omega

theorem mem_splice {ys : List α} {a : α} :
    a ∈ xs.take k ++ ys ++ xs.drop (k + 1) → a ∈ ys ∨ ∃ i, i ≠ k ∧ xs[i]? = some a := by
  simp only [List.mem_append]
  rintro ((h | h) | h)
  · obtain ⟨i, hi, rfl⟩ := List.mem_take_iff_getElem.mp h
    exact .inr ⟨i, by omega, by simp⟩
  · exact .inl h
  · obtain ⟨i, hi, rfl⟩ := List.mem_drop_iff_getElem.mp h
    exact .inr ⟨k + 1 + i, by omega, by simp⟩

end

/-! ### A gang written after a packet of the issue -/

theorem SMap.del_del {α : Type} (m : SMap α) (k : Nat) : (m.del k).del k = m.del k := by
  simp [SMap.del, List.filter_filter]

theorem SMap.del_ins_same {α : Type} (m : SMap α) (k : Nat) (v : α) : (m.ins k v).del k = m.del k := by
  induction m with
  | nil => simp [SMap.ins, SMap.del]
  | cons e r ih =>
    obtain ⟨k', v'⟩ := e
    simp only [SMap.ins]
    split
    · exact SMap.del_cons_same k v _
    · by_cases h : k' = k
      · subst h; rw [SMap.del_cons_same, SMap.del_cons_same, ih]
      · rw [SMap.del_cons_other v' _ h, SMap.del_cons_other v' _ h, ih]

/-- Of two writes to one key the second stands. -/
@[simp] theorem SMap.set_set {α : Type} [DecidableEq α] (d : α) (m : SMap α) (k : Nat) (v v' : α) :
    SMap.set d (SMap.set d m k v) k v' = SMap.set d m k v' := by
  have hdel : (SMap.set d m k v).del k = m.del k := by
    unfold SMap.set
    split
    · exact SMap.del_del m k
    · rw [SMap.del_ins_same, SMap.del_del]
  simp only [SMap.set] at hdel ⊢
  rw [hdel]

/-- Of two writes of one gang the second stands. -/
@[simp] theorem State.setGang_setGang (s : State) (c n : Nat) (x y : Gang) : (s.setGang c n x).setGang c n y = s.setGang c n y := by
  have hk : (s.setGang c n x).coreAt c = { s.coreAt c with wg := some { s.wgAt c with gangs := SMap.set Gang.empty (s.wgAt c).gangs n x } } :=
    State.coreAt_setCore s c _
  rw [State.setGang, State.setWg, State.wgAt, hk]
  simp [State.setGang, State.setWg, State.setCore, State.wgAt]

/-- A BR packet changes of the machine the packets queued and the gang's SYNC bookkeeping, and a gang written after it stands as written. -/
theorem emitBr_spec (cx : Ctx) (taken : W32) (ind : Option Nat) (s : State) : ∃ tr q k,
    (cx.emitBr taken ind s).gangAt cx.core cx.gang = { s.gangAt cx.core cx.gang with syncDue := q, sinceSync := k } ∧
    ∀ g, (cx.emitBr taken ind s).setGang cx.core cx.gang g = { s.setGang cx.core cx.gang g with traces := tr } := by
  have emitted : ∀ bits payload, ∃ tr q k,
      (cx.emit 0 3 bits payload s).gangAt cx.core cx.gang = { s.gangAt cx.core cx.gang with syncDue := q, sinceSync := k } ∧
      ∀ g, (cx.emit 0 3 bits payload s).setGang cx.core cx.gang g = { s.setGang cx.core cx.gang g with traces := tr } := by
    intro bits payload
    rcases emitPacket_spec cx.core cx.gang 0 3 bits cx.src cx.tag (leBytes 2 cx.src ++ payload) s with h | ⟨tr, q, k, h⟩
    · exact ⟨s.traces, (s.gangAt cx.core cx.gang).syncDue, (s.gangAt cx.core cx.gang).sinceSync, by rw [Ctx.emit, h], fun g => by rw [Ctx.emit, h]; rfl⟩
    · refine ⟨tr, q, k, ?_, fun g => ?_⟩
      · rw [Ctx.emit, h]; exact State.gangAt_setGang s cx.core cx.gang _
      · rw [Ctx.emit, h, ← State.setGang_setGang s cx.core cx.gang _ g]; rfl
  cases ind with
  | none => exact emitted _ _
  | some t => exact emitted _ _

end Sys2Proof.Machine
end

section
namespace Sys2Proof.Machine

/-! ### The lanes of a BRC (01 R41, R42) -/

theorem getLsbD_condLanes (cx : Ctx) (p : BitVec 3) (q : BitVec 1) {l : Nat} (hl : l < 32) :
    (condLanes cx p q).getLsbD l = (cx.en.getLsbD l && ((cx.g.preg p.toNat).getLsbD l != (q == 1))) := by
  rcases BitVec.eq_zero_or_eq_one q with rfl | rfl <;> simp [condLanes, hl]

/-- The lanes that path 0 takes are those of E in the slice for which the condition holds. -/
theorem brcLanes_true {cx : Ctx} {p : BitVec 3} {q : BitVec 1} {j : Nat} {m : W32} :
    BrcLanes cx p q j true m ↔ m = brcTaken cx p q j := by
  have bit : ∀ l < 32, (brcTaken cx p q j).getLsbD l =
      (cx.en.getLsbD l && decide (l / 4 = j) && (((cx.g.preg p.toNat).getLsbD l != (q == 1)) == true)) := by
    intro l hl
    rw [brcTaken, BitVec.getLsbD_and, getLsbD_condLanes cx p q hl, getLsbD_sliceMask hl, beq_true, Bool.and_right_comm]
  exact ⟨fun h => BitVec.eq_of_getLsbD_eq (fun l hl => (h l hl).trans (bit l hl).symm), fun h => h ▸ bit⟩

/-- The lanes that path 1 takes are the others of E in the slice. -/
theorem brcLanes_false {cx : Ctx} {p : BitVec 3} {q : BitVec 1} {j : Nat} {m : W32} :
    BrcLanes cx p q j false m ↔ m = brcOther cx p q j := by
  have bit : ∀ l < 32, (brcOther cx p q j).getLsbD l =
      (cx.en.getLsbD l && decide (l / 4 = j) && (((cx.g.preg p.toNat).getLsbD l != (q == 1)) == false)) := by
    intro l hl
    rw [brcOther, BitVec.getLsbD_and, BitVec.getLsbD_and, BitVec.getLsbD_not, getLsbD_condLanes cx p q hl, getLsbD_sliceMask hl, beq_false]
    cases cx.en.getLsbD l <;> simp [hl]
  exact ⟨fun h => BitVec.eq_of_getLsbD_eq (fun l hl => (h l hl).trans (bit l hl).symm), fun h => h ▸ bit⟩

theorem divides_iff {cx : Ctx} {p : BitVec 3} {q : BitVec 1} {j : Nat} :
    divides cx p q j = true ↔ brcTaken cx p q j ≠ 0 ∧ brcOther cx p q j ≠ 0 := by
  simp [divides]

/-- Both paths lie in E. -/
theorem brcTaken_en {cx : Ctx} {p : BitVec 3} {q : BitVec 1} {j l : Nat} (h : (brcTaken cx p q j).getLsbD l = true) :
    cx.en.getLsbD l = true := by
  simp only [brcTaken, condLanes, BitVec.getLsbD_and, Bool.and_eq_true] at h
  exact h.1.1

theorem brcOther_en {cx : Ctx} {p : BitVec 3} {q : BitVec 1} {j l : Nat} (h : (brcOther cx p q j).getLsbD l = true) :
    cx.en.getLsbD l = true := by
  simp only [brcOther, BitVec.getLsbD_and, Bool.and_eq_true] at h
  exact h.1.1

/-! ### Targets (05 R91) -/

theorem target_inside {cx : Ctx} {t : Int} (h : 0 ≤ t) (h' : t < cx.wg.kernel.length) : target cx t = .ok t.toNat :=
  if_pos ⟨h, h'⟩

theorem target_outside {cx : Ctx} {t : Int} (h : t < 0 ∨ cx.wg.kernel.length ≤ t) : target cx t = .error (illegalOperand cx) :=
  if_neg (by omega)

/-! ### What a BRC leaves of the gang -/

section
variable (cx : Ctx) (p : BitVec 3) (q : BitVec 1)

/-- The slices of the split that divide. -/
def brcDividing : List Nat := (slicesOf cx.sp.slices).filter (divides cx p q)

/-- The slices that move as a whole. -/
def brcWhole : List Nat := (slicesOf cx.sp.slices).filter (fun j => !divides cx p q j)

/-- Where a slice that moves as a whole goes: to the target when the condition holds in all of its lanes of E. -/
def brcGo (t j : Nat) : Nat := if brcOther cx p q j = 0 then t else cx.sp.pc + 1

/-- The split without the slices that divide, with all of its lanes. -/
def brcKept (clock : Nat) : Split :=
  { cx.sp with slices := sliceSet (brcWhole cx p q), lastIssue := cx.sp.stamped cx.g cx.plane clock }

/-- The splits of the slices that move as a whole; a path keeps its lanes. -/
def brcMoved (t clock : Nat) : List Split :=
  if brcWhole cx p q = [] then [] else
    match cx.sp.path with
    | some _ => transferSplits (brcKept cx p q clock) (brcGo cx p q t)
    | none => transferSplits { brcKept cx p q clock with lanes := cx.sp.lanes &&& lanesOfSlices (brcWhole cx p q) } (brcGo cx p q t)

/-- The splits that a BRC puts in the place of the split that issues it. -/
def brcParts (t clock : Nat) : List Split := brcMoved cx p q t clock ++ (brcDividing cx p q).flatMap (brcPaths cx p q t clock)

/-- The sibling that a path which divides leaves parked (01 R43). -/
def brcParked : Option Nat := if brcDividing cx p q ≠ [] ∧ cx.sp.path.isSome then sibling cx.g cx.sp else none

/-- The splits of the gang after a BRC. -/
def brcSplits (t clock : Nat) : List Split :=
  let all := cx.g.splits.take cx.split ++ brcParts cx p q t clock ++ cx.g.splits.drop (cx.split + 1)
  match brcParked cx p q with
  | some i => all.eraseIdx (shifted cx.split (brcParts cx p q t clock).length i)
  | none => all

/-- The entry that a slice which divides takes (01 R42). -/
def brcEntry (jn j : Nat) : DPEntry :=
  { join := jn, t := brcTaken cx p q j, f := brcOther cx p q j, outer := cx.sp.path,
    parked := (sibling cx.g cx.sp).bind (fun i => cx.g.splits[i]?) }

/-- The gang after a BRC to `t` with the join `jn`, with its SYNC bookkeeping. -/
def brcGang (t jn clock : Nat) (due : Bool) (k : Nat) : Gang :=
  { cx.g with splits := brcSplits cx p q t clock, dp := brcStacks cx p q jn (brcDividing cx p q),
              x := (cx.g.issued cx clock).x, lastIssue := clock, syncDue := due, sinceSync := k }

end

/-! ### The outcomes of a BRC -/

section
variable {s : State} {cx : Ctx} {p : BitVec 3} {q : BitVec 1} {f jo : BitVec 20}

/-- A check that passes goes on; one that fails is the outcome. -/
theorem bind_of_ok {α β : Type} {x : Except Stop α} {a : α} (h : x = .ok a) (f : α → Except Stop β) : (x >>= f) = f a := by
  rw [h]; rfl

theorem bind_of_error {α β : Type} {x : Except Stop α} {e : Stop} (h : x = .error e) (f : α → Except Stop β) : (x >>= f) = .error e := by
  rw [h]; rfl

theorem need_of_true {b : Bool} (e : Stop) (h : b = true) : need b e = .ok () := by rw [h]; rfl

theorem need_of_false {b : Bool} (e : Stop) (h : b = false) : need b e = .error e := by rw [h]; rfl

/-- Without a JOIN before it (01 R41). -/
theorem execBrc_no_join (h : s.ctx? = some cx) (hj : cx.pfx.bind (fun x => x.join) = none) :
    TakesTrap cx s (wordTrap cx .illegalInstruction) (execBrc p q f s) :=
  issue_trap h (by rw [hj]; rfl)

/-- A target or a join that is no offset ahead in the plane (05 R91, R102). -/
theorem execBrc_outside (h : s.ctx? = some cx) (hj : cx.pfx.bind (fun x => x.join) = some jo)
    (ho : relative cx f < 0 ∨ cx.wg.kernel.length ≤ relative cx f ∨ jo.toInt < 1 ∨ cx.wg.kernel.length ≤ relative cx jo) :
    TakesTrap cx s (wordTrap cx .illegalOperand) (execBrc p q f s) := by
  refine issue_trap h ?_
  rw [hj]
  refine (bind_of_ok rfl _).trans ?_
  by_cases hf : relative cx f < 0 ∨ cx.wg.kernel.length ≤ relative cx f
  · exact bind_of_error (target_outside hf) _
  · refine (bind_of_ok (target_inside (by omega) (by omega)) _).trans ?_
    by_cases hn : jo.toInt < 1
    · exact bind_of_error (need_of_false _ (decide_eq_false (by omega))) _
    · refine (bind_of_ok (need_of_true _ (decide_eq_true (by omega))) _).trans ?_
      exact bind_of_error (target_outside (by omega)) _

section
variable (h : s.ctx? = some cx) (hj : cx.pfx.bind (fun x => x.join) = some jo) (h0 : 0 ≤ relative cx f)
  (ht : relative cx f < cx.wg.kernel.length) (hn : 1 ≤ jo.toInt) (hjn : relative cx jo < cx.wg.kernel.length)
include h hj h0 ht hn hjn

/-- A slice that would divide has a full stack (01 R43). -/
theorem execBrc_full (hd : ∃ j ∈ brcDividing cx p q, 16 ≤ (SMap.get [] cx.g.dp j).length) :
    TakesTrap cx s (Trap.plain .divergeDepth) (execBrc p q f s) := by
  have full : (brcDividing cx p q).all (fun j => decide ((SMap.get [] cx.g.dp j).length < 16)) = false := by
    obtain ⟨j, hj, hf⟩ := hd
    exact List.all_eq_false.mpr ⟨j, hj, by simpa using hf⟩
  have hp : 0 ≤ relative cx jo := by unfold relative; omega
  refine issue_trap h ?_
  rw [hj]
  refine (bind_of_ok rfl _).trans ?_
  refine (bind_of_ok (target_inside h0 ht) _).trans ?_
  refine (bind_of_ok (need_of_true _ (decide_eq_true hn)) _).trans ?_
  refine (bind_of_ok (target_inside hp hjn) _).trans ?_
  exact bind_of_error (need_of_false _ full) _

/-- With every check passed the gang alone changes, beside the packets queued. -/
theorem execBrc_next (hd : ∀ j ∈ brcDividing cx p q, (SMap.get [] cx.g.dp j).length < 16) :
    ∃ tr due k, execBrc p q f s = .next { s.setGang cx.core cx.gang
      (brcGang cx p q (relative cx f).toNat (relative cx jo).toNat (cx.now s) due k) with traces := tr } := by
  have room : (brcDividing cx p q).all (fun j => decide ((SMap.get [] cx.g.dp j).length < 16)) = true :=
    List.all_eq_true.mpr (fun j hj => decide_eq_true (hd j hj))
  have hp : 0 ≤ relative cx jo := by unfold relative; omega
  obtain ⟨tr, due, k, hg, hset⟩ := emitBr_spec cx (condLanes cx p q) none s
  refine ⟨tr, due, k, issue_ok h ?_⟩
  rw [hj]
  refine (bind_of_ok rfl _).trans ?_
  refine (bind_of_ok (target_inside h0 ht) _).trans ?_
  refine (bind_of_ok (need_of_true _ (decide_eq_true hn)) _).trans ?_
  refine (bind_of_ok (target_inside hp hjn) _).trans ?_
  refine (bind_of_ok (need_of_true _ room) _).trans ?_
  refine congrArg Except.ok ((hset _).trans ?_)
  refine congrArg (fun g => ({ s.setGang cx.core cx.gang g with traces := tr } : State)) ?_
  rw [hg, ← State.ctx?_gang h]
  unfold brcGang brcSplits brcParked
  by_cases hc : brcDividing cx p q ≠ [] ∧ cx.sp.path.isSome
  · rw [if_pos hc]
    refine (if_pos hc).trans ?_
    cases sibling cx.g cx.sp with
    | none => rfl
    | some i => simp only [brcParts, List.length_append]; rfl
  · rw [if_neg hc]
    exact if_neg hc

end
end

/-! ### The splits after a BRC -/

section
variable {cx : Ctx} {p : BitVec 3} {q : BitVec 1} {t clock : Nat}

theorem mem_brcDividing {j : Nat} :
    j ∈ brcDividing cx p q ↔ j ∈ slicesOf cx.sp.slices ∧ brcTaken cx p q j ≠ 0 ∧ brcOther cx p q j ≠ 0 := by
  rw [brcDividing, List.mem_filter, divides_iff]

theorem mem_brcWhole {j : Nat} :
    j ∈ brcWhole cx p q ↔ j ∈ slicesOf cx.sp.slices ∧ (brcTaken cx p q j = 0 ∨ brcOther cx p q j = 0) := by
  rw [brcWhole, List.mem_filter, Bool.not_eq_true', ← Bool.not_eq_true, divides_iff]
  tauto

/-- The part that moves as a whole stays within the split. -/
theorem within_of_mem_brcMoved {a : Split} (h : a ∈ brcMoved cx p q t clock) : a.within cx.sp := by
  have slices : ∀ j < 8, (sliceSet (brcWhole cx p q)).getLsbD j = true → cx.sp.slices.getLsbD j = true := by
    intro j hj hb
    rw [getLsbD_sliceSet hj, decide_eq_true_eq, mem_brcWhole] at hb
    exact (mem_slicesOf.mp hb.1).2
  unfold brcMoved at h
  split at h
  · cases h
  · split at h
    · exact (within_of_mem_transferSplits h).trans ⟨slices, fun _ _ hb => hb⟩
    · refine (within_of_mem_transferSplits h).trans ⟨slices, fun l _ hb => ?_⟩
      rw [BitVec.getLsbD_and, Bool.and_eq_true] at hb
      exact hb.1

/-- A slice that does not divide goes to its offset on its path, where the split is undivided or a path of that slice alone. -/
theorem exists_mem_brcMoved {j : Nat} (hj : j ∈ brcWhole cx p q) (hp : cx.sp.path = none ∨ slicesOf cx.sp.slices = [j]) :
    ∃ a ∈ brcMoved cx p q t clock, a.slices.getLsbD j = true ∧ a.path = cx.sp.path ∧ a.pc = brcGo cx p q t j := by
  have hj8 : j < 8 := (mem_slicesOf.mp (mem_brcWhole.mp hj).1).1
  have hset : (sliceSet (brcWhole cx p q)).getLsbD j = true := by rw [getLsbD_sliceSet hj8, decide_eq_true hj]
  unfold brcMoved
  rw [if_neg (List.ne_nil_of_mem hj)]
  cases hc : cx.sp.path with
  | none =>
    exact exists_sent_of_path_none (sp := { brcKept cx p q clock with lanes := cx.sp.lanes &&& lanesOfSlices (brcWhole cx p q) })
      _ hc (mem_slicesOf.mpr ⟨hj8, hset⟩)
  | some n =>
    have one : slicesOf cx.sp.slices = [j] := hp.resolve_left (by simp [hc])
    have whole : brcWhole cx p q = [j] := by
      have hd : (!divides cx p q j) = true := (List.mem_filter.mp hj).2
      rw [brcWhole, one, List.filter_singleton, hd]; rfl
    have low : (slicesOf (sliceSet [j])).headD 0 = j :=
      (by decide : ∀ i < 8, (slicesOf (sliceSet [i])).headD 0 = i) j hj8
    dsimp only
    rw [transferSplits_path (sp := brcKept cx p q clock) _ hc]
    refine ⟨_, List.mem_singleton_self _, hset, hc, ?_⟩
    show brcGo cx p q t ((slicesOf (sliceSet (brcWhole cx p q))).headD 0) = _
    rw [whole, low]

/-- The two paths of a slice that divides (01 R42). -/
theorem mem_brcPaths {a : Split} {j : Nat} (h : a ∈ brcPaths cx p q t clock j) : a.slices = BitVec.ofNat 8 (2 ^ j) ∧
    ((a.path = some 0 ∧ a.lanes = brcTaken cx p q j ∧ a.pc = t) ∨ (a.path = some 1 ∧ a.lanes = brcOther cx p q j ∧ a.pc = cx.sp.pc + 1)) := by
  simp only [brcPaths, List.mem_cons, List.not_mem_nil, or_false] at h
  rcases h with rfl | rfl
  · exact ⟨sliceSet_singleton j, .inl ⟨rfl, rfl, rfl⟩⟩
  · exact ⟨sliceSet_singleton j, .inr ⟨rfl, rfl, rfl⟩⟩

/-- A path stays within the split that divides, where E does. -/
theorem within_of_mem_brcPaths (hen : ∀ l < 32, cx.en.getLsbD l = true → cx.sp.lanes.getLsbD l = true) {a : Split} {j : Nat}
    (hj : j ∈ slicesOf cx.sp.slices) (h : a ∈ brcPaths cx p q t clock j) : a.within cx.sp := by
  obtain ⟨hs, hl⟩ := mem_brcPaths h
  refine ⟨fun i hi hb => ?_, fun l hl' hb => hen l hl' ?_⟩
  · rw [hs, getLsbD_ofNat_two_pow j hi, decide_eq_true_eq] at hb
    exact hb ▸ (mem_slicesOf.mp hj).2
  · rcases hl with ⟨-, hl, -⟩ | ⟨-, hl, -⟩
    · exact brcTaken_en (hl ▸ hb)
    · exact brcOther_en (hl ▸ hb)

theorem within_of_mem_brcParts (hen : ∀ l < 32, cx.en.getLsbD l = true → cx.sp.lanes.getLsbD l = true) {a : Split}
    (h : a ∈ brcParts cx p q t clock) : a.within cx.sp := by
  rcases List.mem_append.mp h with h | h
  · exact within_of_mem_brcMoved h
  · obtain ⟨j, hj, h⟩ := List.mem_flatMap.mp h
    exact within_of_mem_brcPaths hen (mem_brcDividing.mp hj).1 h

theorem mem_brcParts_of_brcPaths {a : Split} {j : Nat} (hj : j ∈ brcDividing cx p q) (h : a ∈ brcPaths cx p q t clock j) :
    a ∈ brcParts cx p q t clock := List.mem_append_right _ (List.mem_flatMap.mpr ⟨j, hj, h⟩)

/-- The sibling of a path is another split of its slices. -/
theorem sibling_spec {g : Gang} {sp : Split} {i : Nat} (h : sibling g sp = some i) :
    sp.path ≠ none ∧ ∃ x, g.splits[i]? = some x ∧ x.slices = sp.slices ∧ x.path ≠ sp.path := by
  unfold sibling at h
  split at h
  · cases h
  · next n hn =>
    have hx := List.find?_some h
    split at hx
    · next x he =>
      simp only [Bool.and_eq_true, beq_iff_eq, bne_iff_ne] at hx
      exact ⟨by simp [hn], x, he, hx.1.1, by rw [hn]; exact hx.2⟩
    · cases hx

section
variable (hsp : cx.g.splits[cx.split]? = some cx.sp)
include hsp

theorem brcParked_spec {i : Nat} (h : brcParked cx p q = some i) : i ≠ cx.split ∧ cx.sp.path ≠ none ∧
    ∃ x, cx.g.splits[i]? = some x ∧ x.slices = cx.sp.slices := by
  unfold brcParked at h
  split at h
  · obtain ⟨hp, x, hx, hs, hne⟩ := sibling_spec h
    exact ⟨fun e => hne (by rw [e, hsp] at hx; cases hx; rfl), hp, x, hx, hs⟩
  · cases h

/-- The parts of the split that issued are splits of the gang. -/
theorem mem_brcSplits_of_part {a : Split} (ha : a ∈ brcParts cx p q t clock) : a ∈ brcSplits cx p q t clock := by
  unfold brcSplits
  cases hk : brcParked cx p q with
  | none => simp [ha]
  | some i =>
    obtain ⟨hi, -⟩ := brcParked_spec hsp hk
    have hlen : cx.split < cx.g.splits.length := (List.getElem?_eq_some_iff.mp hsp).1
    obtain ⟨m, hm, rfl⟩ := List.mem_iff_getElem.mp ha
    refine List.mem_eraseIdx_iff_getElem?.mpr ⟨cx.split + m, ?_, ?_⟩
    · unfold shifted; split <;> omega
    · rw [getElem?_splice_new _ hlen hm, List.getElem?_eq_getElem hm]

/-- Every other split stays, but a sibling that is parked. -/
theorem mem_brcSplits_of_other {a : Split} {i : Nat} (hi : i ≠ cx.split) (ha : cx.g.splits[i]? = some a)
    (hs : cx.sp.path = none ∨ a.slices ≠ cx.sp.slices) : a ∈ brcSplits cx p q t clock := by
  have hlen : cx.split < cx.g.splits.length := (List.getElem?_eq_some_iff.mp hsp).1
  have hold := getElem?_splice_old (brcParts cx p q t clock) hlen hi
  rw [ha] at hold
  unfold brcSplits
  cases hk : brcParked cx p q with
  | none => exact List.mem_of_getElem? hold
  | some k =>
    obtain ⟨hks, hp, x, hx, hxs⟩ := brcParked_spec hsp hk
    have hik : i ≠ k := by
      rintro rfl
      rw [ha] at hx; cases hx
      exact hs.elim hp (fun h => h hxs)
    refine List.mem_eraseIdx_iff_getElem?.mpr ⟨_, ?_, hold⟩
    unfold shifted; split <;> split <;> omega

end

/-- A split of the gang after a BRC is a part of the one that issued, or another that stood before. -/
theorem mem_brcSplits {a : Split} (h : a ∈ brcSplits cx p q t clock) :
    a ∈ brcParts cx p q t clock ∨ ∃ i, i ≠ cx.split ∧ cx.g.splits[i]? = some a := by
  unfold brcSplits at h
  cases hk : brcParked cx p q with
  | none => rw [hk] at h; exact mem_splice h
  | some i => rw [hk] at h; exact mem_splice (List.mem_of_mem_eraseIdx h)

end

/-! ### The stacks after a BRC -/

/-- A map in which each key of a list is written once, from its own value. -/
theorem SMap.get_foldl_set {α : Type} [DecidableEq α] (d : α) (e : Nat → α → α) {js : List Nat} (hn : js.Nodup) (m : SMap α) (k : Nat) :
    SMap.get d (js.foldl (fun m j => SMap.set d m j (e j (SMap.get d m j))) m) k = if k ∈ js then e k (SMap.get d m k) else SMap.get d m k := by
  induction js generalizing m with
  | nil => simp
  | cons j js ih =>
    obtain ⟨hj, hn⟩ := List.nodup_cons.mp hn
    rw [List.foldl_cons, ih hn, SMap.get_set]
    by_cases hk : k = j
    · subst hk; simp [hj]
    · simp [hk]

theorem nodup_slicesOf (m : BitVec 8) : (slicesOf m).Nodup := List.nodup_range.filter _

/-- The slices that divide take an entry; the other stacks stand (01 R42). -/
theorem get_brcStacks (cx : Ctx) (p : BitVec 3) (q : BitVec 1) (jn j : Nat) :
    SMap.get [] (brcStacks cx p q jn (brcDividing cx p q)) j =
      if j ∈ brcDividing cx p q then brcEntry cx p q jn j :: SMap.get [] cx.g.dp j else SMap.get [] cx.g.dp j :=
  SMap.get_foldl_set [] (fun j es => brcEntry cx p q jn j :: es) ((nodup_slicesOf _).filter _) cx.g.dp j

section
variable {cx : Ctx} {p : BitVec 3} {q : BitVec 1} (hsp : cx.g.splits[cx.split]? = some cx.sp) (t jn clock : Nat) {j : Nat}
include hsp

/-- A slice with lanes on both sides takes an entry and goes on as two paths (01 R42). -/
theorem brc_divided (hj : j ∈ brcDividing cx p q) :
    (∃ e : DPEntry, SMap.get [] (brcStacks cx p q jn (brcDividing cx p q)) j = e :: SMap.get [] cx.g.dp j ∧ e.join = jn ∧
      e.t = brcTaken cx p q j ∧ e.f = brcOther cx p q j ∧ e.outer = cx.sp.path) ∧
    (∃ a ∈ brcSplits cx p q t clock, a.slices = BitVec.ofNat 8 (2 ^ j) ∧ a.path = some 0 ∧ a.lanes = brcTaken cx p q j ∧ a.pc = t) ∧
    (∃ a ∈ brcSplits cx p q t clock, a.slices = BitVec.ofNat 8 (2 ^ j) ∧ a.path = some 1 ∧ a.lanes = brcOther cx p q j ∧ a.pc = cx.sp.pc + 1) := by
  have part := fun a (h : a ∈ brcPaths cx p q t clock j) => mem_brcSplits_of_part hsp (mem_brcParts_of_brcPaths hj h)
  refine ⟨⟨brcEntry cx p q jn j, (get_brcStacks cx p q jn j).trans (if_pos hj), rfl, rfl, rfl, rfl⟩,
    ⟨_, part _ List.mem_cons_self, sliceSet_singleton j, rfl, rfl, rfl⟩,
    ⟨_, part _ (List.mem_cons_of_mem _ List.mem_cons_self), sliceSet_singleton j, rfl, rfl, rfl⟩⟩

/-- A slice whose lanes agree keeps its stack and goes on as a whole (01 R41). -/
theorem brc_undivided (hj : j ∈ brcWhole cx p q) :
    SMap.get [] (brcStacks cx p q jn (brcDividing cx p q)) j = SMap.get [] cx.g.dp j ∧
    (cx.sp.path = none ∨ slicesOf cx.sp.slices = [j] → ∃ a ∈ brcSplits cx p q t clock, a.slices.getLsbD j = true ∧
      a.path = cx.sp.path ∧ a.pc = brcGo cx p q t j) := by
  refine ⟨(get_brcStacks cx p q jn j).trans (if_neg (fun hdiv => ?_)), fun hp => ?_⟩
  · obtain ⟨-, hT0, hF0⟩ := mem_brcDividing.mp hdiv
    exact (mem_brcWhole.mp hj).2.elim hT0 hF0
  · obtain ⟨a, ha, hs⟩ := exists_mem_brcMoved hj hp
    exact ⟨a, mem_brcSplits_of_part hsp (List.mem_append_left _ ha), hs⟩

end

end Sys2Proof.Machine

section
open Sys2Proof Sys2Proof.Machine

/-- Settles O9: the checks come in the order of the traps, and what is left divides slice by slice; a sibling that is parked is the only other split that goes. -/
theorem branchDivides : Obligations.BranchDivides := by
  unfold Obligations.BranchDivides
  refine ⟨fun s cx p q f h => ⟨execBrc_no_join h, fun jo hj => ⟨execBrc_outside h hj, fun h0 ht hn hjn => ?_⟩⟩, ?_⟩
  · rintro ⟨j, hjs, T, F, hT, hF, hT0, hF0, hfull⟩
    rw [brcLanes_true.mp hT] at hT0
    rw [brcLanes_false.mp hF] at hF0
    exact execBrc_full h hj h0 ht hn hjn ⟨j, mem_brcDividing.mpr ⟨hjs, hT0, hF0⟩, hfull⟩
  · intro s cx p q f jo t jn h hj ht htl hn hjn hjl hd
    have hsp := State.ctx?_split h
    have room : ∀ j ∈ brcDividing cx p q, (SMap.get [] cx.g.dp j).length < 16 := by
      intro j hdiv
      obtain ⟨hjs, hT0, hF0⟩ := mem_brcDividing.mp hdiv
      exact hd j hjs _ _ (brcLanes_true.mpr rfl) (brcLanes_false.mpr rfl) hT0 hF0
    have ht' : relative cx f = t := ht
    have hjn' : relative cx jo = jn := hjn
    obtain ⟨tr, due, k, hx⟩ := execBrc_next (f := f) h hj (by omega) (by omega) hn (by omega) room
    rw [ht', hjn', Int.toNat_natCast, Int.toNat_natCast] at hx
    refine ⟨_, _, _, _, due, k, tr, hx, ?_, latchesDrop_issued cx (cx.now s) cx.g, rfl, ?_, ?_, ?_, ?_⟩
    · exact (sameMemory_setGang s _ _ _).trans (SameMemory.of_fields rfl rfl rfl rfl (fun _ => rfl))
    · intro j hjs T F hT hF
      obtain rfl := brcLanes_true.mp hT
      obtain rfl := brcLanes_false.mp hF
      exact ⟨fun hT0 hF0 => brc_divided hsp t jn _ (mem_brcDividing.mpr ⟨hjs, hT0, hF0⟩),
        fun h0 => brc_undivided hsp t jn _ (mem_brcWhole.mpr ⟨hjs, h0⟩)⟩
    · exact fun a ha => (mem_brcSplits ha).imp_left (within_of_mem_brcParts (fun l hl => State.ctx?_en h hl))
    · exact fun i a hi ha hs => mem_brcSplits_of_other hsp hi ha hs
    · exact fun j hjs => (get_brcStacks cx p q jn j).trans (if_neg (fun hdiv => hjs (mem_brcDividing.mp hdiv).1))

end
end

section
namespace Sys2Proof.Machine

/-! ### Scalar operands and results (05 R89, R100, 07 R146) -/

/-- An issue that writes its gang and has nothing else to do. -/
theorem retires_retire_setGang (cx : Ctx) (s : State) (g : Gang) :
    Retires cx s g (.next (retire cx (s.setGang cx.core cx.gang g))) := by
  obtain ⟨g', e, hi⟩ := retire_spec cx (s.setGang cx.core cx.gang g)
  rw [State.setGang_setGang] at e
  rw [State.gangAt_setGang] at hi
  exact ⟨_, g', rfl, e ▸ sameMemory_setGang s _ _ _, e, hi⟩

section
variable {s : State} {cx : Ctx} {d : BitVec 6} {a b : BitVec 8} {x y : W64}

theorem scalarSource_of_scalarIn (hx : ScalarIn cx a x) : scalarSource cx a = .ok x := by
  unfold scalarSource
  rcases hx with ⟨ha, rfl⟩ | ⟨ha, ha', rfl⟩
  · exact if_pos ha
  · rw [if_neg (by omega), if_pos ha']

theorem scalarSourceB_of_scalarInB (hy : ScalarInB cx b y) : scalarSourceB cx b = .ok y := by
  unfold scalarSourceB
  rcases hy with ⟨hi, hb⟩ | ⟨hi, hb⟩
  · rw [hi]; exact if_pos hb
  · rw [hi]; exact scalarSource_of_scalarIn hb

/-- An issue that writes a scalar and retires. -/
theorem writesScalar_issue {f : Ctx → Except Stop State} {v : W64} (h : s.ctx? = some cx) (hf : f cx = .ok (putScalar cx d.toNat v s)) :
    WritesScalar cx s d v (issue s f) :=
  issue_ok h hf ▸ retires_retire_setGang cx s _

/-- A scalar instruction of two sources writes what its operation gives (07 R146). -/
theorem writesScalar_scalar2 (f : W64 → W64 → W64) (h : s.ctx? = some cx) (hx : ScalarIn cx a x) (hy : ScalarInB cx b y) :
    WritesScalar cx s d (f x y) (scalar2 d a b f s) :=
  writesScalar_issue h (by rw [scalarSourceB_of_scalarInB hy, scalarSource_of_scalarIn hx]; rfl)

end

/-! ### Division (07 R147) -/

/-- Division of the signed values truncates as `sdiv` does. -/
theorem ofInt_tdiv_toInt (x y : W64) : BitVec.ofInt 64 (x.toInt.tdiv y.toInt) = x.sdiv y :=
  BitVec.eq_of_toInt_eq (by rw [BitVec.toInt_sdiv, BitVec.toInt_ofInt])

theorem divide_signed (x y : W64) : divide false x y = if y = 0 then -1 else x.sdiv y := by
  unfold divide
  split
  · rfl
  · exact ofInt_tdiv_toInt x y

theorem divide_natural (x y : W64) : divide true x y = if y = 0 then BitVec.allOnes 64 else x / y := by
  unfold divide
  split
  · rfl
  · exact BitVec.eq_of_toNat_eq (Nat.mod_eq_of_lt (x / y).isLt)

theorem remainder_signed (x y : W64) : remainder false x y = if y = 0 then x else x - y * x.sdiv y := by
  unfold remainder
  split
  · rfl
  · show BitVec.ofInt 64 (x.toInt.tmod y.toInt) = _
    rw [Int.tmod_def, Int.sub_eq_add_neg, BitVec.ofInt_add, BitVec.ofInt_neg, BitVec.ofInt_mul, ofInt_tdiv_toInt, BitVec.ofInt_toInt, BitVec.ofInt_toInt,
      BitVec.sub_eq_add_neg]

theorem remainder_natural (x y : W64) : remainder true x y = if y = 0 then x else x % y := by
  unfold remainder
  split
  · rfl
  · exact BitVec.eq_of_toNat_eq (Nat.mod_eq_of_lt (x % y).isLt)

/-! ### Bit fields and halfwords (07 R148, R149) -/

/-- The bits that SBFE takes from A, of position `pos` and length `len`. -/
theorem toNat_extractLsb'_eq_bitsAt (x : W64) (pos len : Nat) : (x.extractLsb' pos len).toNat = bitsAt x.toNat pos len := by
  rw [BitVec.extractLsb'_toNat, Nat.shiftRight_eq_div_pow, bitsAt]

/-- The top bit of a field. -/
theorem msb_eq_decide_div {n : Nat} (f : BitVec n) : f.msb = decide (f.toNat / 2 ^ (n - 1) % 2 = 1) := by
  rw [BitVec.msb_eq_getLsbD_last, BitVec.getLsbD, Nat.testBit_eq_decide_div_mod_eq]

/-- SBFE extends the field by its sign or by zeros (07 R148). -/
theorem bitField_eq (signed : Bool) (x y : W64) :
    bitField signed x y =
      let f := x.extractLsb' (y.toNat % 64) (min (bitsAt y.toNat 8 7) 64)
      if signed then f.signExtend 64 else f.setWidth 64 := by
  unfold bitField
  dsimp only
  generalize min (bitsAt y.toNat 8 7) 64 = len
  rw [← toNat_extractLsb'_eq_bitsAt]
  generalize x.extractLsb' (y.toNat % 64) len = f
  have zeros : BitVec.ofNat 64 f.toNat = f.setWidth 64 := BitVec.ofNat_toNat _ f
  cases hm : f.msb with
  | false =>
    have low : ¬(signed = true ∧ len ≠ 0 ∧ f.toNat / 2 ^ (len - 1) % 2 = 1) := fun ⟨_, _, ht⟩ => by
      rw [msb_eq_decide_div, decide_eq_true ht] at hm; cases hm
    rw [if_neg low, zeros, BitVec.signExtend_eq_setWidth_of_msb_false hm, ite_self]
  | true =>
    have hn : len ≠ 0 := by rintro rfl; rw [BitVec.eq_nil f] at hm; cases hm
    have top : f.toNat / 2 ^ (len - 1) % 2 = 1 := of_decide_eq_true (msb_eq_decide_div f ▸ hm)
    cases signed
    · exact (if_neg (fun c => Bool.noConfusion c.1)).trans zeros
    · rw [if_pos ⟨rfl, hn, top⟩, if_pos rfl, BitVec.signExtend, BitVec.toInt_eq_msb_cond, if_pos hm]
      push_cast; rfl

/-- A bit of what SBFE gives: of the field, or above it its top bit where it is extended by its sign. -/
theorem getLsbD_bitField (signed : Bool) (x y : W64) {i : Nat} (hi : i < 64) :
    (bitField signed x y).getLsbD i =
      let len := min (bitsAt y.toNat 8 7) 64
      if i < len then x.getLsbD (y.toNat % 64 + i)
      else signed && decide (0 < len) && x.getLsbD (y.toNat % 64 + (len - 1)) := by
  rw [bitField_eq]
  dsimp only
  generalize min (bitsAt y.toNat 8 7) 64 = len
  cases signed with
  | false =>
    by_cases hl : i < len <;> simp [hi, hl]
  | true =>
    rw [if_pos rfl, BitVec.getLsbD_signExtend, BitVec.msb_eq_getLsbD_last]
    by_cases hl : i < len <;> simp [hi, hl]

/-- A bit of a scalar in which halfword `h` is replaced (07 R149). -/
theorem getLsbD_replaceHalf (x : W64) (i : BitVec 16) (h : BitVec 2) {k : Nat} (hk : k < 64) :
    ((x &&& ~~~(0xFFFF#64 <<< (16 * h.toNat))) ||| (i.zeroExtend 64 <<< (16 * h.toNat))).getLsbD k =
      if 16 * h.toNat ≤ k ∧ k < 16 * h.toNat + 16 then i.getLsbD (k - 16 * h.toNat) else x.getLsbD k := by
  have ones : ∀ m : Nat, (0xFFFF#64).getLsbD m = decide (m < 16) := fun m => Nat.testBit_two_pow_sub_one 16 m
  simp only [BitVec.getLsbD_or, BitVec.getLsbD_and, BitVec.getLsbD_not, BitVec.getLsbD_shiftLeft, BitVec.getLsbD_setWidth, ones, hk, decide_true, Bool.true_and]
  split
  · next hin => simp [show ¬k < 16 * h.toNat by omega, show k - 16 * h.toNat < 16 by omega, show k - 16 * h.toNat < 64 by omega]
  · next hout =>
    by_cases hlo : k < 16 * h.toNat
    · simp [hlo]
    · simp [hlo, show ¬k - 16 * h.toNat < 16 by omega, BitVec.getLsbD_of_ge i (k - 16 * h.toNat) (by omega)]

/-- SMOVI replaces a halfword of the scalar (07 R149). -/
theorem writesScalar_smovi {s : State} {cx : Ctx} {d : BitVec 6} {h : BitVec 2} {i : BitVec 16} (hcx : s.ctx? = some cx) :
    WritesScalar cx s d ((cx.g.sreg d.toNat &&& ~~~(0xFFFF#64 <<< (16 * h.toNat))) ||| (i.zeroExtend 64 <<< (16 * h.toNat)))
      (execSmovi d h i s) :=
  writesScalar_issue hcx rfl

end Sys2Proof.Machine

section
open Sys2Proof Sys2Proof.Machine

/-- Settles O3: the four operations of the model are the four of the statement, and a scalar instruction writes what its operation gives. -/
theorem scalarDivide : Obligations.ScalarDivide := by
  unfold Obligations.ScalarDivide
  intro s cx d a b x y h hx hy
  rw [← divide_signed, ← divide_natural, ← remainder_signed, ← remainder_natural]
  exact ⟨writesScalar_scalar2 _ h hx hy, writesScalar_scalar2 _ h hx hy, writesScalar_scalar2 _ h hx hy, writesScalar_scalar2 _ h hx hy⟩

/-- Settles O4: the value is what the model's operation gives, whose bits are those of the field, or of the halfword and the rest of the register. -/
theorem scalarFields : Obligations.ScalarFields := by
  unfold Obligations.ScalarFields
  refine ⟨fun s cx m d a b x y h hx hy => ?_, fun s cx d h i hcx => ?_⟩
  · exact ⟨bitField (m == 1) x y, fun i hi => getLsbD_bitField (m == 1) x y hi, writesScalar_scalar2 _ h hx hy⟩
  · exact ⟨_, fun k hk => getLsbD_replaceHalf (cx.g.sreg d.toNat) i h hk, writesScalar_smovi hcx⟩
end
end

section
namespace Sys2Proof.Machine

/-! ### Predicates (07 R144, R145) -/

theorem mem_lanesOf {m : W32} {l : Nat} : l ∈ lanesOf m ↔ l < 32 ∧ m.getLsbD l = true := by
  simp [lanesOf]

section
variable {s : State} {cx : Ctx} {d : BitVec 7} {a b : BitVec 8}

theorem predField_of_lt {n : Nat} {x : BitVec n} (hx : x.toNat < 8) : predField cx x = .ok x.toNat := if_pos hx

theorem scalarField_of_lt {n : Nat} {x : BitVec n} (hx : x.toNat < 64) : scalarField cx x = .ok x.toNat := if_pos hx

/-- An issue that writes a predicate and retires. -/
theorem writesPred_issue {f : Ctx → Except Stop State} {n : Nat} {v : W32} (h : s.ctx? = some cx) (hf : f cx = .ok (putPred cx n v s)) :
    WritesPred cx s n v (issue s f) :=
  issue_ok h hf ▸ retires_retire_setGang cx s _

/-- A predicate instruction of two predicates writes what its operation gives. -/
theorem writesPred_pred2 (f : W32 → W32 → W32) (h : s.ctx? = some cx) (hd : d.toNat < 8) (ha : a.toNat < 8) (hb : b.toNat < 8) :
    WritesPred cx s d.toNat (f (cx.g.preg a.toNat) (cx.g.preg b.toNat)) (pred2 d a b f s) :=
  writesPred_issue h (by rw [predField_of_lt hd, predField_of_lt ha, predField_of_lt hb]; rfl)

/-- A predicate instruction of one predicate writes what its operation gives for the lanes of E. -/
theorem writesPred_pred1 (f : W32 → W32 → W32) (h : s.ctx? = some cx) (hd : d.toNat < 8) (ha : a.toNat < 8) :
    WritesPred cx s d.toNat (f cx.en (cx.g.preg a.toNat)) (pred1 d a f s) :=
  writesPred_issue h (by rw [predField_of_lt hd, predField_of_lt ha]; rfl)

/-- PANY writes ones where no test for zero succeeds (07 R145). -/
theorem writesPred_pany (h : s.ctx? = some cx) (hd : d.toNat < 8) (ha : a.toNat < 8) :
    WritesPred cx s d.toNat (if cx.g.preg a.toNat &&& cx.en = 0 then 0 else BitVec.allOnes 32) (execPany d a s) := by
  rw [← ite_not]
  exact writesPred_pred1 (fun e x => if x &&& e ≠ 0 then BitVec.allOnes 32 else 0) h hd ha

/-! ### PTOS -/

/-- The scalar that PTOS writes: the lanes of E from the predicate, the other bits from the register. -/
theorem getLsbD_lanesInto (x : W64) (e p : W32) {k : Nat} (hk : k < 64) :
    ((x &&& ~~~(e.zeroExtend 64)) ||| (p.zeroExtend 64 &&& e.zeroExtend 64)).getLsbD k =
      if e.getLsbD k then p.getLsbD k else x.getLsbD k := by
  simp only [BitVec.getLsbD_or, BitVec.getLsbD_and, BitVec.getLsbD_not, BitVec.getLsbD_setWidth, hk, decide_true, Bool.true_and]
  cases e.getLsbD k <;> simp

theorem retires_ptos (h : s.ctx? = some cx) (hd : d.toNat < 64) (hb : b.toNat < 8) :
    Retires cx s (cx.g.setS d.toNat
      ((cx.g.sreg d.toNat &&& ~~~(cx.en.zeroExtend 64)) ||| ((cx.g.preg b.toNat).zeroExtend 64 &&& cx.en.zeroExtend 64)))
      (execPtos d b s) := by
  have run : execPtos d b s = .next (putScalar cx d.toNat _ s) :=
    issue_ok h (by rw [scalarField_of_lt hd, predField_of_lt hb]; rfl)
  exact run ▸ retires_retire_setGang cx s _

/-! ### PSET -/

theorem getLsbD_nonzeroLanes (cx : Ctx) (r : Nat) {l : Nat} (hl : l ∈ cx.ls) :
    (nonzeroLanes cx.g r cx.ls).getLsbD l = decide ((cx.g.cell r l).bits ≠ 0) := by
  rw [nonzeroLanes, getLsbD_maskOf (mem_lanesOf.mp hl).1, decide_eq_decide, List.mem_filter, bne_iff_ne]
  exact and_iff_right hl

theorem regBlock_of_granted {r : Nat} (hr : r < 64 ∨ cx.g.ext ≠ none) : regBlock cx r = .ok () :=
  if_neg (fun ⟨h64, hn⟩ => hr.elim (by omega) (fun he => he hn))

theorem parity_of_good {r : Nat} (hr : ∀ l ∈ cx.ls, (cx.g.cell r l).bad = false) : parity cx r = .ok () := by
  have none : cx.ls.find? (fun l => (cx.g.cell r l).bad) = none :=
    List.find?_eq_none.mpr (fun l hl => by simp [hr l hl])
  rw [parity, none]

section
variable (h : s.ctx? = some cx)
include h

/-- With an immediate, which takes the place of the field (05 R100). -/
theorem execPset_imm {i : W64} (hi : cx.imm = some i) (hb : b = 0) (hd : d.toNat < 8) :
    WritesPred cx s d.toNat (i.truncate 32) (execPset d b s) :=
  writesPred_issue h (by rw [hi]; dsimp only; rw [if_pos hb, predField_of_lt hd]; rfl)

section
variable (hi : cx.imm = none)
include hi

/-- From a vector register: the lanes in which it is not zero. -/
theorem execPset_vector (hd : d.toNat < 8) (hb : b.toNat < 128) (hr : b.toNat < 64 ∨ cx.g.ext ≠ none)
    (hg : ∀ l ∈ cx.ls, (cx.g.cell b.toNat l).bad = false) :
    WritesPred cx s d.toNat (nonzeroLanes cx.g b.toNat cx.ls) (execPset d b s) :=
  writesPred_issue h (by rw [hi]; dsimp only; rw [if_pos hb, predField_of_lt hd, regBlock_of_granted hr, parity_of_good hg]; rfl)

/-- A special operand is none that PSET reads. -/
theorem execPset_special (hb : 128 ≤ b.toNat) (hb' : b.toNat < 144) : TakesTrap cx s (wordTrap cx .illegalOperand) (execPset d b s) :=
  issue_trap h (by rw [hi]; dsimp only; rw [if_neg (by omega), if_pos hb']; rfl)

/-- From an inline integer. -/
theorem execPset_inline (hd : d.toNat < 8) (hb : 144 ≤ b.toNat) (hb' : b.toNat < 192) :
    WritesPred cx s d.toNat (BitVec.ofNat 32 (b.toNat - 144)) (execPset d b s) :=
  writesPred_issue h (by rw [hi]; dsimp only; rw [if_neg (by omega), if_neg (by omega), if_pos hb', predField_of_lt hd]; rfl)

/-- From a scalar register. -/
theorem execPset_scalar (hd : d.toNat < 8) (hb : 192 ≤ b.toNat) :
    WritesPred cx s d.toNat ((cx.g.sreg (b.toNat - 192)).truncate 32) (execPset d b s) :=
  writesPred_issue h (by rw [hi]; dsimp only; rw [if_neg (by omega), if_neg (by omega), if_neg (by omega), predField_of_lt hd]; rfl)

end
end
end

end Sys2Proof.Machine

section
open Sys2Proof Sys2Proof.Machine

/-- Settles O5: an issue whose checks pass writes p[D], or s[D] for PTOS; PSET goes by the kind of its source. -/
theorem predicateResults : Obligations.PredicateResults := by
  unfold Obligations.PredicateResults
  refine ⟨fun s cx d a b h hd ha => ⟨fun hb => ?_, ?_, ?_, ?_⟩, fun s cx d b h => ⟨fun hd hb => ?_, fun hd => ⟨?_, fun hi => ⟨?_, ?_, ?_, ?_⟩⟩⟩⟩
  · exact ⟨writesPred_pred2 (· &&& ·) h hd ha hb, writesPred_pred2 (· ||| ·) h hd ha hb, writesPred_pred2 (· ^^^ ·) h hd ha hb⟩
  · exact writesPred_pred1 (fun _ x => ~~~x) h hd ha
  · exact writesPred_pany h hd ha
  · exact writesPred_pred1 (fun e x => if x &&& e = e then BitVec.allOnes 32 else 0) h hd ha
  · exact ⟨_, fun k hk => getLsbD_lanesInto _ _ _ hk, retires_ptos h hd hb⟩
  · exact fun i hi hb => execPset_imm h hi hb hd
  · exact fun hb hr hg => ⟨_, fun l hl => getLsbD_nonzeroLanes cx b.toNat hl, execPset_vector h hi hd hb hr hg⟩
  · exact execPset_special h hi
  · exact execPset_inline h hi hd
  · exact execPset_scalar h hi hd

end
end

section
namespace Sys2Proof.Machine

/-! ### Which slices take a transfer (07 R128) -/

section
variable {cx : Ctx} {p : BitVec 3} {q : BitVec 1}

/-- A mask that is not zero holds a lane. -/
theorem ne_zero_iff_exists_lane {m : W32} : m ≠ 0 ↔ ∃ l < 32, m.getLsbD l = true := by
  refine ⟨fun hm => ?_, fun ⟨l, _, hb⟩ h0 => by simp [h0] at hb⟩
  by_contra hn
  push Not at hn
  exact hm (BitVec.eq_of_getLsbD_eq (fun l hl => by simpa using hn l hl))

/-- The lanes of E for which the condition holds. -/
theorem getLsbD_condLanes_iff {l : Nat} (hl : l < 32) :
    (condLanes cx p q).getLsbD l = true ↔ l ∈ cx.ls ∧ ((cx.g.preg p.toNat).getLsbD l != (q == 1)) = true := by
  rw [getLsbD_condLanes cx p q hl, Bool.and_eq_true, Ctx.ls, mem_lanesOf]
  exact and_congr_left' (and_iff_right hl).symm

theorem takes_iff {j : Nat} : takes cx p q j = true ↔ Takes cx p q j := by
  rw [takes, bne_iff_ne, ne_zero_iff_exists_lane]
  constructor
  · rintro ⟨l, hl, hb⟩
    rw [BitVec.getLsbD_and, Bool.and_eq_true, getLsbD_condLanes_iff hl, getLsbD_sliceMask hl, decide_eq_true_eq] at hb
    exact ⟨l, hb.1.1, hb.2, hb.1.2⟩
  · rintro ⟨l, hls, hj, hc⟩
    have hl := (mem_lanesOf.mp hls).1
    refine ⟨l, hl, ?_⟩
    rw [BitVec.getLsbD_and, Bool.and_eq_true, getLsbD_condLanes_iff hl, getLsbD_sliceMask hl, decide_eq_true_eq]
    exact ⟨⟨hls, hc⟩, hj⟩

theorem someTakes_iff : someTakes cx p q = true ↔ SomeTakes cx p q := by
  rw [someTakes, bne_iff_ne, ne_zero_iff_exists_lane]
  constructor
  · rintro ⟨l, hl, hb⟩
    obtain ⟨hls, hc⟩ := (getLsbD_condLanes_iff hl).mp hb
    exact ⟨l / 4, l, hls, rfl, hc⟩
  · rintro ⟨j, l, hls, -, hc⟩
    have hl := (mem_lanesOf.mp hls).1
    exact ⟨l, hl, (getLsbD_condLanes_iff hl).mpr ⟨hls, hc⟩⟩

/-- Where a slice goes: to the target when it takes the transfer. -/
theorem branch_takes (t j : Nat) : Branch cx p q t j (if takes cx p q j then t else cx.sp.pc + 1) :=
  ⟨fun h => if_pos (takes_iff.mpr h), fun h => if_neg (fun c => h (takes_iff.mp c))⟩

end

/-! ### What a transfer sends on -/

theorem getLsbD_lanesOfSlices {js : List Nat} {l : Nat} (hl : l < 32) : (lanesOfSlices js).getLsbD l = decide (l / 4 ∈ js) := by
  rw [lanesOfSlices, getLsbD_foldl_or, BitVec.ofNat_eq_ofNat, BitVec.getLsbD_zero, Bool.false_or, List.any_eq]
  simp only [getLsbD_sliceMask hl, decide_eq_true_eq, exists_eq_right']

section
variable {sp : Split} {tgt : Nat → Nat}

/-- The part of an undivided split that goes to the offset `k`. -/
def Split.partTo (sp : Split) (tgt : Nat → Nat) (k : Nat) : Split :=
  let js := (slicesOf sp.slices).filter (fun j => tgt j == k)
  sp.sent (sliceSet js) (sp.lanes &&& lanesOfSlices js) k

theorem transferSplits_undivided (hp : sp.path = none) :
    transferSplits sp tgt = (distinct ((slicesOf sp.slices).map tgt)).map (sp.partTo tgt) := by
  simp only [transferSplits, hp]; rfl

/-- Every part starts at its offset with nothing pending, on the path of the split. -/
theorem fresh_of_mem_transferSplits {a : Split} (h : a ∈ transferSplits sp tgt) :
    a.wait = .none ∧ a.nextPlane = 0 ∧ a.path = sp.path ∧ a.pfx = [] ∧ a.chain = [] ∧ a.skip = [] ∧ a.within sp := by
  have hw := within_of_mem_transferSplits h
  cases hp : sp.path with
  | none =>
    rw [transferSplits_undivided hp] at h
    obtain ⟨k, -, rfl⟩ := List.mem_map.mp h
    exact ⟨rfl, rfl, hp, rfl, rfl, rfl, hw⟩
  | some n =>
    rw [transferSplits_path tgt hp, List.mem_singleton] at h
    subst h
    exact ⟨rfl, rfl, hp, rfl, rfl, rfl, hw⟩

/-- A slice of an undivided split goes to its offset with its lanes. -/
theorem exists_part_of_slice (hp : sp.path = none) {j : Nat} (hj : j ∈ slicesOf sp.slices) :
    ∃ a ∈ transferSplits sp tgt, a.slices.getLsbD j = true ∧ a.pc = tgt j ∧
      ∀ l < 32, l / 4 = j → a.lanes.getLsbD l = sp.lanes.getLsbD l := by
  have hjs : j ∈ (slicesOf sp.slices).filter (fun i => tgt i == tgt j) := List.mem_filter.mpr ⟨hj, beq_self_eq_true _⟩
  rw [transferSplits_undivided hp]
  refine ⟨_, List.mem_map_of_mem (mem_distinct.mpr (List.mem_map_of_mem hj)), ?_, rfl, fun l hl hlj => ?_⟩
  · exact (getLsbD_sliceSet (mem_slicesOf.mp hj).1).trans (decide_eq_true hjs)
  · show (sp.lanes &&& lanesOfSlices _).getLsbD l = _
    rw [BitVec.getLsbD_and, getLsbD_lanesOfSlices hl, hlj, decide_eq_true hjs, Bool.and_true]

/-- The slices of an undivided split that go to one offset form one group (01 R16). -/
theorem part_unique (hp : sp.path = none) {a b : Split} (ha : a ∈ transferSplits sp tgt) (hb : b ∈ transferSplits sp tgt)
    (h : a.pc = b.pc) : a = b := by
  rw [transferSplits_undivided hp] at ha hb
  obtain ⟨k, -, rfl⟩ := List.mem_map.mp ha
  obtain ⟨m, -, rfl⟩ := List.mem_map.mp hb
  exact congrArg (sp.partTo tgt) h

end

/-! ### A transfer -/

section
variable {s s₀ : State} {cx : Ctx} {g : Gang} {p : BitVec 3} {q : BitVec 1}

/-- States that agree once a gang is written, but for the packets queued, have one clock. -/
theorem clockAt_of_setGang_eq {s₁ : State} {c n : Nat} {x : Gang} {tr : SMap TraceBuf}
    (h : s₁.setGang c n x = { s.setGang c n x with traces := tr }) (k : Nat) : s₁.clockAt k = s.clockAt k := by
  have hc : s₁.clock = s.clock := (State.setGang_clock s₁ c n x).symm.trans ((congrArg State.clock h).trans (State.setGang_clock s c n x))
  rw [State.clockAt, State.clockAt, hc]

/-- The issuing split with the clock of the issue (21 R329). -/
def Ctx.stampedSplit (cx : Ctx) (clock : Nat) : Split := { cx.sp with lastIssue := cx.sp.stamped cx.g cx.plane clock }

section
variable (tgt : Nat → Nat) (taken : W32) (ind : Option Nat) (hs : g.splits = cx.g.splits) (hg : s₀.gangAt cx.core cx.gang = g)
  (hw : ∀ x, s₀.setGang cx.core cx.gang x = s.setGang cx.core cx.gang x)
include hs hg hw

/-- What a transfer after a BR packet leaves: `s₀` is `s`, or `s` with the gang already written. -/
theorem transfer_spec : ∃ tr due k, transfer cx tgt (cx.emitBr taken ind s₀) =
    { s.setGang cx.core cx.gang
        { g with splits := cx.g.splits.take cx.split ++ transferSplits (cx.stampedSplit (cx.now s)) tgt ++ cx.g.splits.drop (cx.split + 1),
                 x := (g.issued cx (cx.now s)).x, lastIssue := cx.now s, syncDue := due, sinceSync := k } with traces := tr } := by
  obtain ⟨tr, due, k, hge, hset⟩ := emitBr_spec cx taken ind s₀
  have hclock : (cx.emitBr taken ind s₀).clockAt cx.core = s.clockAt cx.core :=
    (clockAt_of_setGang_eq (hset g) _).trans (clockAt_of_setGang_eq (tr := s.traces) (hw g) _)
  refine ⟨tr, due, k, ?_⟩
  unfold transfer
  rw [hset, hw, hge, hg, hclock, ← hs]
  rfl

/-- Each slice goes where `tgt` sends it, and the issuing gang alone changes. -/
theorem transfers_transfer {go : Nat → Nat → Prop} (hgo : ∀ j, go j (tgt j)) :
    Transfers cx s g go (.next (transfer cx tgt (cx.emitBr taken ind s₀))) := by
  obtain ⟨tr, due, k, ht⟩ := transfer_spec tgt taken ind hs hg hw
  refine ⟨_, _, _, due, k, tr, congrArg _ ht, ?_, latchesDrop_issued cx (cx.now s) g, rfl,
    fun a ha => fresh_of_mem_transferSplits (sp := cx.stampedSplit (cx.now s)) ha, fun hp => ⟨fun j hj => ?_, ?_⟩, fun hp => ?_⟩
  · exact (sameMemory_setGang s _ _ _).trans (SameMemory.of_fields rfl rfl rfl rfl (fun _ => rfl))
  · obtain ⟨a, ha, hj', hpc, hl⟩ := exists_part_of_slice (sp := cx.stampedSplit (cx.now s)) (tgt := tgt) hp hj
    exact ⟨a, ha, hj', hpc ▸ hgo j, hl⟩
  · exact fun a ha b hb e => part_unique (sp := cx.stampedSplit (cx.now s)) hp ha hb e
  · obtain ⟨n, hn⟩ := Option.ne_none_iff_exists'.mp hp
    exact ⟨_, transferSplits_path (sp := cx.stampedSplit (cx.now s)) tgt hn, rfl, rfl, hgo _⟩

end

/-- A predicated transfer sends each slice to the target or on (07 R128). -/
theorem transfers_branchTo (t : Nat) (ind : Option Nat) (hs : g.splits = cx.g.splits) (hg : s₀.gangAt cx.core cx.gang = g)
    (hw : ∀ x, s₀.setGang cx.core cx.gang x = s.setGang cx.core cx.gang x) :
    Transfers cx s g (Branch cx p q t) (.next (branchTo cx p q t ind s₀)) :=
  transfers_transfer _ _ ind hs hg hw (branch_takes t)

/-- The same where the gang has not been written. -/
theorem transfers_branchTo_self (h : s.ctx? = some cx) (t : Nat) (ind : Option Nat) :
    Transfers cx s cx.g (Branch cx p q t) (.next (branchTo cx p q t ind s)) :=
  transfers_branchTo t ind rfl (State.ctx?_gang h).symm (fun _ => rfl)

/-- The same after the gang has been written. -/
theorem transfers_branchTo_written (hs : g.splits = cx.g.splits) (t : Nat) (ind : Option Nat) :
    Transfers cx s g (Branch cx p q t) (.next (branchTo cx p q t ind (s.setGang cx.core cx.gang g))) :=
  transfers_branchTo t ind hs (State.gangAt_setGang ..) (fun _ => State.setGang_setGang ..)

end

/-! ### BRA, CALL, RET, JMPI (07 R128, R131 to R133) -/

theorem target_relative {cx : Ctx} {f : BitVec 20} {t : Nat} (ht : relative cx f = t) (htl : t < cx.wg.kernel.length) :
    target cx (relative cx f) = .ok t := by
  rw [target_inside (by omega) (by omega), ht, Int.toNat_natCast]

section
variable {s : State} {cx : Ctx} {p : BitVec 3} {q : BitVec 1}

/-- A check that holds of every transfer that a slice takes passes. -/
theorem need_takes {c : Bool} (hc : SomeTakes cx p q → c = true) : need (!someTakes cx p q || c) (illegalOperand cx) = .ok () := by
  cases ht : someTakes cx p q with
  | false => rfl
  | true => rw [hc (someTakes_iff.mp ht)]; rfl

/-- A check that fails of a transfer that a slice takes stops it. -/
theorem need_takes_fails {c : Bool} (ht : SomeTakes cx p q) (hc : c = false) :
    need (!someTakes cx p q || c) (illegalOperand cx) = .error (illegalOperand cx) := by
  rw [someTakes_iff.mpr ht, hc]; rfl

section
variable (h : s.ctx? = some cx)
include h

section
variable {f : BitVec 20}

/-- A target outside the plane traps whether a slice takes the transfer or not (05 R91). -/
theorem execBra_outside (ho : relative cx f < 0 ∨ cx.wg.kernel.length ≤ relative cx f) :
    TakesTrap cx s (wordTrap cx .illegalOperand) (execBra p q f s) :=
  issue_trap h (bind_of_error (target_outside ho) _)

theorem execCall_outside (ho : relative cx f < 0 ∨ cx.wg.kernel.length ≤ relative cx f) :
    TakesTrap cx s (wordTrap cx .illegalOperand) (execCall p q f s) :=
  issue_trap h (bind_of_error (target_outside ho) _)

section
variable {t : Nat} (ht : relative cx f = t) (htl : t < cx.wg.kernel.length)
include ht htl

theorem execBra_inside : Transfers cx s cx.g (Branch cx p q t) (execBra p q f s) := by
  have run : execBra p q f s = .next (branchTo cx p q t none s) := issue_ok h (bind_of_ok (target_relative ht htl) _)
  exact run ▸ transfers_branchTo_self h t none

/-- CALL leaves the next offset in s63 where a slice takes it (07 R131). -/
theorem execCall_inside :
    Transfers cx s (if someTakes cx p q then cx.g.setS 63 (BitVec.ofNat 64 ((cx.sp.pc + 1) % 2 ^ 20)) else cx.g)
      (Branch cx p q t) (execCall p q f s) := by
  have run : execCall p q f s = .next (branchTo cx p q t none (s.setGang cx.core cx.gang _)) :=
    issue_ok h (bind_of_ok (target_relative ht htl) _)
  refine run ▸ transfers_branchTo_written ?_ t none
  split
  · exact Gang.setS_splits ..
  · rfl

end
end

theorem execRet_outside {r : BitVec 6} (ht : SomeTakes cx p q) (ho : cx.wg.kernel.length ≤ (cx.g.sreg r.toNat).toNat) :
    TakesTrap cx s (wordTrap cx .illegalOperand) (execRet p q r s) :=
  issue_trap h (bind_of_error (need_takes_fails ht (decide_eq_false (by omega))) _)

theorem execRet_inside {r : BitVec 6} (ht : SomeTakes cx p q → (cx.g.sreg r.toNat).toNat < cx.wg.kernel.length) :
    Transfers cx s cx.g (Branch cx p q (cx.g.sreg r.toNat).toNat) (execRet p q r s) := by
  have run : execRet p q r s = .next (branchTo cx p q (cx.g.sreg r.toNat).toNat (some _) s) :=
    issue_ok h (bind_of_ok (need_takes (fun c => decide_eq_true (ht c))) _)
  exact run ▸ transfers_branchTo_self h _ _

section
variable {b : BitVec 14} {n : BitVec 6} {t : Int} (ht : t = (BitVec.ofInt 64 (relative cx b) + cx.g.sreg n.toNat).toInt)
include ht

theorem execJmpi_outside (hk : SomeTakes cx p q) (ho : t < 0 ∨ cx.wg.kernel.length ≤ t) :
    TakesTrap cx s (wordTrap cx .illegalOperand) (execJmpi p q b n s) := by
  subst ht
  exact issue_trap h (bind_of_error (need_takes_fails hk (decide_eq_false (by omega))) _)

theorem execJmpi_inside (hk : SomeTakes cx p q → 0 ≤ t ∧ t < cx.wg.kernel.length) :
    Transfers cx s cx.g (Branch cx p q t.toNat) (execJmpi p q b n s) := by
  subst ht
  have run : execJmpi p q b n s = .next (branchTo cx p q _ (some _) s) :=
    issue_ok h (bind_of_ok (need_takes (fun c => decide_eq_true (hk c))) _)
  exact run ▸ transfers_branchTo_self h _ _

end

end
end

/-! ### LOOP (07 R134) -/

/-- A slice goes back while the count that is left is not zero and the condition holds in it. -/
def LoopGo (cx : Ctx) (p : BitVec 3) (q : BitVec 1) (left : W64) (t j k : Nat) : Prop :=
  (left ≠ 0 ∧ Takes cx p q j → k = t) ∧ (¬(left ≠ 0 ∧ Takes cx p q j) → k = cx.sp.pc + 1)

section
variable {s : State} {cx : Ctx} {p : BitVec 3} {q : BitVec 1} (h : s.ctx? = some cx) {c : BitVec 6} {f : BitVec 14}
include h

/-- A count in s0, or a target outside the plane. -/
theorem execLoop_trap (hc : c = 0 ∨ relative cx f < 0 ∨ cx.wg.kernel.length ≤ relative cx f) :
    TakesTrap cx s (wordTrap cx .illegalOperand) (execLoop p q c f s) := by
  refine issue_trap h ?_
  by_cases h0 : c = 0
  · exact bind_of_error (need_of_false _ (by rw [h0]; rfl)) _
  · exact (bind_of_ok (need_of_true _ (bne_iff_ne.mpr h0)) _).trans (bind_of_error (target_outside (hc.resolve_left h0)) _)

theorem execLoop_inside (hc : c ≠ 0) (h0 : 0 ≤ relative cx f) (ht : relative cx f < cx.wg.kernel.length) :
    Transfers cx s (cx.g.setS c.toNat (cx.g.sreg c.toNat - 1)) (LoopGo cx p q (cx.g.sreg c.toNat - 1) (relative cx f).toNat)
      (execLoop p q c f s) := by
  generalize hn : cx.g.sreg c.toNat - 1 = n
  have run : execLoop p q c f s = .next (if n = 0 then
        transfer cx (fun _ => cx.sp.pc + 1) (cx.emitBr 0 none (s.setGang cx.core cx.gang (cx.g.setS c.toNat n)))
      else branchTo cx p q (relative cx f).toNat none (s.setGang cx.core cx.gang (cx.g.setS c.toNat n))) := by
    subst hn
    exact issue_ok h ((bind_of_ok (need_of_true _ (bne_iff_ne.mpr hc)) _).trans (bind_of_ok (target_inside h0 ht) _))
  have moves : ∀ tgt taken, (∀ j, LoopGo cx p q n (relative cx f).toNat j (tgt j)) →
      Transfers cx s (cx.g.setS c.toNat n) (LoopGo cx p q n (relative cx f).toNat)
        (.next (transfer cx tgt (cx.emitBr taken none (s.setGang cx.core cx.gang (cx.g.setS c.toNat n))))) :=
    fun tgt taken hgo => transfers_transfer tgt taken none (Gang.setS_splits ..) (State.gangAt_setGang ..) (fun _ => State.setGang_setGang ..) hgo
  rw [run]
  split
  · next hz => exact moves _ _ (fun j => ⟨fun hk => absurd hz hk.1, fun _ => rfl⟩)
  · next hz =>
    exact moves _ _ (fun j => ⟨fun hk => (branch_takes _ j).1 hk.2, fun hk => (branch_takes _ j).2 (fun k => hk ⟨hz, k⟩)⟩)

end

end Sys2Proof.Machine

section
open Sys2Proof Sys2Proof.Machine

/-- Settles O7: the target is checked, of a register only where a slice takes the transfer, and a transfer moves every slice by its own lanes. -/
theorem branches : Obligations.Branches := by
  unfold Obligations.Branches
  intro s cx p q h
  refine ⟨fun f ho => ?_, fun f t ht htl => ⟨?_, fun hk => ?_, fun hk => ?_⟩, fun r => ?_, fun r => ?_, fun b n t ht => ⟨?_, ?_⟩⟩
  · exact ⟨execBra_outside h ho, execCall_outside h ho⟩
  · exact execBra_inside h ht htl
  · have called := execCall_inside (p := p) (q := q) h ht htl
    rwa [if_pos (someTakes_iff.mpr hk)] at called
  · have called := execCall_inside (p := p) (q := q) h ht htl
    rwa [if_neg (fun c => hk (someTakes_iff.mp c))] at called
  · exact execRet_outside h
  · exact execRet_inside h
  · exact execJmpi_outside h ht
  · exact execJmpi_inside h ht

/-- Settles O8: the count is written once before the transfer, which goes on in every slice when it has come to zero. -/
theorem loopCountsDown : Obligations.LoopCountsDown := by
  unfold Obligations.LoopCountsDown
  intro s cx p q c f t h ht
  subst ht
  exact ⟨execLoop_trap h, execLoop_inside h⟩

end
end

section
namespace Sys2Proof.Machine

/-! ### Where a split goes after its word (01 R34) -/

theorem State.ctx?_lanes {s : State} {cx : Ctx} (h : s.ctx? = some cx) :
    cx.lanes = cx.plane.elim cx.sp.lanes (cx.g.inPlane cx.sp.lanes) := by
  unfold State.ctx? at h
  split at h
  · cases h
  · next c _ =>
    split at h
    · cases h
    · cases h
      cases hp : c.plane <;> simp [mkCtx, hp]

theorem getLsbD_inPlane {g : Gang} {m : W32} {n l : Nat} (hl : l < 32) :
    (g.inPlane m n).getLsbD l = (m.getLsbD l && decide (g.planeOf l = n)) := by
  rw [Gang.inPlane, getLsbD_maskOf hl]
  simp [mem_lanesOf, hl]

theorem mem_occupied {g : Gang} {m : W32} {n : Nat} :
    n ∈ g.occupied m ↔ n < 4 ∧ ∃ l < 32, m.getLsbD l = true ∧ g.planeOf l = n := by
  rw [Gang.occupied, List.mem_filter, List.mem_range, bne_iff_ne, ne_zero_iff_exists_lane]
  refine and_congr_right (fun _ => exists_congr (fun l => and_congr_right (fun hl => ?_)))
  rw [getLsbD_inPlane hl, Bool.and_eq_true, decide_eq_true_eq]

section
variable {sp : Split} {g : Gang}

/-- Outside every skip body no lane is disabled. -/
theorem Split.enabled_of_no_skip (hk : sp.skip = []) (k : Nat) : sp.lanes &&& ~~~(sp.disabled k) = sp.lanes := by
  have none : sp.disabled k = 0#32 := by rw [Split.disabled, hk]; rfl
  rw [none, BitVec.not_zero, BitVec.and_allOnes]

/-- Outside every skip body a split goes no further than the next offset. -/
theorem Split.settle_of_no_skip (hk : sp.skip = []) (n : Nat) : Split.settle g n sp = sp := by
  cases n with
  | zero => rfl
  | succ n =>
    rw [Split.settle, Split.enabled_of_no_skip hk]
    exact if_neg (fun ⟨hl, _, h0⟩ => hl h0)

/-- No plane is left to issue where every occupied one lies below. -/
theorem Split.issuePlane_eq_none (hk : sp.skip = []) (ho : ∀ m ∈ g.occupied sp.lanes, m < sp.nextPlane) : Split.issuePlane g sp = none := by
  rw [Split.issuePlane, Split.enabled_of_no_skip hk, List.find?_eq_none]
  intro m hm hc
  exact absurd (ho m hm) (Nat.not_lt.mpr (of_decide_eq_true hc).1)

/-- An occupied plane that is not below issues, unless a replay leaves it out. -/
theorem Split.issuePlane_isSome (hk : sp.skip = []) (hr : sp.replay = none) {m : Nat} (hm : m ∈ g.occupied sp.lanes)
    (hn : sp.nextPlane ≤ m) : (Split.issuePlane g sp).isSome = true := by
  rw [Split.issuePlane, Split.enabled_of_no_skip hk, List.find?_isSome]
  exact ⟨m, hm, decide_eq_true ⟨hn, by rw [hr]; exact Nat.zero_le m⟩⟩

/-- The one plane of a split that lies in it is the only one occupied. -/
theorem eq_of_mem_occupied {m : W32} {n k : Nat} (hin : g.inPlane m n = m) (hk : k ∈ g.occupied m) : k = n := by
  obtain ⟨-, l, hl, hb, hlk⟩ := mem_occupied.mp hk
  rw [← hin, getLsbD_inPlane hl, Bool.and_eq_true, decide_eq_true_eq] at hb
  exact hlk.symm.trans hb.2

/-- With no plane left to issue the split goes to the next offset. -/
theorem Split.step_next_offset {n : Nat} (hin : g.inPlane sp.lanes n = sp.lanes) (hk : sp.skip = []) :
    Split.step g sp (some n) = sp.at (sp.pc + 1) := by
  have last : Split.issuePlane g { sp with nextPlane := n + 1 } = none :=
    Split.issuePlane_eq_none hk (fun k hm => (eq_of_mem_occupied hin hm).trans_lt (Nat.lt_succ_self n))
  have hk' : (sp.at (sp.pc + 1)).skip = [] := by rw [Split.at, hk]; rfl
  rw [Split.step, last]
  exact Split.settle_of_no_skip hk' 8

/-- With a lane in a higher plane the split goes there, where neither a skip body nor a replay leaves it out. -/
theorem Split.step_next_plane {n m l : Nat} (hnm : n < m) (hm : m < 4) (hl : l < 32) (hb : sp.lanes.getLsbD l = true)
    (hlm : g.planeOf l = m) (hk : sp.skip = []) (hr : sp.replay = none) :
    Split.step g sp (some n) = { sp with nextPlane := n + 1, wait := .none } := by
  obtain ⟨k, next⟩ := Option.isSome_iff_exists.mp
    (Split.issuePlane_isSome (sp := { sp with nextPlane := n + 1 }) hk hr (mem_occupied.mpr ⟨hm, l, hl, hb, hlm⟩) hnm)
  rw [Split.step, next]

end

/-! ### NOP, YIELD (07 R127, R136) -/

section
variable {s : State} {cx : Ctx} (h : s.ctx? = some cx)
include h

theorem execNop_eq : execNop s = .next (retire cx s) := issue_ok h rfl

/-- The issuing split after its word. -/
theorem split_retire : ((retire cx s).gangAt cx.core cx.gang).splits[cx.split]? = some (cx.advanced s cx.g) := by
  obtain ⟨g', e, x, -, hg⟩ := retire_spec cx s
  have hsp := State.ctx?_split h
  have hlen : cx.split < cx.g.splits.length := (List.getElem?_eq_some_iff.mp hsp).1
  rw [e, State.gangAt_setGang, hg, ← State.ctx?_gang h]
  exact List.getElem?_set_self hlen

/-- The issuing split goes to the next offset from an anchored word, and from the one plane that holds its lanes. -/
theorem advanced_next_offset (hp : cx.plane = none ∨ (cx.lanes = cx.sp.lanes ∧ cx.sp.skip = [])) :
    cx.advanced s cx.g = (cx.sp.spent cx (cx.now s)).at (cx.sp.pc + 1) := by
  unfold Ctx.advanced
  cases hc : cx.plane with
  | none => rfl
  | some n =>
    obtain ⟨hl, hk⟩ := hp.resolve_left (by simp [hc])
    rw [State.ctx?_lanes h, hc] at hl
    exact Split.step_next_offset (sp := cx.sp.spent cx (cx.now s)) hl hk

theorem retires_execYield : Retires cx s { cx.g with yieldAt := some (s.clockAt cx.core).toNat } (execYield s) := by
  have run : execYield s = .next (retire cx (s.setGang cx.core cx.gang { cx.g with yieldAt := some (s.clockAt cx.core).toNat })) :=
    issue_ok h (by rw [State.ctx?_gang h]; rfl)
  exact run ▸ retires_retire_setGang cx s _

end

/-! ### The region stack (07 R142) -/

/-- A packet of the issue changes of the machine the packets queued and the gang's SYNC bookkeeping, and a gang written after it stands as written. -/
theorem emit_spec (cx : Ctx) (cls type bits : Nat) (payload : List Byte) (s : State) : ∃ tr q k,
    (cx.emit cls type bits payload s).gangAt cx.core cx.gang = { s.gangAt cx.core cx.gang with syncDue := q, sinceSync := k } ∧
    ∀ g, (cx.emit cls type bits payload s).setGang cx.core cx.gang g = { s.setGang cx.core cx.gang g with traces := tr } := by
  rcases emitPacket_spec cx.core cx.gang cls type bits cx.src cx.tag (leBytes 2 cx.src ++ payload) s with h | ⟨tr, q, k, h⟩
  · exact ⟨s.traces, _, _, congrArg (fun z => State.gangAt z cx.core cx.gang) h, fun g => congrArg (fun z => State.setGang z cx.core cx.gang g) h⟩
  · refine ⟨tr, q, k, ?_, fun g => ?_⟩ <;> rw [Ctx.emit, h]
    · exact State.gangAt_setGang s cx.core cx.gang _
    · rw [← State.setGang_setGang s cx.core cx.gang _ g]; rfl

section
variable {s : State} {cx : Ctx}

/-- An issue retires after a packet of it and a write of its gang. -/
theorem retiresTraced_retire {s₁ : State} {g : Gang} {tr : SMap TraceBuf} (due : Bool) (k : Nat)
    (hw : ∀ x, s₁.setGang cx.core cx.gang x = { s.setGang cx.core cx.gang x with traces := tr }) :
    RetiresTraced cx s g (.next (retire cx (s₁.setGang cx.core cx.gang { g with syncDue := due, sinceSync := k }))) := by
  obtain ⟨g', e, x, hx, hg⟩ := retire_spec cx (s₁.setGang cx.core cx.gang { g with syncDue := due, sinceSync := k })
  have hclock : cx.now (s₁.setGang cx.core cx.gang { g with syncDue := due, sinceSync := k }) = cx.now s :=
    congrArg BitVec.toNat (clockAt_of_setGang_eq (hw g) _)
  replace e := e.trans ((State.setGang_setGang ..).trans (hw g'))
  rw [State.gangAt_setGang] at hx hg
  refine ⟨_, g', due, k, tr, rfl, ?_, e, x, hx, ?_⟩
  · exact e ▸ (sameMemory_setGang s _ _ _).trans (SameMemory.of_fields rfl rfl rfl rfl (fun _ => rfl))
  · rw [hg, Ctx.advanced, hclock]; rfl

/-- The region stack is written and the REG packet queued (23 R354). -/
theorem retiresTraced_putRegions (h : s.ctx? = some cx) (leave : Nat) (i : BitVec 16) (rs : List (BitVec 16)) :
    RetiresTraced cx s { cx.g with regions := rs } (.next (putRegions cx leave i rs s)) := by
  obtain ⟨tr, due, k, hge, hset⟩ := emit_spec cx 3 6 leave
    (leBytes 2 i.toNat ++ leBytes 1 rs.length ++ ({ cx.g with regions := rs } : Gang).top3) s
  dsimp only [putRegions, State.updGang]
  rw [hge, ← State.ctx?_gang h]
  exact retiresTraced_retire due k hset

/-- An id that no debugger has armed passes the check (23 R348). -/
theorem need_not_armed {i : BitVec 16} (ha : armedId s cx i = false) (e : Stop) : need (!armedId s cx i) e = .ok () := by rw [ha]; rfl

section
variable (h : s.ctx? = some cx) {i : BitVec 16}
include h

theorem execRent_zero : TakesTrap cx s (wordTrap cx .illegalOperand) (execRent 0 s) := issue_trap h rfl

section
variable (ha : armedId s cx i = false)
include ha

theorem execRent_enters (hi : i ≠ 0) (hr : cx.g.regions.length < 16) :
    RetiresTraced cx s { cx.g with regions := i :: cx.g.regions } (execRent i s) := by
  have run : execRent i s = .next (putRegions cx 0 i (i :: cx.g.regions) s) := by
    refine issue_ok h ((bind_of_ok (need_of_true _ (bne_iff_ne.mpr hi)) _).trans ?_)
    refine (bind_of_ok (need_not_armed ha _) _).trans ?_
    exact bind_of_ok (need_of_true _ (decide_eq_true hr)) _
  exact run ▸ retiresTraced_putRegions h 0 i _

theorem execRent_full (hi : i ≠ 0) (hr : 16 ≤ cx.g.regions.length) : TakesTrap cx s (Trap.plain .regionStack) (execRent i s) := by
  refine issue_trap h ((bind_of_ok (need_of_true _ (bne_iff_ne.mpr hi)) _).trans ?_)
  refine (bind_of_ok (need_not_armed ha _) _).trans ?_
  exact bind_of_error (need_of_false _ (decide_eq_false (by omega))) _

theorem execRlev_leaves {rest : List (BitVec 16)} (hr : cx.g.regions = i :: rest) :
    RetiresTraced cx s { cx.g with regions := rest } (execRlev i s) := by
  have run : execRlev i s = .next (putRegions cx 1 i rest s) := by
    refine issue_ok h ((bind_of_ok (need_not_armed ha _) _).trans ?_)
    rw [hr]
    exact if_pos rfl
  exact run ▸ retiresTraced_putRegions h 1 i _

theorem execRlev_not_top (hr : cx.g.regions.head? ≠ some i) : TakesTrap cx s (Trap.plain .regionStack) (execRlev i s) := by
  refine issue_trap h ((bind_of_ok (need_not_armed ha _) _).trans ?_)
  cases hc : cx.g.regions with
  | nil => rfl
  | cons top rest => exact if_neg (fun e => hr (by rw [hc, e]; rfl))

end
end
end

end Sys2Proof.Machine

section
open Sys2Proof Sys2Proof.Machine

/-- Settles O11: NOP and YIELD retire with no other effect, the split's next place is that of 01 R34, and the region stack is checked before it changes. -/
theorem nopYieldRegions : Obligations.NopYieldRegions := by
  unfold Obligations.NopYieldRegions
  intro s cx i h
  have nop : exec .nop s = .next (retire cx s) := execNop_eq h
  rw [nop]
  refine ⟨retires_retire h, fun hp => ?_, fun n m l hp hnm hm hl hb hlm hk hr => ?_, retires_execYield h, execRent_zero h, fun ha => ?_⟩
  · refine ⟨_, _, rfl, split_retire h, ?_⟩
    rw [advanced_next_offset h hp]
    exact ⟨rfl, rfl, rfl⟩
  · refine ⟨_, _, rfl, split_retire h, ?_⟩
    rw [Ctx.advanced, hp, Split.step_next_plane (sp := cx.sp.spent cx (cx.now s)) hnm hm hl hb hlm hk hr]
    exact ⟨rfl, rfl, rfl, rfl⟩
  · exact ⟨execRent_enters h ha, execRent_full h ha, fun _ => execRlev_leaves h ha, execRlev_not_top h ha⟩

end
end
